-- ==== Sys2Proof/Word.lean ====
section
/-! DEFINITION. The word types of the S9 and their plainest arithmetic (R4, R31, spec/00 and spec/02). -/

namespace Sys2Proof

/-- A 64-bit scalar register, address or special register (R7). -/
abbrev Word := BitVec 64

/-- A 32-bit lane register or scalar instruction word (R55, R143). -/
abbrev W32 := BitVec 32

/-- A byte of memory. -/
abbrev Byte := BitVec 8

/-- A plain array of bytes held sparsely: address and byte, addresses strictly rising, no entry equal to the
default byte (the canonical form is stated in Machine/Memory.lean). -/
abbrev Mem := List (Nat × BitVec 8)

/-- A file of 32-bit lane registers held sparsely, keyed 32 × register + lane. -/
abbrev LaneFile := List (Nat × BitVec 32)

end Sys2Proof
end

