-- ==== Sys2Proof/Syntax.lean ====
section
/-! DEFINITION. The instructions of the S9: one constructor for every row of the opcode table. A scalar word carries
its fields (R55), a lane word the fields of R65, and a step of the part with no word of its own the object it is
about (spec/95_what_each_step_holds.md).

The hold bit H, bit 31 of every scalar word and bit 95 of every lane word, is no field of a constructor: it means the
same on every word (R19, R176), so the decoders give it beside the instruction, the encoder takes it beside the
instruction, and the machine keeps it with the word being executed (`State.cur`). The rows whose word holds nothing
else stand after the lane words, so that every word's constructor can be built by compiled code. -/

namespace Sys2Proof

/-- The fields of a 96-bit lane word other than the hold bit and op8, which the constructor gives (R65). -/
structure LaneW where
  u    : Bool
  msel : BitVec 3
  minv : Bool
  d    : BitVec 9
  a    : BitVec 9
  b    : BitVec 9
  c    : BitVec 9
  fn6  : BitVec 6
  md8  : BitVec 8
  imm  : BitVec 32
  deriving DecidableEq, Repr

/-- Whose access a page walk serves: the scalar stream or the lane unit of a group, or an engine operation (R246). -/
inductive Walker where
  | scalar (g : Nat)
  | lane (g : Nat)
  | engine (op : Nat)
  deriving DecidableEq, Repr

/-- Where an uncorrectable error is found (R374): a 128-byte sector of DRAM or of a home cache, an 8-byte word of a
core's scratchpad or accumulator, or a register of a group. -/
inductive ErrorSite where
  | sector (n : Nat)
  | homeCache (n : Nat)
  | scratch (core word : Nat)
  | accumulator (core word : Nat)
  | register (g v : Nat)
  deriving DecidableEq, Repr

/-- What a fabric request asks of the target (R440). -/
inductive FabricOp where
  | load (bytes : Nat)
  | store (data : List Byte)
  | atomic (op : BitVec 4) (dword : Bool) (operand : Word)
  | compareSwap (dword : Bool) (expected new : Word)
  | reduction (op : BitVec 4) (dword : Bool) (operand : Word)
  | fenceSequence
  | fetchTranslation
  | invalidated
  deriving DecidableEq, Repr

/-- A request that reaches the module from a fabric peer (R438 to R442). `compat` marks a request of a context in compatibility
mode, which carries no token. In that mode a source fetches a page's translation, and acknowledges an invalidation of it. -/
structure FabricRequest where
  source   : Nat
  srcCtx   : Nat
  sequence : Nat
  token    : Word
  compat   : Bool
  target   : Nat
  region   : BitVec 12
  offset   : BitVec 30
  op       : FabricOp
  deriving DecidableEq, Repr

/-- A request of the management path (R460): over the host's mailbox or over the sideband port. An automaton is
armed for a context, or for every one (ALLCTX, R399). -/
inductive ManagementRequest where
  | measurements (ctx : Nat)
  | unauthenticated
  | assignWorld (die : Nat) (world : BitVec 4)
  | arm (unit automaton : Nat) (table : List Byte) (ctx : Option Nat)
  | disarm (unit automaton : Nat) (ctx : Option Nat)
  | gctl (die : Nat) (value : Word)
  | readBudget (core : Nat)
  | readStatus
  deriving DecidableEq, Repr

/-- What the device supervisor sets when it creates a context (R434). -/
structure ContextSpec where
  number    : Nat
  root      : Word
  world     : BitVec 4
  trapBase  : Word
  laneEntry : Word
  stopBase  : Word
  stopSize  : Nat
  slice     : Nat
  tokBase   : Word
  gtBase    : Word
  logBase   : Word
  logSize   : Nat
  xcompat   : Bool
  prot      : Bool
  measure   : List Byte
  deriving DecidableEq, Repr

/-- One row of the opcode table. -/
inductive Instr where
  -- scalar words (R55 to R64)
  /-- R77. Scalar add: s[sd] = s[sa] + s[sb] modulo 2^64. -/
  | add (d : BitVec 6) (a : BitVec 6) (b : BitVec 6)
  /-- R77. Scalar subtract: s[sd] = s[sa] - s[sb] modulo 2^64. -/
  | sub (d : BitVec 6) (a : BitVec 6) (b : BitVec 6)
  /-- R77. Scalar bitwise AND of two registers. -/
  | and (d : BitVec 6) (a : BitVec 6) (b : BitVec 6)
  /-- R77. Scalar bitwise OR of two registers. -/
  | or (d : BitVec 6) (a : BitVec 6) (b : BitVec 6)
  /-- R77. Scalar bitwise XOR of two registers. -/
  | xor (d : BitVec 6) (a : BitVec 6) (b : BitVec 6)
  /-- R77. Scalar a AND NOT b. -/
  | andn (d : BitVec 6) (a : BitVec 6) (b : BitVec 6)
  /-- R77. Scalar shift left by the low six bits of b. -/
  | shl (d : BitVec 6) (a : BitVec 6) (b : BitVec 6)
  /-- R77. Scalar logical shift right by the low six bits of b. -/
  | shr (d : BitVec 6) (a : BitVec 6) (b : BitVec 6)
  /-- R77. Scalar arithmetic shift right by the low six bits of b. -/
  | sar (d : BitVec 6) (a : BitVec 6) (b : BitVec 6)
  /-- R77. Scalar rotate left by the low six bits of b. -/
  | rol (d : BitVec 6) (a : BitVec 6) (b : BitVec 6)
  /-- R77. Scalar signed minimum. -/
  | min (d : BitVec 6) (a : BitVec 6) (b : BitVec 6)
  /-- R77. Scalar signed maximum. -/
  | max (d : BitVec 6) (a : BitVec 6) (b : BitVec 6)
  /-- R77. Scalar natural minimum. -/
  | minn (d : BitVec 6) (a : BitVec 6) (b : BitVec 6)
  /-- R77. Scalar natural maximum. -/
  | maxn (d : BitVec 6) (a : BitVec 6) (b : BitVec 6)
  /-- R77. Deferred scalar multiply, low 64 bits of the product. -/
  | mul (d : BitVec 6) (a : BitVec 6) (b : BitVec 6)
  /-- R77. Deferred scalar signed multiply, high 64 bits. -/
  | mulh (d : BitVec 6) (a : BitVec 6) (b : BitVec 6)
  /-- R77. Deferred scalar natural multiply, high 64 bits. -/
  | mulhn (d : BitVec 6) (a : BitVec 6) (b : BitVec 6)
  /-- R77. Deferred scalar signed divide with the fixed results of R32. -/
  | div (d : BitVec 6) (a : BitVec 6) (b : BitVec 6)
  /-- R77. Deferred scalar natural divide. -/
  | divn (d : BitVec 6) (a : BitVec 6) (b : BitVec 6)
  /-- R77. Deferred scalar signed remainder. -/
  | rem (d : BitVec 6) (a : BitVec 6) (b : BitVec 6)
  /-- R77. Deferred scalar natural remainder. -/
  | remn (d : BitVec 6) (a : BitVec 6) (b : BitVec 6)
  /-- R77. Count leading zero bits of s[sa]. -/
  | clz (d : BitVec 6) (a : BitVec 6)
  /-- R77. Count trailing zero bits of s[sa]. -/
  | ctz (d : BitVec 6) (a : BitVec 6)
  /-- R77. Count one bits of s[sa]. -/
  | popc (d : BitVec 6) (a : BitVec 6)
  /-- R77. Reverse the bits of s[sa]. -/
  | brev (d : BitVec 6) (a : BitVec 6)
  /-- R81. Compare two scalar registers by a condition and write a condition register. -/
  | cmp (a : BitVec 6) (b : BitVec 6) (k : BitVec 4) (c : BitVec 3)
  /-- R78. Add a sign-extended 13-bit immediate. -/
  | addi (d : BitVec 6) (a : BitVec 6) (i : BitVec 13)
  /-- R78. AND with a sign-extended immediate. -/
  | andi (d : BitVec 6) (a : BitVec 6) (i : BitVec 13)
  /-- R78. OR with a sign-extended immediate. -/
  | ori (d : BitVec 6) (a : BitVec 6) (i : BitVec 13)
  /-- R78. XOR with a sign-extended immediate. -/
  | xori (d : BitVec 6) (a : BitVec 6) (i : BitVec 13)
  /-- R79. Shift left by an immediate amount. -/
  | shli (d : BitVec 6) (a : BitVec 6) (n : BitVec 6)
  /-- R79. Logical shift right by an immediate amount. -/
  | shri (d : BitVec 6) (a : BitVec 6) (n : BitVec 6)
  /-- R79. Arithmetic shift right by an immediate amount. -/
  | sari (d : BitVec 6) (a : BitVec 6) (n : BitVec 6)
  /-- R79. Rotate left by an immediate amount. -/
  | roli (d : BitVec 6) (a : BitVec 6) (n : BitVec 6)
  /-- R82. Compare a scalar register with a sign-extended immediate into a condition register. -/
  | cmpi (k : BitVec 3) (c : BitVec 3) (a : BitVec 6) (i : BitVec 13)
  /-- R78. Deferred multiply by a sign-extended immediate. -/
  | muli (d : BitVec 6) (a : BitVec 6) (i : BitVec 13)
  /-- R80. Write Sext(imm19) shifted left by 13. -/
  | lui (d : BitVec 6) (i : BitVec 19)
  /-- R80. Write the instruction address plus Sext(imm19) x 4. -/
  | addpc (d : BitVec 6) (i : BitVec 19)
  /-- R83. Select s[sa] or s[sb] by a possibly inverted condition register. -/
  | sel (d : BitVec 6) (a : BitVec 6) (b : BitVec 6) (n : Bool) (c : BitVec 3)
  /-- R84. Set a condition register to s[sa] != 0. -/
  | cset (d : BitVec 3) (a : BitVec 6)
  /-- R84. AND of two condition registers. -/
  | cand (d : BitVec 3) (a : BitVec 3) (b : BitVec 3)
  /-- R84. OR of two condition registers. -/
  | cor (d : BitVec 3) (a : BitVec 3) (b : BitVec 3)
  /-- R84. XOR of two condition registers. -/
  | cxor (d : BitVec 3) (a : BitVec 3) (b : BitVec 3)
  /-- R84. NOT of a condition register. -/
  | cnot (d : BitVec 3) (a : BitVec 3)
  /-- R84. Copy a condition register into a scalar register. -/
  | movc (d : BitVec 6) (a : BitVec 3)
  /-- R85. Conditional branch on c or ~c by a word offset. -/
  | br (c : BitVec 3) (n : Bool) (o : BitVec 19)
  /-- R86. Jump by word offset, writing the link to sd. -/
  | jmp (d : BitVec 6) (o : BitVec 19)
  /-- R87. Jump to register plus offset, writing the link to sd. -/
  | jr (d : BitVec 6) (a : BitVec 6) (i : BitVec 13)
  /-- R114. Raise SWTRAP with TVAL = s[sa]. -/
  | trap (a : BitVec 6)
  /-- R88. Load a byte from global memory, zero-extended. -/
  | ldb (d : BitVec 6) (a : BitVec 6) (o : BitVec 10)
  /-- R88. Load a halfword, zero-extended. -/
  | ldh (d : BitVec 6) (a : BitVec 6) (o : BitVec 10)
  /-- R88. Load a word, zero-extended. -/
  | ldw (d : BitVec 6) (a : BitVec 6) (o : BitVec 10)
  /-- R88. Load a doubleword. -/
  | ldd (d : BitVec 6) (a : BitVec 6) (o : BitVec 10)
  /-- R88. Load a byte, sign-extended. -/
  | ldbs (d : BitVec 6) (a : BitVec 6) (o : BitVec 10)
  /-- R88. Load a halfword, sign-extended. -/
  | ldhs (d : BitVec 6) (a : BitVec 6) (o : BitVec 10)
  /-- R88. Load a word, sign-extended. -/
  | ldws (d : BitVec 6) (a : BitVec 6) (o : BitVec 10)
  /-- R88. Store a byte into the store queue. -/
  | stb (d : BitVec 6) (a : BitVec 6) (o : BitVec 10)
  /-- R88. Store a halfword. -/
  | sth (d : BitVec 6) (a : BitVec 6) (o : BitVec 10)
  /-- R88. Store a word. -/
  | stw (d : BitVec 6) (a : BitVec 6) (o : BitVec 10)
  /-- R88. Store a doubleword. -/
  | std (d : BitVec 6) (a : BitVec 6) (o : BitVec 10)
  /-- R93. Relaxed scoped load. -/
  | ldqRlx (d : BitVec 6) (a : BitVec 6) (s : BitVec 3) (z : BitVec 2)
  /-- R93. Acquire load at a scope, invalidating the near cache at die or wider. -/
  | ldqAcq (d : BitVec 6) (a : BitVec 6) (s : BitVec 3) (z : BitVec 2)
  /-- R94. Relaxed scoped store. -/
  | stqRlx (a : BitVec 6) (b : BitVec 6) (s : BitVec 3) (z : BitVec 2)
  /-- R94. Cumulative release store at a scope. -/
  | stqRel (a : BitVec 6) (b : BitVec 6) (s : BitVec 3) (z : BitVec 2)
  /-- R95. Atomic add at the home, returning the old value. -/
  | amoAdd (d : BitVec 6) (a : BitVec 6) (b : BitVec 6) (w : Bool)
  /-- R95. Atomic AND. -/
  | amoAnd (d : BitVec 6) (a : BitVec 6) (b : BitVec 6) (w : Bool)
  /-- R95. Atomic OR. -/
  | amoOr (d : BitVec 6) (a : BitVec 6) (b : BitVec 6) (w : Bool)
  /-- R95. Atomic XOR. -/
  | amoXor (d : BitVec 6) (a : BitVec 6) (b : BitVec 6) (w : Bool)
  /-- R95. Atomic signed minimum. -/
  | amoMin (d : BitVec 6) (a : BitVec 6) (b : BitVec 6) (w : Bool)
  /-- R95. Atomic signed maximum. -/
  | amoMax (d : BitVec 6) (a : BitVec 6) (b : BitVec 6) (w : Bool)
  /-- R95. Atomic natural minimum. -/
  | amoMinn (d : BitVec 6) (a : BitVec 6) (b : BitVec 6) (w : Bool)
  /-- R95. Atomic natural maximum. -/
  | amoMaxn (d : BitVec 6) (a : BitVec 6) (b : BitVec 6) (w : Bool)
  /-- R95. Atomic swap. -/
  | amoSwap (d : BitVec 6) (a : BitVec 6) (b : BitVec 6) (w : Bool)
  /-- R96. Compare and swap at the home, returning the old value. -/
  | cas (d : BitVec 6) (a : BitVec 6) (b : BitVec 6) (w : Bool)
  /-- R97. Acquire fence at a scope, parking until earlier reads return. -/
  | fenceAcq (s : BitVec 3)
  /-- R97. Cumulative release fence at a scope. -/
  | fenceRel (s : BitVec 3)
  /-- R97. Acquire and release fence at a scope. -/
  | fenceAcqrel (s : BitVec 3)
  /-- R97. Sequentially consistent fence, parking until reads return and writes are performed. -/
  | fenceSc (s : BitVec 3)
  /-- R91. Load a byte from the team scratch window. -/
  | ldspB (d : BitVec 6) (a : BitVec 6) (o : BitVec 10)
  /-- R91. Load a halfword from scratch. -/
  | ldspH (d : BitVec 6) (a : BitVec 6) (o : BitVec 10)
  /-- R91. Load a word from scratch. -/
  | ldspW (d : BitVec 6) (a : BitVec 6) (o : BitVec 10)
  /-- R91. Load a doubleword from scratch. -/
  | ldspD (d : BitVec 6) (a : BitVec 6) (o : BitVec 10)
  /-- R91. Load a sign-extended byte from scratch. -/
  | ldspBs (d : BitVec 6) (a : BitVec 6) (o : BitVec 10)
  /-- R91. Load a sign-extended halfword from scratch. -/
  | ldspHs (d : BitVec 6) (a : BitVec 6) (o : BitVec 10)
  /-- R91. Load a sign-extended word from scratch. -/
  | ldspWs (d : BitVec 6) (a : BitVec 6) (o : BitVec 10)
  /-- R91. Store a byte to scratch. -/
  | stspB (d : BitVec 6) (a : BitVec 6) (o : BitVec 10)
  /-- R91. Store a halfword to scratch. -/
  | stspH (d : BitVec 6) (a : BitVec 6) (o : BitVec 10)
  /-- R91. Store a word to scratch. -/
  | stspW (d : BitVec 6) (a : BitVec 6) (o : BitVec 10)
  /-- R91. Store a doubleword to scratch. -/
  | stspD (d : BitVec 6) (a : BitVec 6) (o : BitVec 10)
  /-- R101. Translate a base and load a datum register. -/
  | datumSet (a : BitVec 6) (n : BitVec 3)
  /-- R100. Clear the valid bit of a datum register. -/
  | datumClear (n : BitVec 3)
  /-- R102. Read a datum register's query word. -/
  | datumQuery (d : BitVec 6) (n : BitVec 3)
  /-- R104. Read a special register. -/
  | getsr (d : BitVec 6) (i : BitVec 13)
  /-- R104. Write a special register subject to its access. -/
  | setsr (a : BitVec 6) (i : BitVec 13)
  /-- R108. Capture a uniform frame and queue a lane block. -/
  | lrun (a : BitVec 6) (i : BitVec 13)
  /-- R110. Park until outstanding blocks number at most s[sa]. -/
  | lwait (a : BitVec 6)
  /-- R112. Read one lane's v register into a scalar register once the lane unit is frozen or idle. -/
  | lget (d : BitVec 6) (v : BitVec 8) (l : BitVec 5)
  /-- R112. Write one lane's v register from a scalar register once the lane unit is frozen or idle. -/
  | lset (a : BitVec 6) (v : BitVec 8) (l : BitVec 5)
  /-- R113. Read a mask register into a scalar register. -/
  | lmaskRead (d : BitVec 6) (m : BitVec 3)
  /-- R113. Write a mask register from a scalar register. -/
  | lmaskWrite (a : BitVec 6) (m : BitVec 3)
  /-- R307. Check a joint matrix operation and arrive at the quad crossbar latch. -/
  | mma (d : BitVec 6) (a : BitVec 6) (b : BitVec 6)
  /-- R300. Write the gang register. -/
  | mgang (a : BitVec 6)
  /-- R314. Park until outstanding matrix operations number at most s[sa]. -/
  | mwait (a : BitVec 6)
  /-- R315. Zero an accumulator range as a matrix operation. -/
  | accz (a : BitVec 6) (b : BitVec 6)
  /-- R316. Convert an accumulator region into a narrow format in scratch. -/
  | accv (d : BitVec 6) (a : BitVec 6) (b : BitVec 6)
  /-- R327. Issue a global-to-scratch copy. -/
  | cpyG2s (d : BitVec 6) (a : BitVec 6) (u : Bool) (x : Bool) (l : Bool)
  /-- R327. Issue a scratch-to-global copy. -/
  | cpyS2g (d : BitVec 6) (a : BitVec 6) (u : Bool) (x : Bool) (l : Bool)
  /-- R327. Issue a gather copy into scratch. -/
  | cpyGth (d : BitVec 6) (a : BitVec 6) (u : Bool) (x : Bool) (l : Bool)
  /-- R327. Issue a scatter copy from scratch. -/
  | cpySct (d : BitVec 6) (a : BitVec 6) (u : Bool) (x : Bool) (l : Bool)
  /-- R327. Issue a global-to-global copy. -/
  | cpyG2g (d : BitVec 6) (a : BitVec 6) (u : Bool) (x : Bool) (l : Bool)
  /-- R338. Park until the masked tokens complete and report any fault record. -/
  | cpyw (d : BitVec 6) (a : BitVec 6)
  /-- R338. Report completed masked tokens without parking. -/
  | cpywPoll (d : BitVec 6) (a : BitVec 6)
  /-- R339. Park on a token mask, giving up issue, and continue at a label. -/
  | yieldc (a : BitVec 6) (i : BitVec 13)
  /-- R340. Join a sum collective and take a token. -/
  | collSum (d : BitVec 6) (a : BitVec 6) (t : Bool) (s : BitVec 3)
  /-- R340. Join a max collective. -/
  | collMax (d : BitVec 6) (a : BitVec 6) (t : Bool) (s : BitVec 3)
  /-- R340. Join a min collective. -/
  | collMin (d : BitVec 6) (a : BitVec 6) (t : Bool) (s : BitVec 3)
  /-- R340. Join a gather collective. -/
  | collGather (d : BitVec 6) (a : BitVec 6) (t : Bool) (s : BitVec 3)
  /-- R340. Join a broadcast collective. -/
  | collBcast (d : BitVec 6) (a : BitVec 6) (t : Bool) (s : BitVec 3)
  /-- R266. Initialise a barrier word with EXPECTED. -/
  | barInit (a : BitVec 6) (b : BitVec 6)
  /-- R267. Relaxed arrival at a barrier. -/
  | barArvRlx (d : BitVec 6) (a : BitVec 6)
  /-- R267. Release arrival at a barrier. -/
  | barArvRel (d : BitVec 6) (a : BitVec 6)
  /-- R266. Park until a barrier's phase differs from the given one. -/
  | barWait (d : BitVec 6) (a : BitVec 6) (b : BitVec 6)
  /-- R266. Release arrival then wait on the phase arrived in. -/
  | barArw (d : BitVec 6) (a : BitVec 6)
  /-- R268. Remote arrival at a barrier on another core, parking for acknowledgement. -/
  | barArvx (a : BitVec 6)
  /-- R266. Relaxed read of a barrier word. -/
  | barQuery (d : BitVec 6) (a : BitVec 6)
  /-- R408. Queue a Plumb store at the die's Plumb port. -/
  | plst (d : BitVec 6) (a : BitVec 6) (b : BitVec 6)
  /-- R408. Queue a replicated Plumb atomic add. -/
  | plamoAdd (d : BitVec 6) (a : BitVec 6) (b : BitVec 6)
  /-- R408. Queue a replicated Plumb atomic signed max. -/
  | plamoMax (d : BitVec 6) (a : BitVec 6) (b : BitVec 6)
  /-- R408. Queue a replicated Plumb compare and swap. -/
  | plamoCas (d : BitVec 6) (a : BitVec 6) (b : BitVec 6)
  /-- R411. Park until the replica is current and return its sequence number. -/
  | plsync (d : BitVec 6)
  /-- R421. Create a counted tensor from a creation record. -/
  | thnew (d : BitVec 6) (a : BitVec 6) (b : BitVec 6)
  /-- R421. Split a handle's weight, or create an indirection when exhausted. -/
  | thcopy (d : BitVec 6) (a : BitVec 6)
  /-- R422. Send a handle's weight home as a release at pkg. -/
  | thdrop (a : BitVec 6)
  /-- R423. Bind a finaliser launch record to a live tensor. -/
  | thbind (a : BitVec 6) (b : BitVec 6)
  /-- R424. Open a new write version of a live tensor. -/
  | tver (d : BitVec 6) (a : BitVec 6)
  /-- R424. Read a tensor entry field by selector. -/
  | thinfo (d : BitVec 6) (a : BitVec 6) (b : BitVec 6)
  /-- R320. Clear a checksum register. -/
  | ckclr (k : BitVec 2)
  /-- R320. Read a checksum register. -/
  | ckrd (d : BitVec 6) (k : BitVec 2)
  /-- R321. Compare a checksum pair by a tolerance word, raising CHECK on failure. -/
  | ckchk (a : BitVec 6)
  /-- R320. Add a scalar register to a checksum register. -/
  | ckadd (k : BitVec 2) (a : BitVec 6)
  /-- R160. Read a launch record, validate it and queue a new grid. -/
  | launch (d : BitVec 6) (a : BitVec 6)
  /-- R163. Park until a grid completes and write its status. -/
  | gwait (d : BitVec 6) (a : BitVec 6)
  /-- R164. Return a grid's status without parking. -/
  | gquery (d : BitVec 6) (a : BitVec 6)
  /-- R155. Move the group to another role, restarting at its entry. -/
  | rolesw (a : BitVec 6)
  /-- R156. Read a role's description word. -/
  | roleq (d : BitVec 6) (a : BitVec 6)
  /-- R397. Emit one SW_EVT event. -/
  | evt (a : BitVec 6) (b : BitVec 6)
  /-- R398. Supervisor-only: read an automaton table and ask a trigger unit to arm it. -/
  | tarm (d : BitVec 6) (a : BitVec 6) (b : BitVec 6)
  /-- R399. Supervisor-only: disarm an automaton, freeing its comparators and timers. -/
  | tdisarm (d : BitVec 6) (a : BitVec 6)
  /-- R449. Open a seal with an algorithm and key slot. -/
  | sopen (d : BitVec 6) (a : BitVec 6) (b : BitVec 6)
  /-- R449. Queue a byte range for hashing into a held seal. -/
  | sadd (d : BitVec 6) (a : BitVec 6) (b : BitVec 6)
  /-- R449. Close a seal, parking until its ranges are hashed. -/
  | sclose (d : BitVec 6) (a : BitVec 6)
  -- control-core words (R241)
  /-- R242. Control-core instruction sending removal of translations of a range to every translation holder. -/
  | dtlbi (b : BitVec 5) (a : BitVec 5)
  -- lane words (R65 to R71)
  /-- R178. Lane 32-bit add, wrapping or saturating. -/
  | iadd (w : LaneW)
  /-- R178. Lane 32-bit subtract. -/
  | isub (w : LaneW)
  /-- R178. Lane 32-bit multiply, low half. -/
  | imul (w : LaneW)
  /-- R178. Lane 32-bit multiply, high half. -/
  | imulh (w : LaneW)
  /-- R178. Lane multiply-add. -/
  | imad (w : LaneW)
  /-- R178. Lane integer minimum. -/
  | imin (w : LaneW)
  /-- R178. Lane integer maximum. -/
  | imax (w : LaneW)
  /-- R178. Lane absolute value. -/
  | iabs (w : LaneW)
  /-- R178. Lane bitwise AND. -/
  | laneAnd (w : LaneW)
  /-- R178. Lane bitwise OR. -/
  | laneOr (w : LaneW)
  /-- R178. Lane bitwise XOR. -/
  | laneXor (w : LaneW)
  /-- R178. Lane three-input bitwise lookup table. -/
  | blut (w : LaneW)
  /-- R178. Lane shift left. -/
  | laneShl (w : LaneW)
  /-- R178. Lane logical shift right. -/
  | laneShr (w : LaneW)
  /-- R178. Lane arithmetic shift right. -/
  | laneSar (w : LaneW)
  /-- R178. Lane rotate left. -/
  | laneRol (w : LaneW)
  /-- R178. Lane population count. -/
  | lanePopc (w : LaneW)
  /-- R178. Lane count leading zeros. -/
  | laneClz (w : LaneW)
  /-- R178. Lane bit reverse. -/
  | laneBrev (w : LaneW)
  /-- R179. Lane bit-field extract. -/
  | bfe (w : LaneW)
  /-- R179. Lane bit-field insert. -/
  | bfi (w : LaneW)
  /-- R180. Lane integer compare combined into a mask register. -/
  | isetp (w : LaneW)
  /-- R181. Lane select by a mask register. -/
  | laneSel (w : LaneW)
  /-- R178. Lane move. -/
  | mov (w : LaneW)
  /-- R178. Lane 64-bit pair add. -/
  | iadd64 (w : LaneW)
  /-- R178. Deferred lane 64-bit pair multiply. -/
  | imul64 (w : LaneW)
  /-- R178. Deferred lane integer divide by R32. -/
  | idiv (w : LaneW)
  /-- R178. Deferred lane integer remainder by R32. -/
  | irem (w : LaneW)
  /-- R182. Lane four-way byte dot product with accumulate. -/
  | dot4 (w : LaneW)
  /-- R183. Lane byte select from two words. -/
  | bsel (w : LaneW)
  /-- R184. Lane 64-bit address with scaled index. -/
  | lea (w : LaneW)
  /-- R185. Lane F32 add. -/
  | fadd (w : LaneW)
  /-- R185. Lane F32 subtract. -/
  | fsub (w : LaneW)
  /-- R185. Lane F32 multiply. -/
  | fmul (w : LaneW)
  /-- R185. Lane F32 fused multiply-add. -/
  | ffma (w : LaneW)
  /-- R186. Lane F32 minimum. -/
  | fmin (w : LaneW)
  /-- R186. Lane F32 maximum. -/
  | fmax (w : LaneW)
  /-- R187. Lane F32 compare into a mask register. -/
  | fsetp (w : LaneW)
  /-- R188. Lane F32 classification. -/
  | fclass (w : LaneW)
  /-- R189. Deferred lane reciprocal, rounded once. -/
  | frcp (w : LaneW)
  /-- R189. Deferred lane reciprocal square root. -/
  | frsq (w : LaneW)
  /-- R189. Deferred lane square root. -/
  | fsqrt (w : LaneW)
  /-- R189. Deferred lane base-2 exponential. -/
  | fexp2 (w : LaneW)
  /-- R189. Deferred lane base-2 logarithm. -/
  | flog2 (w : LaneW)
  /-- R189. Deferred lane sine of an argument in turns. -/
  | fsin (w : LaneW)
  /-- R189. Deferred lane cosine of an argument in turns. -/
  | fcos (w : LaneW)
  /-- R189. Deferred lane F32 divide. -/
  | fdiv (w : LaneW)
  /-- R190. Lane packed-half add. -/
  | pkadd (w : LaneW)
  /-- R190. Lane packed-half multiply. -/
  | pkmul (w : LaneW)
  /-- R190. Lane packed-half fused multiply-add. -/
  | pkfma (w : LaneW)
  /-- R190. Lane packed-half min or max. -/
  | pkmnx (w : LaneW)
  /-- R191. Lane conversion between floating and narrow formats. -/
  | fcvt (w : LaneW)
  /-- R192. Lane F32 to integer conversion. -/
  | f2i (w : LaneW)
  /-- R192. Lane integer to F32 conversion. -/
  | i2f (w : LaneW)
  /-- R193. Lane round to integral F32. -/
  | frnd (w : LaneW)
  /-- R193. Lane multiply by a power of two. -/
  | fscale (w : LaneW)
  /-- R194. Lane convert two F32 values into a narrow pair within a word. -/
  | pack (w : LaneW)
  /-- R195. Lane exact widening of one narrow element to F32. -/
  | unpack (w : LaneW)
  /-- R250. Lane load from a global, datum, scratch or Plumb space. -/
  | ld (w : LaneW)
  /-- R250. Lane store into the group store queue in lane order. -/
  | st (w : LaneW)
  /-- R254. Lane atomic with return, aggregated by address class. -/
  | atom (w : LaneW)
  /-- R255. Lane compare and swap applied lane by lane. -/
  | atcas (w : LaneW)
  /-- R254. Lane reduction without return, aggregated by address class. -/
  | red (w : LaneW)
  /-- R258. Lane-stream fence of a kind at a scope. -/
  | fenceL (w : LaneW)
  /-- R260. Lane channel send of one slot. -/
  | send (w : LaneW)
  /-- R261. Lane channel receive of one slot or closed status. -/
  | recv (w : LaneW)
  /-- R263. Handler-only: map a page from the reserve pool and return a status. -/
  | lsmap (w : LaneW)
  /-- R197. Deferred cross-lane shuffle. -/
  | shfl (w : LaneW)
  /-- R198. Cross-lane vote of a kind. -/
  | vote (w : LaneW)
  /-- R198. Cross-lane ballot mask. -/
  | ballot (w : LaneW)
  /-- R199. Deferred mask of lanes holding an equal value. -/
  | lmatch (w : LaneW)
  /-- R200. Deferred cross-lane reduction in lane order. -/
  | redux (w : LaneW)
  /-- R200. Deferred cross-lane prefix scan. -/
  | scan (w : LaneW)
  /-- R201. Lane rank, count or first of the active set. -/
  | lid (w : LaneW)
  /-- R202. Lane branch, forking slices or raising UNIFORM for bra.u. -/
  | bra (w : LaneW)
  /-- R203. Park a fragment at a regang. -/
  | regang (w : LaneW)
  /-- R204. End the block for the gang's lanes. -/
  | lend (w : LaneW)
  /-- R264. Handler-only: return the fragment to user mode and replay the faulting word. -/
  | fresume (w : LaneW)
  /-- R204. Lane no operation. -/
  | lnop (w : LaneW)
  /-- R205. Emit one SW_EVT from the lane stream. -/
  | evtl (w : LaneW)
  /-- R206. Add active lanes' values into a checksum register. -/
  | ckacc (w : LaneW)
  /-- R207. Raise a lane SWTRAP or escalate the handler's fault. -/
  | ltrap (w : LaneW)
  /-- R317. Deferred lane load from the accumulator window. -/
  | accld (w : LaneW)
  /-- R317. Lane store to the accumulator window. -/
  | accst (w : LaneW)
  -- scalar and control-core words with no field but the hold bit
  /-- R114. No operation. -/
  | nop
  /-- R115. Begin retirement of the group after its blocks and scalar results finish. -/
  | exit
  /-- R116. Mark both streams most recently issued in their priority class. -/
  | yield
  /-- R114. Raise BKPT with TPC at the next instruction. -/
  | bkpt
  /-- R117. Return from a handler to TPC, restoring mode and thawing the lane unit. -/
  | tret
  /-- R118. Open an idempotent region after waiting for blocks and results. -/
  | idemb
  /-- R118. Close an idempotent region after waiting for blocks. -/
  | ideme
  /-- R120. Supervisor-only: wait for results, then stop both streams and interrupt the control cores. -/
  | halt
  /-- R116. Park the scalar stream until an engine completion, block end, trap or 4,096 clocks. -/
  | sleep
  /-- R409. Make the group's next Plumb write a release at stk. -/
  | plfence
  /-- R410. Park until the group's earlier Plumb writes are applied at every awake replica. -/
  | plwait
  /-- R243. Control-core instruction that retires once earlier dtlbi have drained and near caches are emptied. -/
  | dtlbf
  -- steps of the part with no word of their own
  /-- R17. A deferred scalar result returns and is written to its register. -/
  | scalarResultWrite (g : Nat) (k : Nat)
  /-- R174. A deferred lane result returns and is written. -/
  | laneResultWrite (g : Nat) (k : Nat)
  /-- R19. All outstanding scalar results are written; pending bits clear and the stream resumes. -/
  | holdParkComplete (g : Nat)
  /-- R176. All outstanding lane results are written; lane pending bits clear and the lane stream resumes. -/
  | laneHoldComplete (g : Nat)
  /-- R26. After the drain, trap registers are written and the stream vectors in supervisor mode. -/
  | trapEntry (g : Nat)
  /-- R351. Group-level entry of a lane-originated trap after the lane unit freezes. -/
  | laneTrapEntry (g : Nat)
  /-- R350. A waiting async cause is taken once the group is in user mode and not stopped. -/
  | asyncCauseTaken (g : Nat)
  /-- R23. A page walk ends and the stalled access proceeds or faults. -/
  | walkComplete (w : Walker)
  /-- R246. Every 2,048 clocks a waiting walk reads a held PTE again. -/
  | heldPteReread (w : Walker)
  /-- R246. After 2^26 clocks on a held PTE the access faults with XLATE. -/
  | heldPteTimeout (w : Walker)
  /-- R236. The first-touch unit installs a zeroed frame into an anon-untouched PTE by cas. -/
  | firstTouch (w : Walker)
  /-- R152. When every live fragment is parked at a regang, those at the lowest LPC merge and resume. -/
  | regangRelease (g : Nat)
  /-- R108. A stalled lrun appends its block once the queue has room. -/
  | blockAppend (g : Nat)
  /-- R146. The next queued block starts with all lanes live at its start LPC. -/
  | blockStart (g : Nat)
  /-- R147. A block ends when no lane is live and its results are written. -/
  | blockEnd (g : Nat)
  /-- R110. Outstanding blocks fall to the limit and the parked lwait completes. -/
  | lwaitComplete (g : Nat)
  /-- R112. A waiting lget, lset or lmask acts once the lane unit is frozen or idle. -/
  | laneStateWaitEnd (g : Nat)
  /-- R115. An exiting group retires once its blocks and results finish, freeing its slot. -/
  | groupRetire (g : Nat)
  /-- R116. A sleeping stream resumes on a completion, block end, trap or 4,096 clocks. -/
  | sleepEnd (g : Nat)
  /-- R97. The condition of a parked fence holds and the stream resumes. -/
  | fenceParkComplete (lane : Bool) (g : Nat)
  /-- R120. After results return, a halting group stops and interrupts the control cores. -/
  | haltStop (g : Nat)
  /-- R155. After its waits, rolesw resizes registers and restarts at the new role's entry. -/
  | roleswComplete (g : Nat)
  /-- R118. After its waits, idemb takes the register snapshot and sets IDEM.IN. -/
  | idembSnapshot (g : Nat)
  /-- R118. After its wait, ideme clears IDEM.IN. -/
  | idemeComplete (g : Nat)
  /-- R89. A store leaves the group FIFO store queue into the core store order. -/
  | storeQueueDrain (g : Nat)
  /-- R90. An access to an SC page completes and the parked stream resumes. -/
  | scAccessComplete (lane : Bool) (g : Nat)
  /-- R222. A home slice applies a load, store, atomic or fill for an address it homes. -/
  | homeRequest (core : Nat) (k : Nat)
  /-- R219. A near-cache line is replaced at any time. -/
  | nearCacheReplacement (core : Nat) (k : Nat)
  /-- R260. A stalled send writes its slot once P - C < S. -/
  | sendSlotWrite (g : Nat)
  /-- R261. A stalled recv takes a slot once data is present or the channel closes. -/
  | recvDelivery (g : Nat)
  /-- R267. A barrier phase completes and parked groups are released with a status. -/
  | barWaitRelease (g : Nat)
  /-- R268. The target barrier unit applies a remote arrival and acknowledges it. -/
  | barArvxAcknowledge (g : Nat)
  /-- R308. When all listed members arrive, the latch compares them and raises GANGMIS on a mismatch. -/
  | rendezvous (quad : Nat) (k : Nat)
  /-- R308. 2^20 clocks after the first arrival, arrived members raise GANGMIS with TVAL 2. -/
  | latchTimeout (quad : Nat) (k : Nat)
  /-- R309. A member's part takes its range locks and its mma is accepted. -/
  | mmaAccept (op : Nat)
  /-- R311. A matrix part writes its tile, computes checksum contributions and releases its lock. -/
  | mmaPartComplete (op : Nat)
  /-- R314. Outstanding matrix operations fall to the limit; covered checksum contributions are added. -/
  | mwaitComplete (g : Nat)
  /-- R327. A copy accepted after waiting for a token and locks takes them and starts. -/
  | copyStart (op : Nat)
  /-- R334. A copy completes or faults, releasing its lock and completing its token. -/
  | copyDone (op : Nat)
  /-- R338. The masked tokens complete and the parked cpyw writes its result or raises a recorded fault. -/
  | cpywComplete (g : Nat)
  /-- R339. The masked tokens complete and the group resumes at the continuation. -/
  | yieldcContinuation (g : Nat)
  /-- R342. All members have issued and the collective folds its result into every DST. -/
  | collectiveComplete (op : Nat)
  /-- R342. 2^24 clocks after the first member, the collective fails with GANGMIS. -/
  | collectiveTimeout (op : Nat)
  /-- R170. The distributor places the next team of the first grid some core admits. -/
  | teamPlacement (core : Nat)
  /-- R170. A grid's wait clock passes 1 ms and placement is restricted to it and higher classes. -/
  | waitClockExpiry (grid : Nat)
  /-- R163. A grid's groups, engines, stores, Plumb writes and returns have all finished. -/
  | gridComplete (grid : Nat)
  /-- R163. The awaited grid completes and the parked gwait writes its status. -/
  | gwaitComplete (g : Nat)
  /-- R422. A weight return is applied at its tensor entry. -/
  | thReturnApply (k : Nat)
  /-- R420. The tensor unit answers a waiting thnew, thcopy, thbind, tver or thinfo. -/
  | tensorUnitAnswer (g : Nat)
  /-- R398. The trigger unit answers a tarm with a status and arm stamp. -/
  | tarmAnswer (g : Nat)
  /-- R406. Each tick one Plumb slot is sent and applied at every awake replica of its world. -/
  | plumbSlot (stack : Nat)
  /-- R410. The group's earlier Plumb writes are applied everywhere and plwait resumes. -/
  | plwaitComplete (g : Nat)
  /-- R411. The replica is current and plsync writes its sequence number. -/
  | plsyncComplete (g : Nat)
  /-- R403. At a frame boundary, written slot-allocation and page-grant entries take effect and granted pages are zeroed. -/
  | frameBoundary (stack : Nat)
  /-- R413. A received snapshot is installed and buffered slots applied. -/
  | snapshotInstall (die : Nat)
  /-- R365. A context's time slice expires on a core and eviction for the waiting team begins. -/
  | sliceExpiry (core : Nat) (ctx : Nat)
  /-- R369. An evicted group is restored to its core and slot once they are free. -/
  | groupRestore (g : Nat)
  /-- R374. A home or bank finds an uncorrectable error and poisons the sector. -/
  | uncorrectableError (site : ErrorSite)
  /-- R375. The grazer reads a sector and writes back a correction or poisons it. -/
  | grazerVisit (site : ErrorSite)
  /-- R375. 4,096 clocks after a lost race the grazer retries a sector. -/
  | grazerRetry (sector : Nat)
  /-- R363. A store fault reported after the store left is raised as DEFER or logged. -/
  | deferredFaultReport (k : Nat)
  /-- R361. GCTL operation resuming a halted or stopped group. -/
  | resume (die : Nat) (value : Word)
  /-- R361. GCTL operation removing a group, counted as killed. -/
  | discard (die : Nat) (value : Word)
  /-- R361. GCTL operation declaring a halted group's fault fatal, halting its team. -/
  | fatal (die : Nat) (value : Word)
  /-- R361. GCTL operation stopping a group and writing its stop record. -/
  | stop (die : Nat) (value : Word)
  /-- R361. GCTL operation partially evicting one preemptible group. -/
  | evict (die : Nat) (value : Word)
  /-- R372. A CTXEND write with GO ends a context in its six steps. -/
  | ctxend (value : Word)
  /-- R454. A write of a core's budget, clamped and rounded, effective at the next scan. -/
  | cbudWrite (die : Nat) (core : Nat) (value : Word)
  /-- R238. Add a zeroed 8 KiB frame to the first-touch small pool. -/
  | ftfill8k (die : Nat) (value : Word)
  /-- R238. Add a zeroed 8 MiB frame to the first-touch large pool. -/
  | ftfill8m (die : Nat) (value : Word)
  /-- R262. Add a zeroed 8 KiB frame to the reserve pool. -/
  | ftrsvfill (die : Nat) (value : Word)
  /-- R238. Write-one-to-clear of first-touch status bits. -/
  | ftstatClear (die : Nat) (value : Word)
  /-- R396. Write-one-to-clear of trigger unit status bits. -/
  | tustatClear (unit : Nat) (value : Word)
  /-- R403. Write a Plumb slot-allocation entry, taking effect at the next frame boundary. -/
  | plsatWrite (stack : Nat) (entry : Nat) (value : Word)
  /-- R405. Write a Plumb window page-grant entry, zeroing the page on grant. -/
  | plpgWrite (stack : Nat) (entry : Nat) (value : Word)
  /-- R234. Write to a register with no behaviour of its own, or to an unassigned offset, which is ignored. -/
  | registerWrite (offset : Nat) (value : Word)
  /-- R167. The host's write-once START launches the conductor grid. -/
  | start (ctx : Nat) (value : Word)
  /-- R435. An inbound posted host write is split into line requests and applied in order. -/
  | hostPostedWrite (pasid : (Option Nat)) (addr : Nat) (data : (List Byte))
  /-- R435. An inbound host read of device memory completes after earlier posted writes. -/
  | hostRead (pasid : (Option Nat)) (addr : Nat) (len : Nat)
  /-- R440. A fabric request is checked against its grant token and table and admitted or refused. -/
  | fabricIngress (r : FabricRequest)
  /-- R441. Every 1 ms the link keys rotate to a new generation. -/
  | linkKeyRotation
  /-- R441. An abandoned replay is resent under the current key with the same sequence number. -/
  | endToEndRetry (k : Nat)
  /-- R442. In compatibility mode the source fetches a peer page's translation on first access. -/
  | translationFetch (k : Nat)
  /-- R442. A target's invalidation makes the source drain and acknowledge before page reuse. -/
  | invalidation (ctx : Nat) (page : Nat)
  /-- R442. A source that does not acknowledge in 2^24 ticks is fenced. -/
  | invalidationTimeout (source : Nat)
  /-- R448. Tramir evicts a protected context and sends its state and keys to the destination. -/
  | migration (ctx : Nat) (dest : Nat)
  /-- R448. The destination's confirmation makes the source erase its copy and the destination start. -/
  | migrationConfirmation (ctx : Nat)
  /-- R449. All queued ranges are hashed; the signed record is written and the status returned. -/
  | scloseComplete (g : Nat)
  /-- R391. A trigger unit steps an ordered event through its automata. -/
  | eventStep (unit : Nat)
  /-- R392. An automaton timer expires, producing a TIMER event. -/
  | timer (unit : Nat) (a : Nat) (j : Nat)
  /-- R383. A source sends a watermark to a trigger unit. -/
  | watermark (unit : Nat) (source : Nat)
  /-- R387. A source that dropped events emits one OVERFLOW event once it has room. -/
  | overflow (unit : Nat) (source : Nat)
  /-- R377. A die's Meridian counter is held or advanced to follow the reference. -/
  | counterCorrection (die : Nat) (ahead : Bool)
  /-- R455. The power manager puts an idle compute die to sleep. -/
  | dieSleep (die : Nat)
  /-- R455. A request or placement wakes a sleeping die. -/
  | dieWake (die : Nat)
  /-- R456. Loss of the module reference puts every PLL into holdover. -/
  | referenceLoss
  /-- R456. The reference returns and counters are disciplined back. -/
  | referenceReturn
  /-- R456. Holdover exceeds 100 ms and becomes a fatal module error. -/
  | holdoverExpiry
  /-- R376. Tramir fences every die and writes the signed state dump. -/
  | fatalModuleError (cause : Nat)
  /-- R457. Module reset starts bring-up at phase 0. -/
  | moduleReset
  /-- R457. Bring-up advances to its next phase. -/
  | phaseChange
  /-- R459. At one clock boundary every die leaves reduced service. -/
  | fullService
  /-- R414. Tramir latches a new world on an empty die after clearing its state. -/
  | worldAssignment (die : Nat) (world : (BitVec 4))
  /-- R460. Tramir answers an SPDM or sideband management request. -/
  | spdmRequest (r : ManagementRequest)
  /-- R460. The fatal-state dump is returned in signed 64 KiB pieces. -/
  | dumpRead (piece : Nat)
  /-- R434. The device supervisor creates a context, setting its root table pointer, stop area, time slice, token and grant bases and the read-only fields of its control page, with CSTAT reading NONE. -/
  | contextCreation (c : ContextSpec)
  /-- R295. A fabric link dies while stores, atomics or reductions on it await acknowledgement, leaving their fate unknown until a fence of the sequence number is acknowledged or the target is declared failed. -/
  | linkDeath (peer : Nat)
  /-- R275. The host or a fabric peer acknowledges an outbound host-tier or peer-tier write, which then counts as performed at sys. -/
  | outboundAcknowledgement (k : Nat)
  deriving DecidableEq, Repr

end Sys2Proof
end

