-- ==== Sys2Proof/Machine/State.lean ====
section
/-! DEFINITION. The state of the module as plain data: every piece of state that spec/01 to spec/22 give the machine,
grouped by the unit that holds it, with the reasons a step can stop and the state right after module reset.

Objects that software names by a number (a die, a stack, a quad, an automaton) are held by that number; objects that
come and go (groups, teams, grids, requests, operations) are held in lists and carry a key of the model, a natural
number that no rule of the spec names. -/

namespace Sys2Proof.Machine

open Sys2Proof

-- Translation (R229 to R233).

/-- The leaf PTE fields that an access is checked against, with the page's virtual base, size and physical base. -/
structure Leaf where
  vbase : Nat
  size  : Nat
  pbase : Nat
  r     : Bool
  w     : Bool
  x     : Bool
  a     : Bool
  sc    : Bool
  tier  : BitVec 2
  world : BitVec 4
  deriving DecidableEq, Repr

/-- A TLB entry: a translation tagged with its context (R233). -/
structure TlbEntry where
  ctx  : Nat
  leaf : Leaf
  deriving DecidableEq, Repr

/-- How a page walk ends (R231): with a leaf, or with no translation. `untouched` marks an anon-untouched page that
the first-touch unit did not serve (R239). -/
inductive WalkEnd where
  | leaf (l : Leaf)
  | fault (untouched : Bool)
  deriving DecidableEq, Repr

/-- What a stalled walk waits for: its own reads of the tables, a held PTE or a leaf that reduced service keeps back
(R246, R458), or the first-touch unit (R236). -/
inductive WalkStage where
  | walking
  | held (since lastRead : Nat)
  | touching (pte entry : Nat) (large : Bool)
  deriving DecidableEq, Repr

/-- A walk that an access waits for. `stale` is set when a `dtlbi` reaches the unit while the walk is in flight: its result
would enter no TLB and no datum register (R244), and the walk is made again (log entry 11). -/
structure Walk where
  va     : Word
  stage  : WalkStage
  stale  : Bool
  deriving DecidableEq, Repr

/-- A datum register (R99). -/
structure Datum where
  base  : Word
  frame : Nat
  limit : Nat
  r     : Bool
  w     : Bool
  x     : Bool
  a     : Bool
  sc    : Bool
  tier  : BitVec 2
  world : BitVec 4
  v     : Bool
  deriving DecidableEq, Repr

/-- A datum register at placement (R99). -/
def Datum.clear : Datum := ⟨0, 0, 0, false, false, false, false, false, 0, 0, false⟩

-- Requests to memory (R89, R222, R271, R278).

/-- Who issued a request or an operation, as it must be known after the group has gone: the group's key, its context,
grid, team, core, slot and world, what a log entry names it by (R364), and the address or LPC of the instruction. -/
structure Origin where
  g     : Nat
  ctx   : Nat
  grid  : Nat
  team  : Nat
  core  : Nat
  slot  : Nat
  world : BitVec 4
  gser  : BitVec 32
  tidx  : Word
  gid   : Word
  lane  : Bool
  pc    : Word
  deriving DecidableEq, Repr

/-- What becomes of a value that memory returns: extended to the register, or combined with the operands of the lanes
before it in its class (R256, R257). -/
inductive Post where
  | ext (bytes : Nat) (signed : Bool)
  | comb (op : Nat) (bytes : Nat) (q : Option Nat)
  | cas (bytes : Nat) (pairs : List (Nat × Nat))
  deriving DecidableEq, Repr

/-- What a request does at its home or in the scratchpad. `marker` is no access: it stands for a release at a scope,
and goes when every write that the release covers is performed at the scope (R275, R286); `fence` marks the release of
a fence, which the group's later writes wait for (R97). -/
inductive MemOp where
  | load (bytes : Nat) (acquire : Bool) (scope : Nat)
  | store (data : List Byte)
  | rmw (op : Nat) (bytes : Nat) (x : Nat)
  | cas (bytes : Nat) (pairs : List (Nat × Nat))
  | marker (scope : Nat) (fence : Bool)
  deriving DecidableEq, Repr

/-- A request of a group, in its store queue or in its core's order. `seq` is its place in the group's issue order;
`after` is the place before which the other stream's accesses precede it in program order (R98); `word` is the place of
the first request of its word (R438); `slots` is how many store-queue entries it takes (R89); `rel` is the scope of a
releasing store; `cso` is its place in the core store order, once it has entered it (R278). -/
structure MemReq where
  id      : Nat
  who     : Origin
  seq     : Nat
  after   : Nat
  word    : Nat
  slots   : Nat
  scratch : Bool
  addr    : Nat
  va      : Word
  sc      : Bool
  rel     : Option Nat
  cso     : Nat
  op      : MemOp
  deriving DecidableEq, Repr

/-- Where data that cannot be corrected was read (R374): a physical address, or a word of the core's scratchpad, and the
address or offset of the access. -/
structure BadData where
  scratch : Bool
  place   : Nat
  va      : Word
  deriving DecidableEq, Repr

/-- An outstanding scalar result (R17 to R19): the register it is for (0 to 63 for s, 64 to 71 for c), the request it
waits for, and its value once it has returned. `poison` says where the value
met an uncorrectable error (R374), and `integ` is the line address of a tag mismatch (R349). -/
structure ScalarResult where
  reg    : Nat
  src    : Nat
  post   : Post
  pc     : Word
  value  : Option Word
  poison : Option BadData
  integ  : Option Word
  deriving DecidableEq, Repr

/-- The part of an outstanding lane result that one request returns to one lane; `shift` places the second granule of
a quad. -/
structure LanePiece where
  lane   : Nat
  src    : Nat
  shift  : Nat
  post   : Post
  value  : Option (BitVec 128)
  poison : Option BadData
  integ  : Option Word
  deriving DecidableEq, Repr

/-- An outstanding lane result (R174 to R176): the first register it writes and how many, whether specifiers 0 to 7
name handler registers (R355), the word's LPC, and its pieces. -/
structure LaneResult where
  reg     : Nat
  count   : Nat
  handler : Bool
  lpc     : BitVec 32
  pieces  : List LanePiece
  deriving DecidableEq, Repr

-- The ordering model (R271 to R296).

/-- An agent (R273): a group or an engine operation, with its grid and its core, the control cores with the units of the module
that act for no group, the host or a fabric peer. -/
inductive Agent where
  | group (uid grid core : Nat)
  | engine (op grid core : Nat)
  | control
  | host
  | peer
  deriving DecidableEq, Repr

/-- What an agent must see: for granules of 8 bytes the stamp of a write, which no read of the granule may fall behind. -/
abbrev View := List (Nat × Nat)

/-- A release (R283): who makes it, its scope, and the writes that happen before it (R285). -/
structure Release where
  who   : Agent
  scope : Nat
  view  : View
  deriving DecidableEq, Repr

/-- A write as history keeps it, or a wall behind which no read looks: its stamp, its `len` bytes from location `loc` on, the bytes
that it replaced, its agent, its place in its core's store order if it has one (R278), and the releases that it carries (R283). A
location is a physical address, a place of a scratchpad (`scratchLoc`) or of a stack's Plumb window (`plumbLoc`). -/
structure PastWrite where
  stamp : Nat
  loc   : Nat
  len   : Nat
  old   : List Byte
  who   : Agent
  cso   : Option Nat
  tells  : List Release
  wall  : Bool
  deriving DecidableEq, Repr

/-- What a group has learned at a place of its program order: `time` is the number of writes stamped by then, `view` what it must
see from there on, `heard` the releases that it read from (R284), `rel` the release of a fence, which its later writes carry (R283).
`slot` marks a receive that orders nothing (R293). -/
structure Learned where
  g     : Nat
  lane  : Bool
  place : Nat
  time  : Nat
  slot  : Bool
  view  : View
  heard : List Release
  rel   : Option Release
  deriving DecidableEq, Repr

/-- What carries releases beside the writes of memory (R283, R291): the marker of a release, an engine operation, a token of a group,
an arrival at a barrier word of a team in a phase, the groups of a grid, the returns to a tensor. -/
inductive Mark where
  | marker (id : Nat)
  | op (uid : Nat)
  | token (g t : Nat)
  | bar (team off phase : Nat)
  | grid (uid : Nat)
  | tensor (id : Nat)
  deriving DecidableEq, Repr

/-- The order of the writes (R271 to R294): how many have been stamped and how many have entered a core's store order, the history,
newest first; what the groups have learned, newest first; what the marks carry; the `fence.sc` in their order (R287); and for each
grid the stamps given when its launch was accepted (R15). -/
structure Order where
  count    : Nat
  drains   : Nat
  past     : List PastWrite
  known    : List Learned
  notes    : List (Mark × List Release)
  fences   : List Release
  launched : List (Nat × Nat)
  deriving DecidableEq, Repr

-- Traps (R26, R351).

/-- A cause with the values that trap entry gives it: one that is being entered, or an async cause that waits (R350). TPC
is SPC as it stands when the entry completes, since a word that has not completed leaves SPC at itself (R111). `told` is set
once the cause has emitted its FAULT event (R380). -/
structure TrapRecord where
  cause : BitVec 8
  lane  : Bool
  tval  : Word
  tmask : BitVec 32
  tlpc  : BitVec 32
  told  : Bool
  deriving DecidableEq, Repr

/-- A trap that was entered and whose vector's first word has not issued (R358): whether its FAULT event was emitted, and
whether its TRAP event is still to be, because the vector's fetch was open at the entry (R380). -/
structure Entered where
  told : Bool
  due  : Bool
  deriving DecidableEq, Repr

-- The scalar stream (R7).

/-- Why a stream that is not parked cannot issue its next word, which it will issue again (R89, R105, R160 and the
waits of the engines). -/
inductive Stall where
  | storeQueue
  | gridTable
  | order
  deriving DecidableEq, Repr

/-- A wait of `lget`, `lset` or `lmask` for the lane unit (R112, R113). -/
inductive LaneStateOp where
  | get (d : Nat) (v lane : Nat)
  | set (v lane : Nat) (x : W32)
  | readMask (d : Nat) (m : Nat)
  | writeMask (m : Nat) (x : W32)
  deriving DecidableEq, Repr

/-- A word that waits for its tensor unit's answer (R420): `thnew` with its record, `thcopy` at E = 0, `thbind`, `tver` with
the release it sends its request after, and `thinfo`. -/
inductive TensorOp where
  | create (d e : Nat) (shapep data bytes tagp : Word) (enc : Nat)
  | split (d a : Nat) (h : Word)
  | bind (h fin : Word)
  | version (d : Nat) (h : Word) (marker : Nat)
  | info (d : Nat) (h : Word) (sel : Nat)
  deriving DecidableEq, Repr

/-- What the scalar stream is parked or stalled in. -/
inductive ScalarWait where
  | ready
  | hold
  | stall (why : Stall)
  | walk (w : Walk)
  | lrun (lpc : BitVec 32)
  | lwait (limit : Nat)
  | laneState (op : LaneStateOp)
  | exit
  | sleep (since : Nat)
  | fence (acquire : Bool) (scope : Nat) (marker : Option Nat)
  | idemb
  | ideme
  | halt
  | rolesw (role : Nat)
  | scAccess (req : Nat)
  | gwait (d : Nat) (grid : Nat)
  | mwait (limit : Nat)
  | latch
  | accept (op : Nat)
  | cpyw (d : Nat) (mask : Word)
  | yieldc (mask : Word) (target : Word)
  | copyToken (op : Nat)
  | barWait (d : Nat) (offset : Nat) (phase : Nat) (arw : Bool)
  | barDone (d : Nat) (result : Word) (scope : Nat) (arw : Bool)
  | barArvx
  | plwait
  | plsync (d : Nat)
  | tensor (op : TensorOp)
  | tarm (d : Nat) (unit auto : Nat) (table : List Byte)
  | sclose (d : Nat) (n : Nat) (seq : Nat)
  deriving DecidableEq, Repr

/-- The scalar stream of a group (R7). `pend` numbers s0 to s63 and then c0 to c7, as TVAL does (R20); `hold` is the hold
bit of a word that is parked in a wait of its own; `entry` is the trap being entered (R26, R351); `walked` the walks that
ended for the word that waits (R244); `last` the clock of the last issue (R159); `vector` stands before the first word
after a trap entry (R358); `laneSeq` is the place before which an `lwait` has put the lane stream's accesses before the scalar
stream's (R98). -/
structure Scalar where
  spc    : Word
  s      : Vector Word 64
  c      : BitVec 8
  pend   : BitVec 72
  sup    : Bool
  outst  : List ScalarResult
  wait   : ScalarWait
  hold   : Bool
  entry  : Option TrapRecord
  walked : List (Nat × WalkEnd)
  last   : Option Nat
  async  : List TrapRecord
  vector : Option Entered
  laneSeq : Nat
  deriving DecidableEq, Repr

-- The lane unit (R143 to R152).

/-- What a fragment is doing: ready, or parked at a `regang` or a `regang.u` (R152, R203). -/
inductive FragState where
  | ready
  | regang (u : Bool)
  deriving DecidableEq, Repr

/-- What a lane access fault left for the handler: the cause, address and faulting word of one lane (R264, R355). -/
structure LaneFault where
  lane  : Nat
  cause : BitVec 8
  va    : Word
  lpc   : BitVec 32
  deriving DecidableEq, Repr

/-- A fragment: lanes of one slice, with their LPC and mode (R148, R354). `faults` holds what the entry of a fragment in
the handler recorded (R264, R357). `waited` counts lane-issue
opportunities (R150); `prior` is what that count is if the word now issuing has to wait. -/
structure Frag where
  slice  : Nat
  lanes  : BitVec 32
  lpc    : BitVec 32
  sup    : Bool
  st     : FragState
  waited : Nat
  prior  : Nat
  faults : List LaneFault
  deriving DecidableEq, Repr

/-- A lane block: start LPC, uniform frame and datum copies (R108). `seq` is the place of its `lrun` in the group's
issue order (R98). -/
structure Block where
  lpc   : BitVec 32
  frame : Vector Word 64
  datum : List Datum
  seq   : Nat
  deriving DecidableEq, Repr

/-- The word being executed: the group it belongs to, its hold bit and, for a lane word, the issuing gang's lanes, LPC
and mode (R150). -/
structure Cur where
  g     : Nat
  hold  : Bool
  lanes : BitVec 32
  lpc   : BitVec 32
  sup   : Bool
  deriving DecidableEq, Repr

/-- What the lane unit's issue waits for (R176, R253, R258, R260, R261). -/
inductive LaneWait where
  | ready
  | hold
  | stall (why : Stall)
  | walk (w : Walk)
  | fence (c : Cur) (acquire : Bool) (scope : Nat) (marker : Option Nat)
  | scAccess (reqs : List Nat)
  | send (c : Cur) (w : LaneW)
  | recv (c : Cur) (w : LaneW)
  deriving DecidableEq, Repr

/-- The lane unit of a group (R143, R146, R175, R355). `pend` numbers v0 to v255 and then the handler registers.
`bad` lists the registers of lanes that hold an uncorrectable error (R374), numbered as pending bits are; `badOne` those of
which one of two mirrored copies does (R373). `runFl` and `runK` are the flags and `ckacc` sums of the running block, `endFl` and `endK` those of ended blocks that no
`lwait` has covered (R39, R206); `endSeq` is the place in the group's issue order at the end of the last block. -/
structure Lanes where
  v      : LaneFile
  hv     : LaneFile
  bad    : List Nat
  badOne : List Nat
  m      : Vector W32 8
  runFl  : BitVec 5
  endFl  : BitVec 5
  runK   : Vector Word 4
  endK   : Vector Word 4
  pend   : BitVec 264
  frags  : List Frag
  cur    : Option Block
  queue  : List Block
  frozen : Bool
  outst  : List LaneResult
  wait   : LaneWait
  hold   : Bool
  regangOk : Bool
  walked : List (Nat × WalkEnd)
  last   : Option Nat
  endSeq : Nat
  deriving DecidableEq, Repr

-- The group (R105).

/-- The read-only special registers of a group that placement fixes (R105). -/
structure Place where
  ctx     : Nat
  grid    : Nat
  team    : Nat
  core    : Nat
  slot    : Nat
  gid     : Word
  tidx    : Word
  gser    : BitVec 32
  ngrp    : Word
  lcb     : Word
  args    : Word
  sxbase  : Word
  sxsize  : Word
  accbase : Word
  accsize : Word
  eclass  : Word
  deriving DecidableEq, Repr

/-- The role of a group and what its role word gives it (R153). -/
structure RoleState where
  role  : Nat
  vregs : Nat
  prio  : Nat
  deriving DecidableEq, Repr

/-- The trap registers and the other registers a handler uses (R9 to R11, R105). -/
structure TrapRegs where
  tvb    : Word
  lsv    : Word
  tpc    : Word
  tcause : Word
  tval   : Word
  tmask  : Word
  tlpc   : Word
  tsave  : Vector Word 4
  deriving DecidableEq, Repr

/-- The counters of a group (R105). -/
structure Counters where
  scnt   : Word
  lcnt   : Word
  parkc  : Word
  stallc : Word
  deriving DecidableEq, Repr

/-- The snapshot of an idempotent region (R118), with the mode that its `idemb` was executed in. -/
structure Snapshot where
  s       : Vector Word 64
  c       : BitVec 8
  dm      : List Datum
  k       : Vector Word 4
  restart : Word
  sup     : Bool
  deriving DecidableEq, Repr

/-- Where a group stands in its life (R120, R359, R361, R367, R371). `halted` is a group that executed `halt`;
`teamHalted` one whose team halted; `restart` one that was discarded at eviction and starts again. -/
inductive Life where
  | resident
  | halted
  | stopped
  | teamHalted
  | evicted
  | restart
  deriving DecidableEq, Repr

/-- The fault record of a token (R323). -/
structure TokenFault where
  cause : BitVec 8
  value : Word
  pc    : Word
  deriving DecidableEq, Repr

/-- A token of a group (R322, R323): the operation it stands for while it is outstanding, or its fault record; and
the lines of memory that the operation wrote (R219). -/
structure Token where
  op    : Option Nat
  wrote : List Nat
  fault : Option TokenFault
  deriving DecidableEq, Repr

/-- Checksum contributions of a completed part that no `mwait` has covered (R318): the terms of k2 and of k3. -/
structure KContrib where
  int : Bool
  t2  : List Word
  t3  : List Word
  deriving DecidableEq, Repr

/-- What the skids of a stop count from: the stamp of an automaton's accept (R394), or the clock in which the stop started (R360). -/
inductive SkidFrom where
  | stamp (n : Nat)
  | clock (n : Nat)
  deriving DecidableEq, Repr

/-- A stop: whether the team halts, what its skids count from (R360, R394), and the LOSTORD state of the automaton whose STOP it is
(R387). -/
structure StopWait where
  halted  : Bool
  since   : SkidFrom
  lostord : Bool
  deriving DecidableEq, Repr

/-- A stop that has not reached its group yet, which issues on: it does so no later than `within` clocks after its start, or ticks after
the accepting stamp (R359, R361, R394). -/
structure ComingStop where
  wait   : StopWait
  within : Nat
  deriving DecidableEq, Repr

/-- A group (R143). `used` records whether it issued an instruction of R119's list (R371); `entered` is the clock in which its
last trap entry completed (R362), and `trail` the words and gang issues of its last 256 ticks, newest first: whether of the lanes, their
stamps and their clocks (R360, R394); `coming` is a stop that has not reached the group (R359), and `stop` one that has, and waits for a
trap entry or for the operation that binds the group (R362, R313); `evict` the order number of its eviction;
`evicting` marks an eviction under way, false once issue has stopped, true while it waits for one more scalar word (R362,
R367); `latchAway` a GANGMIS that waits for its restore (R313); `plFence` the release that the next Plumb write waits for (R409). -/
structure Group where
  uid    : Nat
  life   : Life
  place  : Place
  role   : RoleState
  sr     : TrapRegs
  fflags : BitVec 5
  cnt    : Counters
  sc     : Scalar
  ln     : Lanes
  dm     : List Datum
  k      : Vector Word 4
  gang   : Word
  idem   : Bool
  snap   : Option Snapshot
  used   : Bool
  sq     : List MemReq
  seq    : Nat
  tokens : List Token
  lastTok : Nat
  kacc   : List KContrib
  plFence : Option Nat
  entered : Option Nat
  trail  : List (Bool × Nat × Nat)
  coming : Option ComingStop
  stop   : Option StopWait
  evict  : Option Nat
  evicting : Option Bool
  latchAway : Option Word
  deriving DecidableEq, Repr

-- The team (R143, R226, R267).

/-- A channel of a team (R226, R228): its declaration, its counts and whether it is closed at its producer and gone at
its consumer; and of the slots that are not taken the data and the releases of their sends, oldest first (R293). -/
structure Channel where
  prodRole : Nat
  prodGrp  : Nat
  consRole : Nat
  consGrp  : Nat
  slots    : Nat
  wide     : Bool
  buffer   : Nat
  p        : Nat
  c        : Nat
  closed   : Bool
  deaf     : Bool
  data     : List (List Byte × List Release)
  deriving DecidableEq, Repr

/-- A remote arrival under way (R268): who sent it, the team and the word of the target core, the scope of its release and the
release it waits for. -/
structure Arrival where
  who    : Origin
  team   : Nat
  core   : Nat
  offset : Nat
  scope  : Nat
  marker : Option Nat
  deriving DecidableEq, Repr

/-- A team on a core (R143, R169). `members` are keys of its groups in group-index order; `remote`
holds, for a barrier word and a phase, the widest scope of a remote arrival counted in it (R269); `born` orders teams by
placement (R366); `halted` is the cause of its team halt (R359); `saved` holds the windows of a fully evicted team (R368). -/
structure Team where
  uid     : Nat
  grid    : Nat
  core    : Nat
  index   : Nat
  members : List Nat
  sxbase  : Nat
  sxsize  : Nat
  accbase : Nat
  accsize : Nat
  killed  : Nat
  halted  : Option (BitVec 8)
  channels : List Channel
  remote  : List (Nat × Nat × Nat)
  born    : Nat
  saved   : Option (List Byte × List Byte)
  mirror  : Bool
  deriving DecidableEq, Repr

-- The core (R208, R218, R233, R335).

/-- A range-lock entry (R335): a range of the scratchpad, of the accumulator or of global memory, held for an operation
under a read or a write lock. Spaces: 0 scratch, 1 accumulator, 2 global virtual addresses of context `ctx`. -/
structure RangeLock where
  op    : Nat
  ctx   : Nat
  space : Nat
  lo    : Nat
  hi    : Nat
  write : Bool
  deriving DecidableEq, Repr

/-- A watch comparator of a core (R382), with the unit and automaton it belongs to. `ctx` none is ALLCTX. -/
structure Watch where
  slot    : Nat
  unit    : Nat
  auto    : Nat
  ctx     : Option Nat
  scratch : Bool
  base    : Nat
  len     : Nat
  reads   : Bool
  writes  : Bool
  deriving DecidableEq, Repr

/-- A core. Its number is global: 128 × die + core. `reserved` names the grid for whose next team a time slice made room
(R365); a line of the near cache has the number of writes stamped when it was filled, and its bytes. -/
structure Core where
  reserved : Option Nat
  scratch : Mem
  acc     : Mem
  poisonS : List Nat
  poisonA : List Nat
  part    : BitVec 8
  budget  : Nat
  newBudget : Option Nat
  near    : List (Nat × Nat × List Byte)
  tlb     : List TlbEntry
  locks   : List RangeLock
  reqs    : List MemReq
  watches : List Watch
  issued  : List (Nat × Nat)
  slices  : List (Nat × Nat)
  deriving DecidableEq, Repr

/-- A core after module reset: a budget of 64 (R168), everything else empty. -/
def Core.empty : Core := ⟨none, [], [], [], [], 0, 64, none, [], [], [], [], [], [], []⟩


-- The quad crossbar and the matrix arrays (R299 to R319).

/-- A member that has arrived at a latch (R308): the group, its place as an entry of a gang register names it (R299), its
grid and its words. -/
structure Arrived where
  g    : Nat
  me   : Nat
  grid : Nat
  gang : Word
  fb   : Word
  shape : Word
  ow   : Word
  deriving DecidableEq, Repr

/-- A latch entry of a quad crossbar (R308): the gang word of the first of its members, and the clock at which it opened. -/
structure Latch where
  gang    : Word
  first   : Nat
  members : List Arrived
  deriving DecidableEq, Repr

/-- What a matrix operation does (R310, R315, R316). A part of an `mma` carries the B bytes and B scale bytes of every
share, as captured (R309); `badReg` and `badWord` are a register and a pool word of the member's own share that hold an
error which cannot be corrected (R374). -/
inductive MatKind where
  | part (member count : Nat) (fb shape ow : Word) (b bscl : List (List Byte)) (badReg badWord : Option Nat)
  | zero (lo len : Nat)
  | conv (region dest how : Word)
  deriving DecidableEq, Repr

/-- A matrix operation of a group (R311): its place in the group's issue order and its team's windows; `since` is the clock since
which a waiting one's condition for acceptance has held (R336); `early` holds what a part
has read of A and its scales before it completes, with a pool word of them that holds an error. -/
structure MatOp where
  uid      : Nat
  who      : Origin
  seq      : Nat
  team     : Nat
  sxbase   : Nat
  accbase  : Nat
  accepted : Bool
  since    : Option Nat
  early    : Option (List Byte × List Byte × Option Nat)
  kind     : MatKind
  deriving DecidableEq, Repr

-- The copy engine (R322 to R344).

/-- A copy record (R324). -/
structure CopyRec where
  shapep  : Word
  xaddr   : Word
  xstride : Nat
  nidx    : Nat
  idxp    : Word
  deriving DecidableEq, Repr

/-- A shape record (R324). -/
structure ShapeRec where
  base   : Word
  handle : Word
  rank   : Nat
  efmt   : Nat
  dims   : List Nat
  strides : List Word
  metaPtr : Word
  fill   : Word
  deriving DecidableEq, Repr

/-- A collective record (R340). -/
structure CollRec where
  src   : Word
  dst   : Word
  count : Nat
  nmem  : Nat
  rank  : Nat
  cid   : Word
  root  : Nat
  deriving DecidableEq, Repr

/-- What an engine operation does. -/
inductive EngKind where
  | copy (kind : Nat) (x24 hdl lk : Bool) (rec : CopyRec) (shape : ShapeRec)
  | coll (op scope : Nat) (f32 : Bool) (rec : CollRec)
  deriving DecidableEq, Repr

/-- A held PTE that an engine operation waits on (R246): the address, the clocks since which it waits and of the last read,
and whether the next read is still to come. -/
structure EngHold where
  va     : Word
  since  : Nat
  last   : Nat
  asleep : Bool
  deriving DecidableEq, Repr

/-- An engine operation: a copy or one member's part of a collective (R327, R342). `base` is the resolved address of the
view; `started` is the clock of its acceptance, none while it waits for a token and locks; `acks` names, once its data has
moved, the outbound writes that are not acknowledged; `fault` and `wrote` become its token's. `after` is the place before which the
lane stream's accesses precede it (R98); `since` is the clock since which a waiting one's condition for acceptance has held (R336);
`moved` lists the words that it has moved early, by row, location and length, and `sent` the outbound writes of these (R271, R292). -/
structure EngOp where
  uid     : Nat
  who     : Origin
  seq     : Nat
  after   : Nat
  since   : Option Nat
  dest    : Nat
  token   : Nat
  sxbase  : Nat
  sxsize  : Nat
  base    : Word
  started : Option Nat
  held    : Option EngHold
  timedOut : Bool
  acks    : Option (List Nat)
  fault   : Option TokenFault
  wrote   : List Nat
  moved   : List (Nat × Nat × Nat)
  sent    : List Nat
  kind    : EngKind
  deriving DecidableEq, Repr

-- Plumb (R402 to R413).

/-- A request in a Plumb port's queue (R407, R408). `who` is none for a SIG 3 write of an automaton (R393); `seq` is its
place in its group's issue order and `after` that before which the lane stream's accesses precede it (R98); `marker` names the release
of a `plfence` it waits for (R409). -/
structure PlumbReq where
  who    : Option Origin
  id     : Nat
  seq    : Nat
  after  : Nat
  world  : BitVec 4
  offset : Nat
  fn     : Nat
  x      : Word
  e      : Word
  src    : BitVec 16
  marker : Option Nat
  deriving DecidableEq, Repr

/-- A resync under way (R413): the first slot heard, the writes buffered since, and the snapshot once it is taken. -/
structure Resync where
  first    : Nat
  buffer   : List (Nat × PlumbReq)
  count    : Nat
  deriving DecidableEq, Repr

/-- A stack's Plumb channel: the next sequence number, the slot-allocation and page-grant tables, and the writes that
wait for a frame boundary (R402, R403, R405). -/
structure Stack where
  slot   : Nat
  sat    : List Word
  satNew : List (Nat × Word)
  pg     : List Word
  pgNew  : List (Nat × Word)
  deriving DecidableEq, Repr

/-- A stack after reset (R403, R405). -/
def Stack.empty : Stack :=
  ⟨0, (List.range 64).map (fun n => if n < 32 then BitVec.ofNat 64 (0x8000 + n / 4) else 0), [],
    List.replicate 16 0, []⟩

-- The tensor unit (R416 to R424).

/-- A tensor entry that is not FREE (R416, R417). -/
structure Tensor where
  index    : Nat
  state    : Nat
  world    : BitVec 4
  enc      : Nat
  ctx      : Nat
  shapep   : Word
  data     : Word
  bytes    : Word
  version  : W32
  tagp     : Word
  returned : Word
  total    : Word
  finrec   : Word
  parent   : Word
  fingrid  : Word
  deriving DecidableEq, Repr

/-- A weight return on its way (R422). `marker` names the release it waits for; `posted` marks the return of an indirection,
which no group sent. -/
structure Return where
  handle : Word
  who    : Origin
  marker : Option Nat
  posted : Bool
  deriving DecidableEq, Repr

-- Trigger units (R377 to R399).

/-- Who emits an event: its source, and the key of the group that the source names and of its team (R379). -/
structure Sender where
  code  : BitVec 16
  group : Option (Nat × Nat)
  deriving DecidableEq, Repr

/-- An event (R379), with the group and the team of its source (R393) and the contexts whose accesses or operations caused it
(R381). -/
structure TEvent where
  cls     : BitVec 8
  src     : BitVec 16
  tag     : BitVec 16
  payload : BitVec 32
  stamp   : BitVec 32
  group   : Option (Nat × Nat)
  ctxs    : List Nat
  deriving DecidableEq, Repr

/-- A disarming under way (R399): the disarm stamp, and the group and its result that wait for it; none is the management
interface. -/
structure Ending where
  stamp : Nat
  waits : Option (Nat × Nat)
  deriving DecidableEq, Repr

/-- An armed automaton (R388, R392): its table, its registers and who armed it; `owner` none is ALLCTX. `stampAt` is the arm
stamp, and `tm` the stamps of the scheduled TIMER events. `ending` is a disarming
under way. -/
structure Automaton where
  table   : List Byte
  owner   : Option Nat
  stampAt : Nat
  state   : Nat
  cn      : List W32
  cap     : List Word
  tm      : List (Option Nat)
  nacc    : W32
  lostord : Bool
  ending  : Option Ending
  deriving DecidableEq, Repr

/-- A trigger unit: its four automata, the events it has not stepped in the order of their recording, the events each
source dropped (the first one, with the contexts of all, and how many), the watermarks by die (16 the floor die; no later event
of the die has a stamp below it), the status bits and the sample buffer, with the records read since WRAP was last cleared
(R383 to R396). -/
structure TrigUnit where
  autos   : List (Option Automaton)
  queue   : List TEvent
  lost    : List (TEvent × Nat)
  marks   : List (Nat × Nat)
  acc     : BitVec 4
  wrap    : Bool
  swidx   : Nat
  samples : List (Nat × List Byte)
  read    : List Nat
  deriving DecidableEq, Repr

/-- A trigger unit after reset. -/
def TrigUnit.empty : TrigUnit := ⟨[none, none, none, none], [], [], [], 0, false, 0, [], []⟩

-- The die (R235, R377, R406, R414).

/-- The first-touch unit of a die (R235, R238, R262): its pools, and the sticky status bits BADF, OVF, EMPTY, LOW8M and
LOW8K from bit 4 down. -/
structure FirstTouch where
  small   : List Nat
  large   : List Nat
  reserve : List Nat
  flags   : BitVec 5
  deriving DecidableEq, Repr

/-- A compute die. Its last-level TLB holds pages up to 8 MiB in `tlb` and 8 GiB pages in `tlbBig` (R233). Its Meridian counter is the module's tick count plus `offset`; `corr` is a correction to make at the
next tick, 1 to hold and 2 to advance (R377); `taken` is the sequence number of the last slot its replica has taken into
account (R411); `portWait` holds the writes that have not entered the queue of the port, for room or behind a `plfence`; `gens` lists the GEN of every index that is not 1 (R416). -/
structure Die where
  world    : BitVec 4
  awake    : Bool
  tlb      : List TlbEntry
  tlbBig   : List TlbEntry
  offset   : Word
  lastCorr : Nat
  corr     : Nat
  replica  : Mem
  stale    : Bool
  resync   : Option Resync
  taken    : Nat
  port     : List PlumbReq
  portWait : List PlumbReq
  granted  : List (Nat × Nat)
  ft       : FirstTouch
  tensors  : List Tensor
  gens     : List (Nat × BitVec 16)
  gctl     : Word
  busy     : Option Nat
  deriving DecidableEq, Repr

/-- A die after reset. Awake and world 0 are DESIGN CHOICE (log entry 6). -/
def Die.empty : Die := ⟨0, true, [], [], 0, 0, 0, [], false, none, 0, [], [], [], ⟨[], [], [], 0⟩, [], [], 0, none⟩

-- Contexts and grids (R157 to R170, R434).

/-- A role word (R158). -/
structure RoleRec where
  entryOff : Nat
  count    : Nat
  vregs    : Nat
  prio     : Nat
  right    : Bool
  deriving DecidableEq, Repr

/-- A launch record (R157). -/
structure LaunchRec where
  entry    : Word
  lcb      : Word
  gx       : Nat
  gy       : Nat
  gz       : Nat
  roles    : List RoleRec
  sxbytes  : Nat
  accbytes : Nat
  partw    : BitVec 8
  eclass   : Nat
  prio     : Nat
  flags    : BitVec 4
  plumb    : Nat
  ndep     : Nat
  argp     : Word
  deps     : List Word
  deriving DecidableEq, Repr

/-- A grid that its context has launched (R161 to R166). `release` names the launch's release, still to be performed;
`status` is the status word once the grid is complete; `since` is the tick at which its wait clock last started (R170).
`reading` is the address of a record that the device still reads for a START or a finaliser, the die it reads for and the
clock since which it waits on a held PTE (R167, R423). -/
structure Grid where
  uid       : Nat
  handle    : Word
  ctx       : Nat
  reading   : Option (Word × Nat × Option Nat)
  lrec      : LaunchRec
  chans     : List Channel
  conductor : Bool
  finaliser : Option Word
  release   : Option Nat
  placed    : Nat
  dropped   : Bool
  since     : Option Nat
  expired   : Bool
  fatal     : Option (BitVec 8)
  killed    : Bool
  deferred  : Bool
  nlog      : Nat
  status    : Option Word
  deriving DecidableEq, Repr

/-- A context (R434, R167, R105, R161). -/
structure Context where
  spec    : ContextSpec
  start   : Option Word
  cond    : Option Nat
  logw    : Word
  logr    : Word
  serial  : W32
  gser    : W32
  ending  : Bool
  deriving DecidableEq, Repr

-- The outside of the module (R432 to R443).

/-- What an outbound request does. -/
inductive OutKind where
  | load (bytes : Nat)
  | store (data : List Byte)
  | atomic (op : Nat) (bytes : Nat) (x : Nat)
  | compareSwap (bytes : Nat) (pairs : List (Nat × Nat))
  deriving DecidableEq, Repr

/-- An outbound access that the floor-die port has accepted and that awaits its
acknowledgement (R275, R436, R441); `who` is none for a log entry or a stop record. `id` is the request whose result it
returns, if it returns one, and `req` the request of a group that it is; `token` is its grant token (R439); `dead` marks a link
that died, whose fence has been sent; `gen` is the link-key generation of its last transmission. -/
structure Outbound where
  id     : Nat
  who    : Option Origin
  req    : Option MemReq
  va     : Word
  pa     : Nat
  seqno  : Nat
  token  : Word
  dead   : Bool
  gen    : Nat
  kind   : OutKind
  deriving DecidableEq, Repr

/-- A fault reported after a store left its group, or of an engine operation of an exited group, that waits to be taken
as DEFER or logged (R363). -/
structure Report where
  who    : Origin
  engine : Bool
  addr   : Word
  cause  : BitVec 8
  deriving DecidableEq, Repr

/-- An answer of the target to a fabric request (R440 to R442): a translation is its page's rights and world. -/
inductive FabricAnswer where
  | value (data : List Byte)
  | translation (r w a : Bool) (world : BitVec 4)
  | done
  | refused
  deriving DecidableEq, Repr

/-- A packet to a peer (R437 to R439): its plane, peer and region, the source module and context, the sequence number and the
grant token, and its accesses by their offset in the region. -/
structure Packet where
  plane    : Nat
  peer     : Nat
  region   : Nat
  srcModule : Nat
  srcCtx   : Nat
  sequence : Nat
  token    : Word
  parts    : List (Nat × OutKind)
  deriving DecidableEq, Repr

/-- What the module sends out: interrupts, accesses to the host and to peers, completions of host reads, fabric answers and
management answers. `hostRequest` carries a host physical address (R436). -/
inductive OutMsg where
  | controlInterrupt (what : String) (a b c : Nat)
  | supervisorInterrupt (n : Nat)
  | hostRequest (addr : Nat) (kind : OutKind)
  | fabricPacket (p : Packet)
  | fabricFence (peer srcCtx sequence : Nat)
  | contribution (cid : Word) (generation : Nat)
  | invalidation (source ctx page : Nat)
  | migrationConfirmed (ctx : Nat)
  | hostInterrupt (unit automaton : Nat)
  | hostData (data : List Byte) (poisoned : Bool)
  | unsupportedRequest (addr : Nat)
  | fabricAnswer (source srcCtx sequence : Nat) (a : FabricAnswer)
  | managementWord (w : Word)
  | managementError
  | signedBytes (data sig : List Byte)
  | migrationSent (ctx dest : Nat)
  | invalidationAck (ctx page : Nat)
  deriving DecidableEq, Repr

/-- A translation that the module holds for a peer's page in compatibility mode (R442): its context, its page, and the rights
and world that the target gave with it. -/
structure PeerPage where
  ctx   : Nat
  page  : Nat
  r     : Bool
  w     : Bool
  a     : Bool
  world : BitVec 4
  deriving DecidableEq, Repr

/-- The fabric's state (R438 to R442): the next sequence number of each source context and peer, by 512 × context + peer,
the link-key generation and the tick of its last rotation, the open collectives at scope sys by context and CID with the generation
fixed for each (R443), the generation of the grant keys, the requests answered with
their answers (source, source context, sequence number), the fenced sequence numbers and sources, the peer translations
held and those (context, page) whose requests an invalidation waits for; and as a target in compatibility mode the translations
given (source, context, page) and the invalidations sent and not acknowledged, with the tick of each. -/
structure Fabric where
  sent      : List (Nat × Nat)
  keyGen    : Nat
  rotated   : Nat
  opened    : List (Nat × Word × Nat)
  grantGen  : BitVec 4
  answered  : List (Nat × Nat × Nat × FabricAnswer)
  fencedSeq : List (Nat × Nat × Nat)
  fenced    : List Nat
  cached    : List PeerPage
  draining  : List (Nat × Nat)
  given     : List (Nat × Nat × Nat)
  recalled  : List (Nat × Nat × Nat × Nat)
  deriving DecidableEq, Repr

-- Accesses that no stream makes.

/-- An access of the host, of a fabric peer or of a unit that writes a record: a stop record, an entry of a context's fault
log, or a seal record (R360, R364, R433 to R435, R440, R450). `hostAcks` stands for a posted write that has been sent, whose
outbound part is not acknowledged. -/
inductive DeviceAct where
  | hostWrite (pasid : Option Nat) (addr : Nat) (data : List Byte)
  | hostAcks (ids : List Nat)
  | hostRead (pasid : Option Nat) (addr len : Nat)
  | peer (r : FabricRequest)
  | stopRecord (ctx core slot : Nat) (world : BitVec 4) (va : Word) (data : List Byte)
  | logEntry (ctx die : Nat) (data : List Byte)
  | sealRecord (ctx die : Nat) (world : BitVec 4) (va : Word) (data : List Byte)
  deriving DecidableEq, Repr

/-- Such an access while it waits: for an earlier one, for the wake of a die (R412), or on a held PTE, with the clocks since
which it waits and of its last read (R246). -/
structure Job where
  id   : Nat
  act  : DeviceAct
  held : Option (Nat × Nat)
  deriving DecidableEq, Repr

-- Tramir (R376, R414, R448 to R451).

/-- An open seal (R449). `since` is the clock since which its `sclose` waits on a held PTE (R246). -/
structure Seal where
  n      : Nat
  g      : Nat
  ctx    : Nat
  grid   : Word
  gser   : BitVec 32
  alg    : Nat
  slot   : Nat
  record : Word
  ranges : List (Word × Nat)
  since  : Option Nat
  deriving DecidableEq, Repr

/-- The fatal-state dump (R376): the error and its Meridian time; every core's pool (scratchpad and accumulator), the bytes of
every context's fault log, the stop records of the resident groups and the event sample buffers. Home caches hold what memory does.
Its layout is not given: its bytes are the free value `free` (log entry 3). -/
structure Dump where
  cause   : Nat
  stamp   : Word
  free    : Nat
  pools   : List (Nat × Mem × Mem)
  logs    : List (Nat × List Byte)
  records : List (Nat × Nat × List Byte)
  samples : List (Nat × List (Nat × List Byte))
  deriving DecidableEq, Repr

/-- A key that Tramir has created (R444): of a world, or of a world on a stack's Plumb channel. -/
inductive TramirKey where
  | world (w : BitVec 4)
  | stack (w : BitVec 4) (stack : Nat)
  deriving DecidableEq, Repr

/-- Where a migration stands (R448): `sent` once the destination has the context's state. -/
structure MigrationState where
  ctx  : Nat
  dest : Nat
  sent : Bool
  deriving DecidableEq, Repr

/-- Tramir: the seals, their serial, the dump, migrations and the tensor range tables, by die (R446); the keys it has created, each
with a number of its own (R444); and the contexts that have come from another module and are not started (R448). -/
structure Tramir where
  seals  : List Seal
  serial : Word
  dump   : Option Dump
  moving : List MigrationState
  ranges : List (Nat × Nat × Nat × Nat)
  keys   : List (TramirKey × Nat)
  arrived : List Nat
  deriving DecidableEq, Repr

/-- What another module's Tramir sends of a context (R448): the context with its grids, teams and evicted groups, the engine
operations that its groups wait to have accepted, and its memory by this module's addresses. `bound` lies above every key in it. -/
structure Image where
  bound  : Nat
  ctx    : Context
  grids  : List Grid
  teams  : List Team
  groups : List Group
  engs   : List EngOp
  bytes  : List (Nat × List Byte)
  deriving DecidableEq, Repr

-- The control-core hart (R241 to R243).

/-- The hart that runs `dtlbi` and `dtlbf`: its integer registers, pc, privilege (0 user, 1 supervisor, 3 machine), the
machine trap registers, and for the `dtlbi` it has issued the accesses not yet drained (log entry 9). -/
structure Hart where
  x      : Vector Word 32
  pc     : Word
  priv   : Nat
  mtvec  : Word
  mepc   : Word
  mcause : Word
  mtval  : Word
  mpp    : Nat
  mpie   : Bool
  mie    : Bool
  drain  : List Nat
  deriving DecidableEq, Repr

/-- The hart at reset (PRESUMED, log entry 9). -/
def Hart.empty : Hart := ⟨Vector.replicate 32 0, 0, 3, 0, 0, 0, 0, 0, false, false, []⟩

-- Who moves (log entry 1).

/-- An act of the device supervisor, of Tramir, of another module or of an error, that no row of the opcode table names: an MSI-X
of the supervisor (R436), a new generation of grant keys (R440), the recall of a page that peers hold a translation of (R442), the
steps of a migration at its destination and its failure at its source (R372, R448), a correctable error (R373), and the write-back of
a sector that the grazer read (R375). -/
inductive SystemAct where
  | supervisorInterrupt (n : Nat)
  | grantKeyRotation
  | recall (ctx page : Nat)
  | migrationIn (m : Image)
  | migrationStart (ctx : Nat)
  | migrationLost (ctx : Nat)
  | migrationFailed (ctx : Nat)
  | corrected (site : ErrorSite)
  | writeBack (sector : Nat)
  deriving DecidableEq, Repr

/-- The agent that the next step lets move: a scalar or a lane choice of a partition (R159), the control-core hart, a
step of the table that has no word, an act of `SystemAct`, one arithmetic clock, the replacement of an entry of a core's TLB or of a die's (R233),
an access that no stream makes and that waits, a word of a copy that moves before the copy is done (R292), or the read of A and its
scales by a part of an `mma` (R311), or a stop that reaches its group (R359). -/
inductive Turn where
  | scalar (core part : Nat)
  | lane (core part : Nat)
  | hart
  | event (i : Instr)
  | tick
  | replace (core k : Nat)
  | replaceDie (die : Nat) (big : Bool) (k : Nat)
  | device (k : Nat)
  | system (a : SystemAct)
  | engine (op row k : Nat)
  | matRead (op : Nat)
  | land (g : Nat)
  deriving DecidableEq, Repr, Inhabited

/-- The key a line of memory is stored under: its world and the number of the world's key, and in tensor mode the tensor ID and the
version (R444 to R446); tensor 0 is page mode, and world 0 is plaintext. -/
structure LineKey where
  world   : BitVec 4
  key     : Nat
  tensor  : Nat
  version : Nat
  deriving DecidableEq, Repr

/-- The memories of the module: HBM and LPDDR bytes by physical address as their own key reads them, the key of each line
that is not plaintext, poisoned sectors, those of them whose error lies in the home's cache (R380), the grazer's retries with their
count and the clock of the last, and the sectors that it has read and not written back, with their count of retries and whether a
write has come since (R220, R374, R375, R445). -/
structure Memory where
  bytes   : Mem
  keys    : List (Nat × LineKey)
  poison  : List Nat
  cached  : List Nat
  retry   : List (Nat × Nat × Nat)
  visits  : List (Nat × Nat × Bool)
  deriving DecidableEq, Repr

/-- Time and power (R9, R377, R452 to R459). `lost` is the tick at which the reference was lost, and `back` the one at which it
came back, until the counters are within their bound again (R456). -/
structure Clock where
  clock    : Nat
  half     : Bool
  phase    : Nat
  tick     : Nat
  lost     : Option Nat
  back     : Option Nat
  fenced   : Bool
  ctxend   : Word
  deriving DecidableEq, Repr

/-- The model's own bookkeeping: who moves next, how many moves were made, the word being executed, the counter the free
values are taken from, and the next key (log entries 1 and 3). -/
structure Sched where
  turn  : Turn
  turns : Nat
  cur   : Option Cur
  free  : Nat
  uid   : Nat
  deriving DecidableEq, Repr

/-- The module. -/
structure State where
  clk     : Clock
  sched   : Sched
  mem     : Memory
  order   : Order
  groups  : List Group
  teams   : List Team
  cores   : List (Nat × Core)
  latches : List (Nat × Latch)
  mats    : List MatOp
  engs    : List EngOp
  dies    : List (Nat × Die)
  stks    : List (Nat × Stack)
  units   : List (Nat × TrigUnit)
  ctxs    : List Context
  grids   : List Grid
  returns : List Return
  arrivals : List Arrival
  outb    : List Outbound
  reports : List Report
  jobs    : List Job
  fabric  : Fabric
  tramir  : Tramir
  hart    : Hart
  out     : List OutMsg
  deriving DecidableEq, Repr

/-- The module right after module reset (R457): phase 0, no group resident (R29), memory with nothing listed, and every
other field as its unit's reset value. -/
def State.reset : State where
  clk := ⟨0, false, 0, 0, none, none, false, 0⟩
  sched := ⟨.tick, 0, none, 0, 1⟩
  mem := ⟨[], [], [], [], [], []⟩
  order := ⟨0, 0, [], [], [], [], []⟩
  groups := []
  teams := []
  cores := []
  latches := []
  mats := []
  engs := []
  dies := []
  stks := []
  units := []
  ctxs := []
  grids := []
  returns := []
  arrivals := []
  outb := []
  reports := []
  jobs := []
  fabric := ⟨[], 0, 0, [], 0, [], [], [], [], [], [], []⟩
  tramir := ⟨[], 0, none, [], [], [], []⟩
  hart := Hart.empty
  out := []

/-- How a step stops with a fault. -/
inductive Fault where
  /-- Raised by every meaning of a scalar or lane word when no group is named as the one that executes it
  (`State.cur`). The machine never reaches it: a step names the group before it executes a word. Safe: such a state
  is no state of the part. -/
  | noIssuer
  deriving DecidableEq, Repr

/-- How a step answers that it has no meaning for what it met. -/
inductive Refusal where
  /-- An instruction of the opcode table that this model does not give a meaning. Safe: the run ends. -/
  | notModelled (mnemonic : String)
  /-- Raised by the control-core hart when the word at its pc is none of the two words of R241, no FENCE RW,RW (R273) and no
  access of a control space (R234): the control cores run RV64GC (R241), whose other instructions the spec does not describe.
  Safe: the run ends. -/
  | hartWordOutsideSpec (word : W32)
  deriving DecidableEq, Repr

end Sys2Proof.Machine
end

