-- ==== Sys2Proof/Config.lean ====
section
/-! DEFINITION. What the spec leaves open, as constants without a body: nothing in Lean can evaluate one or prove a value
of it, so a theorem that holds holds for every choice. Log entries 1, 3 and 20 name them. -/

namespace Sys2Proof.Config

open Sys2Proof Sys2Proof.Machine

/-- Which agent moves after `n` moves (log entry 1): R17, R174, R225 and the waits of every engine leave the order open. -/
opaque nextTurn : Nat → Turn

/-- A free choice between two outcomes the spec allows, taken from the counter of free values (log entry 3). -/
opaque freeBool : Nat → Bool

/-- A byte that the host or a fabric peer returns for a physical address, and a byte of a store the spec does not lay
out, by the counter of free values (log entry 3). -/
opaque freeByte : Nat → Nat → Byte

/-- A word the spec gives no value, by the counter of free values (log entry 3). -/
opaque freeWord : Nat → Word

/-- Which of the values that a word of a program has held since its grid's launch a fetch takes, by the number of moves made and the
word's address (R15, log entry 10). -/
opaque freeFetch : Nat → Nat → Nat

/-- Whether the host or a peer completes an outbound access with an error (R363, R436). -/
opaque outboundError : Nat → Bool

/-- The number of this module on the fabric, which its packets carry (R438). -/
opaque moduleNumber : Nat

/-- The plane that the packets of a line travel on (R438). -/
opaque planeOfLine : Nat → Nat

/-- Tramir: whether a key slot holds a key (R449). -/
opaque keySlot : Nat → Bool

/-- The signature of Tramir with algorithm and key slot over bytes (R450, R460). -/
opaque signature : Nat → Nat → List Byte → List Byte

/-- The low 32 bits of the CMAC of a grant token's low half under the module's grant key of a generation, for a source
module and context (R439). -/
opaque grantMac : BitVec 4 → W32 → Nat → Nat → W32

/-- What a byte of a line reads as under another key than it was written under: the two keys, the line, the offset in
it and the byte (R444 to R446: XTS-AES-256 of the line, or the pads of two versions). -/
opaque underOtherKey : LineKey → LineKey → Nat → Nat → Byte → Byte

/-- A word of the tag region of a tensor with tags: the key, the line and its bytes (R447). -/
opaque lineTag : LineKey → Nat → List Byte → Word

end Sys2Proof.Config
end

