-- ==== Sys2Proof/Machine/Flags.lean ====
section
/-! DEFINITION. Integer arithmetic that scalar and lane words share: conditions (R63), division (R32), bit counts,
saturation, and the flag bits of FFLAGS (R38). -/

namespace Sys2Proof.Machine

open Sys2Proof

/-- R63: the condition of a code, over words of one width. -/
def condition {w : Nat} (code : Nat) (a b : BitVec w) : Bool :=
  match code with
  | 0 => a == b
  | 1 => a != b
  | 2 => a.slt b
  | 3 => !(a.slt b)
  | 4 => a.ult b
  | 5 => !(a.ult b)
  | 6 => a &&& b != 0
  | 7 => a &&& b == 0
  | _ => false

/-- R32: signed quotient, truncated toward zero. -/
def divSigned {w : Nat} (a b : BitVec w) : BitVec w :=
  if b = 0 then BitVec.allOnes w else BitVec.ofInt w (a.toInt.tdiv b.toInt)
/-- R32: natural quotient. -/
def divNatural {w : Nat} (a b : BitVec w) : BitVec w :=
  if b = 0 then BitVec.allOnes w else a / b
/-- R32: signed remainder, with the sign of the dividend. -/
def remSigned {w : Nat} (a b : BitVec w) : BitVec w :=
  if b = 0 then a else BitVec.ofInt w (a.toInt.tmod b.toInt)
/-- R32: natural remainder. -/
def remNatural {w : Nat} (a b : BitVec w) : BitVec w :=
  if b = 0 then a else a % b

/-- Smaller and larger, signed and natural (R77). -/
def minSigned {w : Nat} (a b : BitVec w) : BitVec w := if a.slt b then a else b
def maxSigned {w : Nat} (a b : BitVec w) : BitVec w := if a.slt b then b else a
def minNatural {w : Nat} (a b : BitVec w) : BitVec w := if a.ult b then a else b
def maxNatural {w : Nat} (a b : BitVec w) : BitVec w := if a.ult b then b else a

/-- The high half of a signed product. -/
def mulHigh {w : Nat} (a b : BitVec w) : BitVec w := BitVec.ofInt w ((a.toInt * b.toInt) / 2 ^ w)
/-- The high half of a natural product. -/
def mulHighNatural {w : Nat} (a b : BitVec w) : BitVec w := BitVec.ofNat w (a.toNat * b.toNat / 2 ^ w)

/-- The number of one bits of the low `n` bits. -/
def countOnes {w : Nat} (x : BitVec w) (n : Nat) : Nat :=
  match n with
  | 0 => 0
  | k + 1 => countOnes x k + if x.getLsbD k then 1 else 0

/-- Trailing zero bits of the bits from `w - n` up; `n` when they are all zero. -/
def trailingZeros {w : Nat} (x : BitVec w) (n : Nat) : Nat :=
  match n with
  | 0 => 0
  | k + 1 => if x.getLsbD (w - (k + 1)) then 0 else trailingZeros x k + 1

/-- Leading zero bits of the low `n` bits; `n` when they are all zero. -/
def leadingZeros {w : Nat} (x : BitVec w) (n : Nat) : Nat :=
  match n with
  | 0 => 0
  | k + 1 => if x.getLsbD k then 0 else leadingZeros x k + 1

/-- The signed value of a word held to the range of `w` bits. -/
def satSigned (w : Nat) (x : Int) : BitVec w :=
  if x < -(2 ^ (w - 1)) then BitVec.ofInt w (-(2 ^ (w - 1)))
  else if 2 ^ (w - 1) - 1 < x then BitVec.ofInt w (2 ^ (w - 1) - 1)
  else BitVec.ofInt w x

/-- The natural value of a word held to the range of `w` bits. -/
def satNatural (w : Nat) (x : Int) : BitVec w :=
  if x < 0 then 0 else if 2 ^ w - 1 < x then BitVec.allOnes w else BitVec.ofInt w x

/-- R95, R254: what an atomic writes back, over words of one width: `op` 0 to 8. -/
def atomicResult {w : Nat} (op : Nat) (old x : BitVec w) : BitVec w :=
  match op with
  | 0 => old + x
  | 1 => old &&& x
  | 2 => old ||| x
  | 3 => old ^^^ x
  | 4 => minSigned old x
  | 5 => maxSigned old x
  | 6 => minNatural old x
  | 7 => maxNatural old x
  | _ => x

end Sys2Proof.Machine
end

