-- ==== Sys2Proof/Machine/Num.lean ====
section
/-! DEFINITION. Numbers, formats and rounding (R33 to R48): exact values, one rounding, and the flags of FFLAGS. -/

namespace Sys2Proof.Machine

open Sys2Proof

/-- FFLAGS bits (R38). -/
abbrev Flags := BitVec 5
def flagNV : Flags := 16
def flagDZ : Flags := 8
def flagOF : Flags := 4
def flagUF : Flags := 2
def flagNX : Flags := 1

/-- Rounding codes (R35). -/
inductive Rc where
  | rne
  | rz
  | rup
  | rdn
  deriving DecidableEq, Repr

/-- The rounding code of a 2-bit field (R35). -/
def rcOf (n : Nat) : Rc :=
  match n % 4 with
  | 0 => .rne
  | 1 => .rz
  | 2 => .rup
  | _ => .rdn

/-- The value of an element: a NaN, an infinity, or (-1)^neg × m × 2^e; a zero keeps its sign. -/
inductive FVal where
  | nan (signalling : Bool)
  | inf (neg : Bool)
  | num (neg : Bool) (m : Nat) (e : Int)
  deriving DecidableEq, Repr

def FVal.isNan : FVal → Bool
  | .nan _ => true
  | _ => false
def FVal.isSig : FVal → Bool
  | .nan s => s
  | _ => false
def FVal.isZero : FVal → Bool
  | .num _ m _ => m == 0
  | _ => false
def FVal.isInf : FVal → Bool
  | .inf _ => true
  | _ => false
def FVal.neg : FVal → Bool
  | .nan _ => false
  | .inf n => n
  | .num n _ _ => n
def FVal.negate : FVal → FVal
  | .nan s => .nan s
  | .inf n => .inf (!n)
  | .num n m e => .num (!n) m e

/-- A binary format with sign, `eb` exponent bits of a bias and `fb` fraction bits (R34, R40, R41). `noInf` is F8E4,
whose greatest exponent holds finite values and one NaN. -/
structure Format where
  eb    : Nat
  fb    : Nat
  bias  : Int
  noInf : Bool
  nan   : Nat
  deriving DecidableEq, Repr

def f32 : Format := ⟨8, 23, 127, false, 0x7FC00000⟩
def f16 : Format := ⟨5, 10, 15, false, 0x7E00⟩
def bf16 : Format := ⟨8, 7, 127, false, 0x7FC0⟩
def f8e4 : Format := ⟨4, 3, 8, true, 0x7F⟩
def f8e5 : Format := ⟨5, 2, 16, false, 0x7E⟩
/-- binary64, for k2 and k3 (R36, R318). -/
def f64 : Format := ⟨11, 52, 1023, false, 0x7FF8000000000000⟩

/-- The value of an encoding (R34, R40, R41). A NaN whose most significant fraction bit is 0 is signalling in the IEEE
formats (R36). -/
def Format.value (f : Format) (x : Nat) : FVal :=
  let frac := x % 2 ^ f.fb
  let ex := x / 2 ^ f.fb % 2 ^ f.eb
  let neg := x / 2 ^ (f.fb + f.eb) % 2 == 1
  let top := 2 ^ f.eb - 1
  if f.noInf && ex == top && frac == 2 ^ f.fb - 1 then .nan false
  else if !f.noInf && ex == top then
    if frac == 0 then .inf neg else .nan (f.eb + f.fb != 7 && frac < 2 ^ (f.fb - 1))
  else if ex == 0 then .num neg frac (1 - f.bias - f.fb)
  else .num neg (2 ^ f.fb + frac) (ex - f.bias - f.fb)

/-- The number of bits of a natural number. -/
def bitLen (m : Nat) : Nat := if m = 0 then 0 else m.log2 + 1

/-- How `m × 2^-k` rounds to an integer (R35): the integer and whether it is inexact. -/
def roundShift (rc : Rc) (neg : Bool) (m k : Nat) : Nat × Bool :=
  let q := m / 2 ^ k
  let r := m % 2 ^ k
  let up := match rc with
    | .rne => 2 ^ k < 2 * r || (2 * r == 2 ^ k && q % 2 == 1)
    | .rz => false
    | .rup => !neg && r != 0
    | .rdn => neg && r != 0
  (if up then q + 1 else q, r != 0)

/-- `m × 2^e` rounded to a multiple of `2^q`. -/
def roundAt (rc : Rc) (neg : Bool) (m : Nat) (e q : Int) : Nat × Bool :=
  if q ≤ e then (m * 2 ^ (e - q).toNat, false) else roundShift rc neg m (q - e).toNat

/-- The greatest finite encoding without the sign (R40, R41). -/
def Format.maxFinite (f : Format) : Nat :=
  (2 ^ f.eb - 1) * 2 ^ f.fb - 1 + if f.noInf then 2 ^ f.fb - 1 else 0

/-- Whether IEEE 754 overflow gives an infinity in a rounding mode (R37). -/
def overflowsToInf (rc : Rc) (neg : Bool) : Bool :=
  match rc with
  | .rne => true
  | .rz => false
  | .rup => !neg
  | .rdn => neg

/-- A sign bit placed in a format. -/
def Format.signed (f : Format) (neg : Bool) (x : Nat) : Nat := if neg then x + 2 ^ (f.eb + f.fb) else x

/-- One rounding of `(-1)^neg × m × 2^e` into a format with subnormals (R35 to R37, R42). `sat` saturates what would be
an infinity. Tininess is detected after rounding. -/
def Format.round (f : Format) (rc : Rc) (sat neg : Bool) (m : Nat) (e : Int) : Nat × Flags :=
  if m == 0 then (f.signed neg 0, 0)
  else
    let p := f.fb + 1
    let lead : Int := e + bitLen m - 1
    let emin : Int := 1 - f.bias
    let free : Int := lead - (p - 1)
    let q : Int := if free < emin - (p - 1) then emin - (p - 1) else free
    let (n, inexact) := roundAt rc neg m e q
    -- the encoding without the sign: a carry out of the fraction moves into the exponent by itself
    let base : Nat := ((q - (emin - (p - 1))).toNat) * 2 ^ f.fb
    let enc := base + n
    if f.maxFinite < enc then
      let top := f.maxFinite
      if overflowsToInf rc neg && !sat then
        (if f.noInf then f.nan else f.signed neg (top + 1), flagOF ||| flagNX)
      else (f.signed neg top, flagOF ||| flagNX)
    else
      let (u, _) := roundAt rc neg m e free
      let tiny := free + bitLen u - 1 < emin
      (f.signed neg enc, if inexact then (if tiny then flagUF ||| flagNX else flagNX) else 0)

/-- A result that is computed to more bits than any format keeps: `more` says the exact magnitude lies strictly between
`m` and `m + 1`. -/
def Format.roundMore (f : Format) (rc : Rc) (neg : Bool) (m : Nat) (e : Int) (more : Bool) : Nat × Flags :=
  f.round rc false neg (4 * m + if more then 1 else 0) (e - 2)

/-- The encoding of an infinity in a format that has it. -/
def Format.infinity (f : Format) (neg : Bool) : Nat := f.signed neg ((2 ^ f.eb - 1) * 2 ^ f.fb)

/-- A value rounded into F32, F16, BF16 or binary64 (R35 to R37). -/
def Format.ofVal (f : Format) (rc : Rc) (v : FVal) : Nat × Flags :=
  match v with
  | .nan s => (f.nan, if s then flagNV else 0)
  | .inf n => (f.infinity n, 0)
  | .num n m e => f.round rc false n m e

/-- A canonical NaN that an invalid operation gives. -/
def Format.invalid (f : Format) : Nat × Flags := (f.nan, flagNV)

-- Exact sums and products.

/-- A signed mantissa at an exponent. -/
def signedAt (neg : Bool) (m : Nat) (e q : Int) : Int :=
  let x : Int := (m * 2 ^ (e - q).toNat : Nat)
  if neg then -x else x

/-- The exact sum of two finite values; an exact zero of operands of different sign is +0, or -0 when rounding down. -/
def sumVal (rc : Rc) (n1 : Bool) (m1 : Nat) (e1 : Int) (n2 : Bool) (m2 : Nat) (e2 : Int) : FVal :=
  let q := if e1 < e2 then e1 else e2
  let x := signedAt n1 m1 e1 q + signedAt n2 m2 e2 q
  if x = 0 then .num (if n1 = n2 then n1 else rc = .rdn) 0 0
  else .num (decide (x < 0)) x.natAbs q

/-- IEEE 754 addition (R36, R37). -/
def Format.add (f : Format) (rc : Rc) (a b : FVal) : Nat × Flags :=
  match a, b with
  | .nan s, .nan t => (f.nan, if s || t then flagNV else 0)
  | .nan s, _ => (f.nan, if s then flagNV else 0)
  | _, .nan t => (f.nan, if t then flagNV else 0)
  | .inf x, .inf y => if x = y then (f.infinity x, 0) else f.invalid
  | .inf x, _ => (f.infinity x, 0)
  | _, .inf y => (f.infinity y, 0)
  | .num n1 m1 e1, .num n2 m2 e2 => f.ofVal rc (sumVal rc n1 m1 e1 n2 m2 e2)

/-- IEEE 754 multiplication. -/
def Format.mul (f : Format) (rc : Rc) (a b : FVal) : Nat × Flags :=
  match a, b with
  | .nan s, .nan t => (f.nan, if s || t then flagNV else 0)
  | .nan s, _ => (f.nan, if s then flagNV else 0)
  | _, .nan t => (f.nan, if t then flagNV else 0)
  | .inf x, y => if y.isZero then f.invalid else (f.infinity (x != y.neg), 0)
  | x, .inf y => if x.isZero then f.invalid else (f.infinity (x.neg != y), 0)
  | .num n1 m1 e1, .num n2 m2 e2 => f.round rc false (n1 != n2) (m1 * m2) (e1 + e2)

/-- The exact product of values none of which is a NaN; none for an infinity times a zero. -/
def mulVal (a b : FVal) : Option FVal :=
  match a, b with
  | .num n1 m1 e1, .num n2 m2 e2 => some (.num (n1 != n2) (m1 * m2) (e1 + e2))
  | x, y => if x.isZero || y.isZero then none else some (.inf (x.neg != y.neg))

/-- Fused multiply-add (R185): an infinity times a zero is invalid even when `c` is a quiet NaN. -/
def Format.fma (f : Format) (rc : Rc) (a b c : FVal) : Nat × Flags :=
  if a.isNan || b.isNan then (f.nan, if a.isSig || b.isSig || c.isSig then flagNV else 0)
  else
    match mulVal a b with
    | none => f.invalid
    | some p => f.add rc p c

/-- IEEE 754 division (R189). -/
def Format.div (f : Format) (rc : Rc) (a b : FVal) : Nat × Flags :=
  match a, b with
  | .nan s, .nan t => (f.nan, if s || t then flagNV else 0)
  | .nan s, _ => (f.nan, if s then flagNV else 0)
  | _, .nan t => (f.nan, if t then flagNV else 0)
  | .inf _, .inf _ => f.invalid
  | .inf x, y => (f.infinity (x != y.neg), 0)
  | x, .inf y => (f.signed (x.neg != y) 0, 0)
  | .num n1 m1 e1, .num n2 m2 e2 =>
    let neg := n1 != n2
    if m2 == 0 then (if m1 == 0 then f.invalid else (f.infinity neg, flagDZ))
    else
      let k := f.fb + 4 + bitLen m2
      f.roundMore rc neg (m1 * 2 ^ k / m2) (e1 - e2 - k) (m1 * 2 ^ k % m2 != 0)

-- Square roots.

/-- The integer square root, bit by bit from bit `n - 1` of the root down. -/
def isqrtFrom (x : Nat) : (n r : Nat) → Nat
  | 0, r => r
  | k + 1, r =>
    let t := r + 2 ^ k
    isqrtFrom x k (if t * t ≤ x then t else r)

/-- The integer square root. -/
def isqrt (x : Nat) : Nat := isqrtFrom x (bitLen x / 2 + 1) 0

/-- `fsqrt` (R189). -/
def Format.sqrt (f : Format) (rc : Rc) (a : FVal) : Nat × Flags :=
  match a with
  | .nan s => (f.nan, if s then flagNV else 0)
  | .inf n => if n then f.invalid else (f.infinity false, 0)
  | .num n m e =>
    if m == 0 then (f.signed n 0, 0)
    else if n then f.invalid
    else
      let (m, e) := if e % 2 = 0 then (m, e) else (2 * m, e - 1)
      let x := m * 2 ^ (2 * (f.fb + 4))
      let r := isqrt x
      f.roundMore rc false r (e / 2 - (f.fb + 4)) (r * r != x)

/-- `frsq` (R189): the reciprocal square root of `m × 2^e` with `e` even is the root of `2^2k / m`, times `2^(-e/2 - k)`. -/
def Format.rsqrt (f : Format) (rc : Rc) (a : FVal) : Nat × Flags :=
  match a with
  | .nan s => (f.nan, if s then flagNV else 0)
  | .inf n => if n then f.invalid else (f.signed false 0, 0)
  | .num n m e =>
    if m == 0 then (f.infinity n, flagDZ)
    else if n then f.invalid
    else
      let (m, e) := if e % 2 = 0 then (m, e) else (2 * m, e - 1)
      let k := f.fb + 4 + bitLen m
      let r := isqrt (2 ^ (2 * k) / m)
      f.roundMore rc false r (-(e / 2) - k) (r * r * m != 2 ^ (2 * k))

-- Transcendental functions (R189), by fixed-point arithmetic with 400 fraction bits. A result that is no exact case is
-- irrational, and it lies much farther from every rounding boundary than the error of this arithmetic.

/-- Fraction bits of the fixed-point values. -/
def fixBits : Nat := 400

/-- `x^1/1 ± x^3/3 + …` for `x = 1/d`: the arctangent of `1/d`, or with `hyp` the hyperbolic one, by `n` terms. -/
def atanInv (hyp : Bool) (d : Nat) : (n k : Nat) → (pow : Nat) → Int
  | 0, _, _ => 0
  | n + 1, k, pow =>
    let t : Int := (pow / (2 * k + 1) : Nat)
    (if hyp || k % 2 == 0 then t else -t) + atanInv hyp d n (k + 1) (pow / (d * d))

/-- π in fixed point: 16 atan(1/5) - 4 atan(1/239). -/
def fixPi : Nat :=
  (16 * atanInv false 5 100 0 (2 ^ fixBits / 5) - 4 * atanInv false 239 40 0 (2 ^ fixBits / 239)).toNat

/-- ln 2 in fixed point: 2 atanh(1/3). -/
def fixLn2 : Nat := (2 * atanInv true 3 140 0 (2 ^ fixBits / 3)).toNat

/-- The exponential series of a fixed-point `x` from term `k` on: `t` is term `k`. -/
def expSeries (x : Nat) : (n k t : Nat) → Nat
  | 0, _, _ => 0
  | n + 1, k, t => t + expSeries x n (k + 1) (t * x / 2 ^ fixBits / (k + 1))

/-- `x - x^3/3! + …` or `1 - x^2/2! + …`: term `t` has the factor `x^k / k!`. -/
def trigSeries (x : Nat) : (n k t : Nat) → (neg : Bool) → Int
  | 0, _, _, _ => 0
  | n + 1, k, t, neg =>
    let x2 := x * x / 2 ^ fixBits
    (if neg then -(t : Int) else t) + trigSeries x n (k + 2) (t * x2 / 2 ^ fixBits / ((k + 1) * (k + 2))) (!neg)

/-- sin x and cos x in fixed point for `0 ≤ x ≤ π/4`. -/
def fixSin (x : Nat) : Nat := (trigSeries x 50 1 x false).toNat
def fixCos (x : Nat) : Nat := (trigSeries x 50 0 (2 ^ fixBits) false).toNat

/-- atanh of a fixed-point `z`: `z + z^3/3 + …`, `pow` being `z^(2k+1)`. -/
def atanhSeries (z : Nat) : (n k pow : Nat) → Nat
  | 0, _, _ => 0
  | n + 1, k, pow => pow / (2 * k + 1) + atanhSeries z n (k + 1) (pow * z / 2 ^ fixBits * z / 2 ^ fixBits)

/-- `fexp2` (R189). -/
def Format.exp2 (f : Format) (rc : Rc) (a : FVal) : Nat × Flags :=
  match a with
  | .nan s => (f.nan, if s then flagNV else 0)
  | .inf n => (if n then f.signed false 0 else f.infinity false, 0)
  | .num n m e =>
    if m == 0 then f.round rc false false 1 0
    else if 10 < (bitLen m : Int) + e then
      -- |a| is at least 2^10: the result over- or underflows
      if n then f.round rc false false 1 (-2000) else f.round rc false false 1 2000
    else
      -- a as a multiple of 2^-k
      let k := (-e).toNat
      let x : Int := signedAt n m e (-(k : Int))
      let i := x / 2 ^ k
      let r := (x % 2 ^ k).toNat
      if r == 0 then f.round rc false false 1 i
      else
        let y := r * fixLn2 / 2 ^ k
        f.roundMore rc false (expSeries y 100 0 (2 ^ fixBits)) (i - fixBits) true

/-- `flog2` (R189). -/
def Format.log2 (f : Format) (rc : Rc) (a : FVal) : Nat × Flags :=
  match a with
  | .nan s => (f.nan, if s then flagNV else 0)
  | .inf n => if n then f.invalid else (f.infinity false, 0)
  | .num n m e =>
    if m == 0 then (f.infinity true, flagDZ)
    else if n then f.invalid
    else
      let w := bitLen m - 1
      let ex : Int := e + w
      if m == 2 ^ w then f.ofVal rc (.num (decide (ex < 0)) ex.natAbs 0)
      else
        -- x = m / 2^w lies in (1, 2), z = (x - 1) / (x + 1)
        let z := (m - 2 ^ w) * 2 ^ fixBits / (m + 2 ^ w)
        let ln := 2 * atanhSeries z 140 0 z
        let frac : Int := (ln * 2 ^ fixBits / fixLn2 : Nat)
        let t := ex * 2 ^ fixBits + frac
        -- the exact value lies just above t; below zero its magnitude lies just below |t|
        if 0 ≤ t then f.roundMore rc false t.toNat (-(fixBits : Int)) true
        else f.roundMore rc true (t.natAbs - 1) (-(fixBits : Int)) true

/-- The magnitude of sin(2πx) for `x = r / 2^k` turns within the first quadrant, or of cos with `cosine`. -/
def quadrant (cosine : Bool) (r k : Nat) : Nat :=
  -- over π/4 the other function of the rest of the quadrant is used: r / 2^k is at most 1/4
  let past := 2 ^ k < 8 * r
  let r' := if past then 2 ^ k - 4 * r else 4 * r
  let x := 2 * fixPi * r' / 2 ^ (k + 2)
  if cosine != past then fixCos x else fixSin x

/-- `fsin` and `fcos` of an argument in turns (R189). -/
def Format.turns (f : Format) (cosine : Bool) (rc : Rc) (a : FVal) : Nat × Flags :=
  match a with
  | .nan s => (f.nan, if s then flagNV else 0)
  | .inf _ => f.invalid
  | .num n m e =>
    let k := if e < 0 then (-e).toNat + 2 else 2
    let one := 2 ^ k
    let frac := (m * 2 ^ (e + k).toNat) % one   -- |a| modulo one turn, over 2^k
    let q := frac * 4 / one                     -- the quadrant
    let r := frac - q * (one / 4)               -- the rest within it
    -- sine of |a| by quadrant: sin, cos, -sin, -cos; cosine: cos, -sin, -cos, sin
    let useCos := (q % 2 == 1) != cosine
    let minus := if cosine then q == 1 || q == 2 else (decide (2 ≤ q)) != n
    if r == 0 then
      if useCos then f.round rc false minus 1 0
      else (f.signed (if cosine then false else n) 0, 0)
    else f.roundMore rc minus (quadrant useCos r k) (-(fixBits : Int)) true

-- Comparison, integers.

/-- The order of two values that are no NaN, with -0 equal to +0: less, equal or greater. -/
def compareVal (a b : FVal) : Ordering :=
  match a, b with
  | .inf x, .inf y => if x = y then .eq else if x then .lt else .gt
  | .inf x, _ => if x then .lt else .gt
  | _, .inf y => if y then .gt else .lt
  | .num n1 m1 e1, .num n2 m2 e2 =>
    let q := if e1 < e2 then e1 else e2
    compare (signedAt n1 m1 e1 q) (signedAt n2 m2 e2 q)
  | _, _ => .eq

/-- Whether `a` is the smaller operand, with -0 below +0 (R186). -/
def isLess (a b : FVal) : Bool :=
  match compareVal a b with
  | .lt => true
  | .gt => false
  | .eq => a.neg && !b.neg

/-- `fmin` and `fmax` over the encodings `x` and `y` of a format (R186). -/
def Format.minMax (f : Format) (max : Bool) (x y : Nat) : Nat × Flags :=
  let a := f.value x
  let b := f.value y
  let fl := if a.isSig || b.isSig then flagNV else 0
  (if a.isNan && b.isNan then f.nan
   else if a.isNan then y
   else if b.isNan then x
   else if isLess b a != max then y else x, fl)

/-- The condition of `fsetp` and the flags it sets (R187). -/
def fcondition (code : Nat) (a b : FVal) : Bool × Flags :=
  let un := a.isNan || b.isNan
  let sig := a.isSig || b.isSig
  let o := compareVal a b
  let t := match code with
    | 0 => !un && o == .eq
    | 1 => un || o != .eq
    | 2 => !un && o == .lt
    | 3 => !un && o != .gt
    | 4 => !un && o == .gt
    | 5 => !un && o != .lt
    | 6 => un
    | _ => !un
  let nv := if 2 ≤ code && code ≤ 5 then un else sig
  (t, if nv then flagNV else 0)

/-- `fclass` (R188). -/
def fclassWord (x : Nat) : Nat :=
  match f32.value x with
  | .nan s => if s then 0x100 else 0x200
  | .inf n => if n then 0x001 else 0x080
  | .num n m _ =>
    if m == 0 then (if n then 0x008 else 0x010)
    else if m < 2 ^ 23 then (if n then 0x004 else 0x020)
    else (if n then 0x002 else 0x040)

/-- R33: a value rounded to an integer of the range `lo` to `hi`, as a two's-complement word of `w` bits. -/
def toInteger (w : Nat) (lo hi : Int) (rc : Rc) (a : FVal) : Nat × Flags :=
  let enc (x : Int) : Nat := (x % 2 ^ w).toNat
  match a with
  | .nan _ => (0, flagNV)
  | .inf n => (enc (if n then lo else hi), flagNV)
  | .num n m e =>
    if 80 < (bitLen m : Int) + e then (enc (if n then lo else hi), flagNV)
    else
      let (k, inexact) := roundAt rc n m e 0
      let x : Int := if n then -(k : Int) else k
      if x < lo then (enc lo, flagNV)
      else if hi < x then (enc hi, flagNV)
      else (enc x, if inexact then flagNX else 0)

/-- The value of a signed or natural integer. -/
def ofInteger (x : Int) : FVal := .num (decide (x < 0)) x.natAbs 0

/-- `frnd` of an F32 encoding (R193). -/
def roundIntegral (rc : Rc) (x : Nat) : Nat × Flags :=
  match f32.value x with
  | .nan s => (f32.nan, if s then flagNV else 0)
  | .inf _ => (x, 0)
  | .num n m e =>
    if m == 0 || 0 ≤ e then (x, 0)
    else
      let (k, _) := roundAt rc n m e 0
      ((f32.round .rne false n k 0).1, 0)

/-- `fscale` (R193). -/
def scaleBy (rc : Rc) (a : FVal) (k : Int) : Nat × Flags :=
  match a with
  | .num n m e => f32.round rc false n m (e + if k < -1000 then -1000 else if 1000 < k then 1000 else k)
  | v => f32.ofVal rc v

-- The eight-bit floats, the shift formats and the block scale (R42, R44 to R48).

/-- A conversion into F8E4 or F8E5 (R42). -/
def toF8 (f : Format) (rc : Rc) (sat : Bool) (a : FVal) : Nat × Flags :=
  match a with
  | .nan _ => f.invalid
  | .inf n =>
    if f.noInf then (if sat then f.signed n f.maxFinite else f.nan, flagOF ||| flagNX)
    else (if sat then f.signed n f.maxFinite else f.infinity n, 0)
  | .num n m e => f.round rc sat n m e

/-- Whether `m1 × 2^e1 ≤ m2 × 2^e2`. -/
def magLe (m1 : Nat) (e1 : Int) (m2 : Nat) (e2 : Int) : Bool :=
  let q := if e1 < e2 then e1 else e2
  m1 * 2 ^ (e1 - q).toNat ≤ m2 * 2 ^ (e2 - q).toNat

/-- The code of Term(v) for a finite magnitude (R46), 7 for an absent term: code `c` is nearest from
3 × 2^-(c+2) up, the tie going to the smaller code. -/
def termFrom (m : Nat) (e : Int) : (n c : Nat) → Nat
  | 0, c => if magLe 1 (-7) m e then c else 7
  | n + 1, c => if magLe 3 (-(c : Int) - 2) m e then c else termFrom m e n (c + 1)

/-- The code of Term(v) (R46). -/
def termCode (m : Nat) (e : Int) : Nat := termFrom m e 6 0

/-- The signed value of a term, as a multiple of 2^-6. -/
def termValue (neg : Bool) (code : Nat) : Int :=
  if code == 7 then 0 else if neg then -(2 ^ (6 - code)) else 2 ^ (6 - code)

/-- A conversion into DS8 (R46). -/
def toDs8 (a : FVal) : Nat × Flags :=
  match a with
  | .nan _ => (0x77, flagNV)
  | .inf n => (if n then 0x88 else 0x00, flagOF ||| flagNX)
  | .num n m e =>
    let c1 := termCode m e
    if c1 == 7 then (0x77, if m == 0 then 0 else flagNX)
    else
      -- r = x - t1 exactly
      let q := if e < -6 then e else -6
      let x := signedAt n m e q
      let t1 := signedAt n 1 (-(c1 : Int)) q
      let r := x - t1
      let n2 := decide (r < 0)
      let c2 := if r = 0 then 7 else termCode r.natAbs q
      let n2 := if c2 == 7 then false else n2
      let t2 : Int := if c2 == 7 then 0 else signedAt n2 1 (-(c2 : Int)) q
      let fl := (if t1 + t2 = x then 0 else flagNX) ||| (if magLe m e 2 0 then 0 else flagOF)
      ((if n then 128 else 0) + 16 * c1 + (if n2 then 8 else 0) + c2, fl)

/-- A conversion into ST4 (R47). -/
def toSt4 (a : FVal) : Nat × Flags :=
  match a with
  | .nan _ => (0x7, flagNV)
  | .inf n => (if n then 0x8 else 0x0, flagOF ||| flagNX)
  | .num n m e =>
    let c := termCode m e
    if !magLe m e 1 0 then (if n then 0x8 else 0x0, flagOF ||| flagNX)
    else if c == 7 then (0x7, if m == 0 then 0 else flagNX)
    else ((if n then 8 else 0) + c, if magLe m e 1 (-(c : Int)) && magLe 1 (-(c : Int)) m e then 0 else flagNX)

/-- A conversion into SC8 (R48): one rounding to four significant bits, and then the tests of the rounded value. -/
def toSc8 (rc : Rc) (sat : Bool) (a : FVal) : Nat × Flags :=
  let outside : Nat × Flags := (if sat then 0xF7 else 0xFF, flagOF ||| flagNX)
  match a with
  | .nan _ => (0xFF, flagNV)
  | .inf n => if n then (0xFF, flagNV) else outside
  | .num n m e =>
    if m == 0 then (0x00, 0)
    else if n then (0xFF, flagNV)
    else
      let q : Int := e + bitLen m - 4
      let (k, inexact) := roundAt rc false m e q
      -- k lies in 8 .. 16; 16 is the next power of two
      let (k, q) := if k == 16 then (8, q + 1) else (k, q)
      if 12 < q then outside
      else if q < -17 then (0x00, flagUF ||| flagNX)
      else (((q + 18).toNat) * 8 + (k - 8), if inexact then flagNX else 0)

/-- The value of a DS8 encoding (R44). -/
def ds8Value (x : Nat) : FVal :=
  let t := termValue (x / 128 % 2 == 1) (x / 16 % 8) + termValue (x / 8 % 2 == 1) (x % 8)
  .num (decide (t < 0)) t.natAbs (-6)

/-- The value of an ST4 encoding (R47). -/
def st4Value (x : Nat) : FVal :=
  let t := termValue (x / 8 % 2 == 1) (x % 8)
  .num (decide (t < 0)) t.natAbs (-6)

/-- The value of an SC8 encoding (R48). -/
def sc8Value (x : Nat) : FVal :=
  let ex := x / 8 % 32
  if ex == 0 then .num false 0 0
  else if ex == 31 then .nan false
  else .num false (8 + x % 8) ((ex : Int) - 18)

/-- The value of the low bits of a source under an `fcvt` format code (R191). -/
def cvtSource (code x : Nat) : FVal :=
  match code with
  | 0 => f32.value (x % 2 ^ 32)
  | 1 => f16.value (x % 2 ^ 16)
  | 2 => bf16.value (x % 2 ^ 16)
  | 3 => f8e4.value (x % 256)
  | 4 => f8e5.value (x % 256)
  | 5 => ds8Value (x % 256)
  | 6 => st4Value (x % 16)
  | _ => sc8Value (x % 256)

/-- A value converted under an `fcvt` format code (R191). -/
def cvtDest (code : Nat) (rc : Rc) (sat : Bool) (v : FVal) : Nat × Flags :=
  match code with
  | 0 => f32.ofVal rc v
  | 1 => f16.ofVal rc v
  | 2 => bf16.ofVal rc v
  | 3 => toF8 f8e4 rc sat v
  | 4 => toF8 f8e5 rc sat v
  | 5 => toDs8 v
  | 6 => toSt4 v
  | _ => toSc8 rc sat v

/-- A value converted under a format code of R49 (R194). -/
def packDest (fmt : Nat) (rc : Rc) (sat : Bool) (v : FVal) : Nat × Flags :=
  match fmt with
  | 1 => f16.ofVal rc v
  | 2 => bf16.ofVal rc v
  | 3 => toF8 f8e4 rc sat v
  | 4 => toF8 f8e5 rc sat v
  | 5 => toInteger 8 (-128) 127 rc v
  | 6 => toInteger 8 0 255 rc v
  | 7 => toDs8 v
  | 8 => toSt4 v
  | _ => toInteger 4 (-8) 7 rc v

/-- The value of an element under a format code of R49. -/
def packSource (fmt x : Nat) : FVal :=
  match fmt with
  | 1 => f16.value x
  | 2 => bf16.value x
  | 3 => f8e4.value x
  | 4 => f8e5.value x
  | 5 => ofInteger (BitVec.ofNat 8 x).toInt
  | 6 => ofInteger (x : Int)
  | 7 => ds8Value x
  | 8 => st4Value x
  | _ => ofInteger (BitVec.ofNat 4 x).toInt

end Sys2Proof.Machine
end

