-- ==== Sys2Proof/WellFormed.lean ====
section
/-! DEFINITION. Which instructions the encoding admits (R57, R60, R63 to R70 and the entries of the lane opcodes): a
scalar word whose condition, scope and register fields are defined, and a lane word whose mask fields, specifiers,
fn6, md8 and imm32 are those its entry defines. A word that fails these checks raises ILLEGAL. -/

namespace Sys2Proof

/-- What a source position of a lane word holds (R68, R171). -/
inductive SrcKind where
  | none   -- the field must be 0
  | w32
  | w64
  | w128
  | vreg   -- a v register only (R259)
  deriving DecidableEq, Repr

/-- What the d field of a lane word names (R69). -/
inductive DstKind where
  | none   -- the field must be 0
  | w32
  | w64
  | w128
  | mask   -- m1 to m7
  deriving DecidableEq, Repr

/-- How one lane opcode uses its fields: the kinds of d, a, b and c, whether fn6 and md8 hold defined values,
whether imm32 is used without a specifier of 320, and whether the mask fields must be 0 (R67 to R70). -/
structure LaneSpec where
  d       : DstKind := .none
  a       : SrcKind := .none
  b       : SrcKind := .none
  c       : SrcKind := .none
  fn6     : Bool := true
  md8     : Bool := true
  imm     : Bool := false
  uBit    : Bool := false
  noMask  : Bool := false
  deriving DecidableEq, Repr

/-- R68: the specifier of a 32-bit, 64-bit or 128-bit source position. -/
def SrcKind.accepts (k : SrcKind) (f : BitVec 9) : Bool :=
  match k with
  | .none => f.toNat == 0
  | .w32  => f.toNat < 324
  | .w64  => f.toNat < 324 && (decide (256 ≤ f.toNat) || f.toNat % 2 == 0)
  | .w128 => (f.toNat < 256 && f.toNat % 4 == 0) || f.toNat == 323
  | .vreg => f.toNat < 256

/-- R69: the destination field. -/
def DstKind.accepts (k : DstKind) (f : BitVec 9) : Bool :=
  match k with
  | .none => f.toNat == 0
  | .w32  => f.toNat < 256
  | .w64  => f.toNat < 256 && f.toNat % 2 == 0
  | .w128 => f.toNat < 256 && f.toNat % 4 == 0
  | .mask => decide (1 ≤ f.toNat) && f.toNat < 8

/-- R70: a used source position that names specifier 320, so that imm32 may be nonzero. -/
def SrcKind.namesImm (k : SrcKind) (f : BitVec 9) : Bool :=
  match k with
  | .none => false
  | _ => f.toNat == 320

/-- The checks of R67 to R70 that R72 makes at step 2. -/
def LaneSpec.legal (p : LaneSpec) (w : LaneW) : Bool :=
  p.d.accepts w.d && p.a.accepts w.a && p.b.accepts w.b && p.c.accepts w.c && p.fn6 && p.md8
    && (p.imm || p.a.namesImm w.a || p.b.namesImm w.b || p.c.namesImm w.c || w.imm.toNat == 0)
    && (p.uBit || !w.u) && (!p.noMask || (w.msel.toNat == 0 && !w.minv))

-- Subfields of fn6 and md8.

/-- md8[1:0] as a rounding code, the other bits zero (R173). -/
def LaneW.rcOnly (w : LaneW) : Bool := w.md8.toNat < 4
def LaneW.fn0 (w : LaneW) : Bool := w.fn6.toNat == 0
def LaneW.md0 (w : LaneW) : Bool := w.md8.toNat == 0
/-- md8[0] alone may be set. -/
def LaneW.md01 (w : LaneW) : Bool := w.md8.toNat < 2

/-- The memory size code md8[2:0] (R247). -/
def LaneW.size (w : LaneW) : Nat := w.md8.toNat % 8
/-- The memory space code md8[4:3] (R247). -/
def LaneW.space (w : LaneW) : Nat := w.md8.toNat / 8 % 4
/-- The datum register field md8[7:5] (R247). -/
def LaneW.datum (w : LaneW) : Nat := w.md8.toNat / 32

/-- R247: the source position that holds the address. -/
def LaneW.addrKind (w : LaneW) : SrcKind := if w.space == 0 then .w64 else .w32
/-- R247: the source position that holds a datum of the word's size. -/
def LaneW.dataKind (w : LaneW) : SrcKind :=
  match w.size with
  | 3 => .w64
  | 4 => .w128
  | _ => .w32
/-- R247: the destination of a datum of the word's size. -/
def LaneW.dataDst (w : LaneW) : DstKind :=
  match w.size with
  | 3 => .w64
  | 4 => .w128
  | _ => .w32
/-- R247, R249: a nonzero datum field only in space dm. -/
def LaneW.spaceOk (w : LaneW) : Bool := w.space == 1 || w.datum == 0
/-- A scope code of R64 in fn6[2:0]. -/
def LaneW.scopeOk (w : LaneW) : Bool := w.fn6.toNat % 8 < 6

/-- R49, R194: the width in bits of the elements of a pack or unpack format, 0 for a code that is no format. -/
def packWidth (fmt : Nat) : Nat :=
  match fmt with
  | 1 | 2 => 16
  | 3 | 4 | 5 | 6 | 7 => 8
  | 8 | 9 => 4
  | _ => 0

/-- The use of a two-source 32-bit integer form. -/
def spec2 (w : LaneW) (md : Bool) : LaneSpec := { d := .w32, a := .w32, b := .w32, fn6 := w.fn0, md8 := md }
/-- The use of a one-source 32-bit form. -/
def spec1 (w : LaneW) (md : Bool) : LaneSpec := { d := .w32, a := .w32, fn6 := w.fn0, md8 := md }
/-- The use of a three-source 32-bit form. -/
def spec3 (w : LaneW) (md : Bool) : LaneSpec :=
  { d := .w32, a := .w32, b := .w32, c := .w32, fn6 := w.fn0, md8 := md }

/-- The field use of each lane opcode, with its words; `none` for a row that is no lane word. -/
def laneSpec : Instr → Option (LaneW × LaneSpec)
  -- R178
  | .iadd w => some (w, spec2 w (w.md8.toNat < 3))
  | .isub w => some (w, spec2 w (w.md8.toNat < 3))
  | .imul w => some (w, spec2 w w.md0)
  | .imulh w => some (w, spec2 w w.md01)
  | .imad w => some (w, spec3 w w.md0)
  | .imin w => some (w, spec2 w w.md01)
  | .imax w => some (w, spec2 w w.md01)
  | .iabs w => some (w, spec1 w w.md01)
  | .laneAnd w => some (w, spec2 w w.md0)
  | .laneOr w => some (w, spec2 w w.md0)
  | .laneXor w => some (w, spec2 w w.md0)
  | .blut w => some (w, spec3 w true)
  | .laneShl w => some (w, spec2 w w.md0)
  | .laneShr w => some (w, spec2 w w.md0)
  | .laneSar w => some (w, spec2 w w.md0)
  | .laneRol w => some (w, spec2 w w.md0)
  | .lanePopc w => some (w, spec1 w w.md0)
  | .laneClz w => some (w, spec1 w w.md0)
  | .laneBrev w => some (w, spec1 w w.md0)
  | .bfe w => some (w, spec2 w w.md01)
  | .bfi w => some (w, spec3 w w.md0)
  -- R180: fn6[5] = 0, md8[0] selects pairs
  | .isetp w => some (w, { d := .mask, a := if w.md8.toNat == 1 then .w64 else .w32,
                           b := if w.md8.toNat == 1 then .w64 else .w32,
                           fn6 := w.fn6.toNat < 32, md8 := w.md01 })
  -- R181: fn6[5:4] = 0
  | .laneSel w => some (w, { d := .w32, a := .w32, b := .w32, fn6 := w.fn6.toNat < 16, md8 := w.md0 })
  | .mov w => some (w, spec1 w w.md0)
  | .iadd64 w => some (w, { d := .w64, a := .w64, b := .w64, fn6 := w.fn0, md8 := w.md0 })
  | .imul64 w => some (w, { d := .w64, a := .w64, b := .w64, fn6 := w.fn0, md8 := w.md0 })
  | .idiv w => some (w, if w.md8.toNat / 2 % 2 == 1
      then { d := .w64, a := .w64, b := .w64, fn6 := w.fn0, md8 := w.md8.toNat < 4 }
      else spec2 w (w.md8.toNat < 4))
  | .irem w => some (w, if w.md8.toNat / 2 % 2 == 1
      then { d := .w64, a := .w64, b := .w64, fn6 := w.fn0, md8 := w.md8.toNat < 4 }
      else spec2 w (w.md8.toNat < 4))
  | .dot4 w => some (w, spec3 w (w.md8.toNat < 8))
  | .bsel w => some (w, spec3 w w.md0)
  -- R184: md8[7:4] = 0
  | .lea w => some (w, { d := .w64, a := .w64, b := .w32, fn6 := w.fn0, md8 := w.md8.toNat < 16 })
  -- R185 to R190
  | .fadd w => some (w, spec2 w w.rcOnly)
  | .fsub w => some (w, spec2 w w.rcOnly)
  | .fmul w => some (w, spec2 w w.rcOnly)
  | .ffma w => some (w, spec3 w w.rcOnly)
  | .fmin w => some (w, spec2 w w.md0)
  | .fmax w => some (w, spec2 w w.md0)
  | .fsetp w => some (w, { d := .mask, a := .w32, b := .w32, fn6 := w.fn6.toNat < 32, md8 := w.md0 })
  | .fclass w => some (w, spec1 w w.md0)
  | .frcp w => some (w, spec1 w w.rcOnly)
  | .frsq w => some (w, spec1 w w.rcOnly)
  | .fsqrt w => some (w, spec1 w w.rcOnly)
  | .fexp2 w => some (w, spec1 w w.rcOnly)
  | .flog2 w => some (w, spec1 w w.rcOnly)
  | .fsin w => some (w, spec1 w w.rcOnly)
  | .fcos w => some (w, spec1 w w.rcOnly)
  | .fdiv w => some (w, spec2 w w.rcOnly)
  | .pkadd w => some (w, spec2 w (w.md8.toNat < 16))
  | .pkmul w => some (w, spec2 w (w.md8.toNat < 16))
  | .pkfma w => some (w, spec3 w (w.md8.toNat < 16))
  | .pkmnx w => some (w, { d := .w32, a := .w32, b := .w32, fn6 := w.fn6.toNat < 2,
                           md8 := w.md8.toNat < 16 && w.md8.toNat % 4 == 0 })
  -- R191: source and destination codes differ; SAT (md8[2]) only for F8E4, F8E5 and SC8
  | .fcvt w =>
    let dst := w.fn6.toNat % 8
    some (w, { d := .w32, a := .w32, fn6 := w.fn6.toNat / 8 != dst,
               md8 := w.md8.toNat < 4 || (w.md8.toNat < 8 && (dst == 3 || dst == 4 || dst == 7)) })
  -- R192: fn6[5:2] = 0; a 64-bit type uses a pair
  | .f2i w => some (w, { d := if w.fn6.toNat < 2 then .w32 else .w64, a := .w32, fn6 := w.fn6.toNat < 4,
                         md8 := w.rcOnly })
  | .i2f w => some (w, { d := .w32, a := if w.fn6.toNat < 2 then .w32 else .w64, fn6 := w.fn6.toNat < 4,
                         md8 := w.rcOnly })
  -- R193
  | .frnd w => some (w, spec1 w w.rcOnly)
  | .fscale w => some (w, spec2 w w.rcOnly)
  -- R194: fn6[5:4] = 0, the pair position within the word, SAT only for F8E4 and F8E5, md8[7] = 0 and md8[3] = 0
  | .pack w =>
    let f := w.fn6.toNat
    let m := w.md8.toNat
    some (w, { d := .w32, a := .w32, b := .w32, c := .w32, fn6 := packWidth f != 0,
               md8 := m < 128 && m / 8 % 2 == 0 && (m / 4 % 2 == 0 || f == 3 || f == 4)
                 && decide ((m / 16 + 1) * (2 * packWidth f) ≤ 32) })
  -- R195
  | .unpack w =>
    let f := w.fn6.toNat
    let m := w.md8.toNat
    some (w, { d := .w32, a := .w32, fn6 := packWidth f != 0,
               md8 := m < 128 && m % 16 == 0 && decide ((m / 16 + 1) * packWidth f ≤ 32) })
  -- R247 to R257
  | .ld w => some (w, { d := w.dataDst, a := w.addrKind, fn6 := w.fn6.toNat < 16 && w.scopeOk,
                        md8 := w.size != 7 && w.spaceOk, imm := true })
  | .st w => some (w, { a := w.addrKind, b := w.dataKind, fn6 := w.fn6.toNat < 16 && w.scopeOk,
                        md8 := w.size < 5 && w.spaceOk && w.space != 3, imm := true })
  | .atom w => some (w, { d := w.dataDst, a := w.addrKind, b := w.dataKind, fn6 := w.fn6.toNat < 10,
                          md8 := (w.size == 2 || (w.size == 3 && w.fn6.toNat != 9)) && w.spaceOk && w.space != 3,
                          imm := true })
  | .atcas w => some (w, { d := w.dataDst, a := w.addrKind, b := w.dataKind, c := w.dataKind, fn6 := w.fn0,
                           md8 := (w.size == 2 || w.size == 3) && w.spaceOk && w.space != 3, imm := true })
  | .red w => some (w, { a := w.addrKind, b := w.dataKind, fn6 := w.fn6.toNat < 10 && w.fn6.toNat != 8,
                         md8 := (w.size == 2 || (w.size == 3 && w.fn6.toNat != 9)) && w.spaceOk && w.space != 3,
                         imm := true })
  -- R258
  | .fenceL w => some (w, { fn6 := w.fn6.toNat < 32 && w.scopeOk, md8 := w.md0, noMask := true })
  -- R259
  | .send w => some (w, { a := .vreg, fn6 := w.fn6.toNat < 32, md8 := w.md0 })
  | .recv w => some (w, { d := .w32, fn6 := w.fn6.toNat < 32, md8 := w.md8.toNat < 8 })
  -- R263
  | .lsmap w => some (w, { d := .w32, a := .w64, b := .w32, fn6 := w.fn0, md8 := w.md0 && w.imm.toNat == 0 })
  -- R197 to R201
  | .shfl w => some (w, { d := .w32, a := .w32, b := .w32, c := .w32, fn6 := w.fn6.toNat < 4, md8 := w.md0 })
  | .vote w => some (w, { d := .w32, a := .w32, fn6 := w.fn6.toNat < 4, md8 := w.md0 })
  | .ballot w => some (w, spec1 w w.md0)
  | .lmatch w => some (w, { d := .w32, a := if w.md8.toNat == 1 then .w64 else .w32, fn6 := w.fn0, md8 := w.md01 })
  | .redux w => some (w, { d := .w32, a := .w32, fn6 := w.fn6.toNat < 11,
                           md8 := w.md8.toNat == 0 || (w.md8.toNat < 4 && w.fn6.toNat == 8) })
  | .scan w => some (w, { d := .w32, a := .w32, fn6 := w.fn6.toNat < 11,
                          md8 := w.md8.toNat % 16 == 0 && w.md8.toNat < 32
                            || (w.md8.toNat % 16 < 4 && w.md8.toNat < 32 && w.fn6.toNat == 8) })
  | .lid w => some (w, { d := .w32, fn6 := w.fn6.toNat < 3, md8 := w.md0 })
  -- R202 to R207, R264
  | .bra w => some (w, { fn6 := w.fn0, md8 := w.md0, imm := true, uBit := true })
  | .regang w => some (w, { fn6 := w.fn0, md8 := w.md0, uBit := true, noMask := true })
  | .lend w => some (w, { fn6 := w.fn0, md8 := w.md0, noMask := true })
  | .fresume w => some (w, { fn6 := w.fn0, md8 := w.md0, noMask := true })
  | .lnop w => some (w, { fn6 := w.fn0, md8 := w.md0, noMask := true })
  | .evtl w => some (w, { a := .w32, fn6 := w.fn0, md8 := w.md0, imm := w.imm.toNat < 65536 })
  | .ckacc w => some (w, { a := .w32, fn6 := w.fn6.toNat < 4, md8 := w.md01 })
  | .ltrap w => some (w, { fn6 := w.fn0, md8 := w.md0, imm := true, noMask := true })
  -- R317
  | .accld w => some (w, { d := w.dataDst, a := .w32, fn6 := w.fn0,
                           md8 := w.md8.toNat == 2 || w.md8.toNat == 3 || w.md8.toNat == 4, imm := true })
  | .accst w => some (w, { a := .w32, b := w.dataKind, fn6 := w.fn0,
                           md8 := w.md8.toNat == 2 || w.md8.toNat == 3 || w.md8.toNat == 4, imm := true })
  | _ => none

/-- R60, R63, R64, R327, R421: a scalar word's condition, scope, mask and modifier fields and registers. -/
def scalarLegal : Instr → Bool
  | .cmp _ _ k _ => k.toNat < 8
  | .ldqRlx _ _ s _ | .ldqAcq _ _ s _ | .stqRlx _ _ s _ | .stqRel _ _ s _ => s.toNat < 6
  | .fenceAcq s | .fenceRel s | .fenceAcqrel s | .fenceSc s => s.toNat < 6
  | .lmaskWrite _ m => m.toNat != 0
  -- R327: the modifiers of each kind of copy
  | .cpyS2g _ _ u x _ | .cpySct _ _ u x _ => !u && !x
  | .cpyGth _ _ _ x _ | .cpyG2g _ _ _ x _ => !x
  -- R421
  | .thcopy d a => d != a && d.toNat != 0 && a.toNat != 0
  | .collSum _ _ _ s | .collMax _ _ _ s | .collMin _ _ _ s | .collGather _ _ _ s | .collBcast _ _ _ s =>
    decide (2 ≤ s.toNat) && s.toNat < 6
  | _ => true

/-- An instruction the encoding admits. -/
def Instr.wf (i : Instr) : Bool :=
  match laneSpec i with
  | some (w, p) => p.legal w
  | none => scalarLegal i

end Sys2Proof
end

