-- ==== Sys2Proof/Decode.lean ====
section
/-! DEFINITION. The decoders and the encoder: the 32-bit scalar word of R55 to R62, the 96-bit lane word of R65 to
R71 and the two control-core words of R241. Every decoder is total on any bits and rejects a word it does not admit
by the name of what is wrong with it. The encoder stands after them and is written from the same tables. -/

namespace Sys2Proof

/-- Why a word is no instruction. -/
inductive DecodeError where
  /-- A major opcode of R61, or an op8 that R71 leaves empty. -/
  | reservedOpcode
  /-- A sub-operation number that R60 does not list. -/
  | reservedFn
  /-- A field or bit range that must be zero is not (R57, R60). -/
  | nonzeroField
  /-- A condition, scope, mask field, specifier, fn6, md8 or imm32 that the entry does not define (R63, R64, R67 to
  R70). -/
  | badField
  /-- A control-core word outside the two words the spec adds (R241). -/
  | notOurs
  deriving DecidableEq, Repr

-- The fields of a scalar word (R55).

/-- The hold bit. -/
def fH (w : W32) : Bool := w.getLsbD 31
/-- The major opcode. -/
def fOp (w : W32) : BitVec 6 := w.extractLsb' 25 6
def fD (w : W32) : BitVec 6 := w.extractLsb' 19 6
def fA (w : W32) : BitVec 6 := w.extractLsb' 13 6
def fB (w : W32) : BitVec 6 := w.extractLsb' 7 6
def fFn (w : W32) : BitVec 7 := w.extractLsb' 0 7
def fImm13 (w : W32) : BitVec 13 := w.extractLsb' 0 13
def fSz (w : W32) : BitVec 3 := w.extractLsb' 10 3
def fOff10 (w : W32) : BitVec 10 := w.extractLsb' 0 10
def fImm19 (w : W32) : BitVec 19 := w.extractLsb' 0 19

/-- A field that must be zero (R57, R60). -/
def fieldZero (n : Nat) (i : Instr) : Except DecodeError Instr := if n == 0 then .ok i else .error .nonzeroField

/-- R60: major opcode 0x00. -/
def decodeAlu (w : W32) : Except DecodeError Instr :=
  match (fFn w).toNat with
  | 0 => .ok (.add (fD w) (fA w) (fB w))
  | 1 => .ok (.sub (fD w) (fA w) (fB w))
  | 2 => .ok (.and (fD w) (fA w) (fB w))
  | 3 => .ok (.or (fD w) (fA w) (fB w))
  | 4 => .ok (.xor (fD w) (fA w) (fB w))
  | 5 => .ok (.andn (fD w) (fA w) (fB w))
  | 6 => .ok (.shl (fD w) (fA w) (fB w))
  | 7 => .ok (.shr (fD w) (fA w) (fB w))
  | 8 => .ok (.sar (fD w) (fA w) (fB w))
  | 9 => .ok (.rol (fD w) (fA w) (fB w))
  | 10 => .ok (.min (fD w) (fA w) (fB w))
  | 11 => .ok (.max (fD w) (fA w) (fB w))
  | 12 => .ok (.minn (fD w) (fA w) (fB w))
  | 13 => .ok (.maxn (fD w) (fA w) (fB w))
  | 16 => .ok (.mul (fD w) (fA w) (fB w))
  | 17 => .ok (.mulh (fD w) (fA w) (fB w))
  | 18 => .ok (.mulhn (fD w) (fA w) (fB w))
  | 19 => .ok (.div (fD w) (fA w) (fB w))
  | 20 => .ok (.divn (fD w) (fA w) (fB w))
  | 21 => .ok (.rem (fD w) (fA w) (fB w))
  | 22 => .ok (.remn (fD w) (fA w) (fB w))
  | 24 => fieldZero ((w.extractLsb' 7 6).toNat) (.clz (fD w) (fA w))
  | 25 => fieldZero ((w.extractLsb' 7 6).toNat) (.ctz (fD w) (fA w))
  | 26 => fieldZero ((w.extractLsb' 7 6).toNat) (.popc (fD w) (fA w))
  | 27 => fieldZero ((w.extractLsb' 7 6).toNat) (.brev (fD w) (fA w))
  | _ => .error .reservedFn

/-- R60: major opcode 0x01. -/
def decodeCmp (w : W32) : Except DecodeError Instr :=
  fieldZero ((w.extractLsb' 19 6).toNat) (.cmp (fA w) (fB w) (w.extractLsb' 3 4) (w.extractLsb' 0 3))

/-- R60: major opcode 0x02. -/
def decodeAddi (w : W32) : Except DecodeError Instr :=
  .ok (.addi (fD w) (fA w) (fImm13 w))

/-- R60: major opcode 0x03. -/
def decodeAndi (w : W32) : Except DecodeError Instr :=
  .ok (.andi (fD w) (fA w) (fImm13 w))

/-- R60: major opcode 0x04. -/
def decodeOri (w : W32) : Except DecodeError Instr :=
  .ok (.ori (fD w) (fA w) (fImm13 w))

/-- R60: major opcode 0x05. -/
def decodeXori (w : W32) : Except DecodeError Instr :=
  .ok (.xori (fD w) (fA w) (fImm13 w))

/-- R60: major opcode 0x06. -/
def decodeShi (w : W32) : Except DecodeError Instr :=
  match (w.extractLsb' 6 3).toNat with
  | 0 => fieldZero ((w.extractLsb' 9 4).toNat) (.shli (fD w) (fA w) (w.extractLsb' 0 6))
  | 1 => fieldZero ((w.extractLsb' 9 4).toNat) (.shri (fD w) (fA w) (w.extractLsb' 0 6))
  | 2 => fieldZero ((w.extractLsb' 9 4).toNat) (.sari (fD w) (fA w) (w.extractLsb' 0 6))
  | 3 => fieldZero ((w.extractLsb' 9 4).toNat) (.roli (fD w) (fA w) (w.extractLsb' 0 6))
  | _ => .error .reservedFn

/-- R60: major opcode 0x07. -/
def decodeCmpi (w : W32) : Except DecodeError Instr :=
  .ok (.cmpi (w.extractLsb' 22 3) (w.extractLsb' 19 3) (fA w) (fImm13 w))

/-- R60: major opcode 0x08. -/
def decodeMuli (w : W32) : Except DecodeError Instr :=
  .ok (.muli (fD w) (fA w) (fImm13 w))

/-- R60: major opcode 0x09. -/
def decodeLui (w : W32) : Except DecodeError Instr :=
  .ok (.lui (fD w) (fImm19 w))

/-- R60: major opcode 0x0A. -/
def decodeAddpc (w : W32) : Except DecodeError Instr :=
  .ok (.addpc (fD w) (fImm19 w))

/-- R60: major opcode 0x0B. -/
def decodeSel (w : W32) : Except DecodeError Instr :=
  fieldZero ((w.extractLsb' 4 3).toNat) (.sel (fD w) (fA w) (fB w) (w.getLsbD 3) (w.extractLsb' 0 3))

/-- R60: major opcode 0x0C. -/
def decodeCop (w : W32) : Except DecodeError Instr :=
  match (w.extractLsb' 3 4).toNat with
  | 0 => fieldZero ((w.extractLsb' 0 3).toNat + (w.extractLsb' 7 6).toNat + (w.extractLsb' 22 3).toNat) (.cset (w.extractLsb' 19 3) (fA w))
  | 1 => fieldZero ((w.extractLsb' 0 3).toNat + (w.extractLsb' 10 3).toNat + (w.extractLsb' 16 3).toNat + (w.extractLsb' 22 3).toNat) (.cand (w.extractLsb' 19 3) (w.extractLsb' 13 3) (w.extractLsb' 7 3))
  | 2 => fieldZero ((w.extractLsb' 0 3).toNat + (w.extractLsb' 10 3).toNat + (w.extractLsb' 16 3).toNat + (w.extractLsb' 22 3).toNat) (.cor (w.extractLsb' 19 3) (w.extractLsb' 13 3) (w.extractLsb' 7 3))
  | 3 => fieldZero ((w.extractLsb' 0 3).toNat + (w.extractLsb' 10 3).toNat + (w.extractLsb' 16 3).toNat + (w.extractLsb' 22 3).toNat) (.cxor (w.extractLsb' 19 3) (w.extractLsb' 13 3) (w.extractLsb' 7 3))
  | 4 => fieldZero ((w.extractLsb' 0 3).toNat + (w.extractLsb' 7 6).toNat + (w.extractLsb' 16 3).toNat + (w.extractLsb' 22 3).toNat) (.cnot (w.extractLsb' 19 3) (w.extractLsb' 13 3))
  | 5 => fieldZero ((w.extractLsb' 0 3).toNat + (w.extractLsb' 7 6).toNat + (w.extractLsb' 16 3).toNat) (.movc (fD w) (w.extractLsb' 13 3))
  | _ => .error .reservedFn

/-- R60: major opcode 0x10. -/
def decodeBr (w : W32) : Except DecodeError Instr :=
  fieldZero ((w.extractLsb' 19 2).toNat) (.br (w.extractLsb' 22 3) (w.getLsbD 21) (fImm19 w))

/-- R60: major opcode 0x11. -/
def decodeJmp (w : W32) : Except DecodeError Instr :=
  .ok (.jmp (fD w) (fImm19 w))

/-- R60: major opcode 0x12. -/
def decodeJr (w : W32) : Except DecodeError Instr :=
  .ok (.jr (fD w) (fA w) (fImm13 w))

/-- R60: major opcode 0x13. -/
def decodeSys (w : W32) : Except DecodeError Instr :=
  match (fFn w).toNat with
  | 0 => fieldZero ((w.extractLsb' 7 18).toNat) (.nop)
  | 1 => fieldZero ((w.extractLsb' 7 18).toNat) (.exit)
  | 2 => fieldZero ((w.extractLsb' 7 18).toNat) (.yield)
  | 3 => fieldZero ((w.extractLsb' 7 18).toNat) (.bkpt)
  | 4 => fieldZero ((w.extractLsb' 7 6).toNat + (w.extractLsb' 19 6).toNat) (.trap (fA w))
  | 5 => fieldZero ((w.extractLsb' 7 18).toNat) (.tret)
  | 6 => fieldZero ((w.extractLsb' 7 18).toNat) (.idemb)
  | 7 => fieldZero ((w.extractLsb' 7 18).toNat) (.ideme)
  | 8 => fieldZero ((w.extractLsb' 7 18).toNat) (.halt)
  | 9 => fieldZero ((w.extractLsb' 7 18).toNat) (.sleep)
  | _ => .error .reservedFn

/-- R60: major opcode 0x14. -/
def decodeLd (w : W32) : Except DecodeError Instr :=
  match (fSz w).toNat with
  | 0 => .ok (.ldb (fD w) (fA w) (fOff10 w))
  | 1 => .ok (.ldh (fD w) (fA w) (fOff10 w))
  | 2 => .ok (.ldw (fD w) (fA w) (fOff10 w))
  | 3 => .ok (.ldd (fD w) (fA w) (fOff10 w))
  | 4 => .ok (.ldbs (fD w) (fA w) (fOff10 w))
  | 5 => .ok (.ldhs (fD w) (fA w) (fOff10 w))
  | 6 => .ok (.ldws (fD w) (fA w) (fOff10 w))
  | _ => .error .reservedFn

/-- R60: major opcode 0x15. -/
def decodeSt (w : W32) : Except DecodeError Instr :=
  match (fSz w).toNat with
  | 0 => .ok (.stb (fD w) (fA w) (fOff10 w))
  | 1 => .ok (.sth (fD w) (fA w) (fOff10 w))
  | 2 => .ok (.stw (fD w) (fA w) (fOff10 w))
  | 3 => .ok (.std (fD w) (fA w) (fOff10 w))
  | _ => .error .reservedFn

/-- R60: major opcode 0x16. -/
def decodeLdq (w : W32) : Except DecodeError Instr :=
  match (w.extractLsb' 2 2).toNat with
  | 0 => fieldZero ((w.extractLsb' 7 6).toNat) (.ldqRlx (fD w) (fA w) (w.extractLsb' 4 3) (w.extractLsb' 0 2))
  | 1 => fieldZero ((w.extractLsb' 7 6).toNat) (.ldqAcq (fD w) (fA w) (w.extractLsb' 4 3) (w.extractLsb' 0 2))
  | _ => .error .reservedFn

/-- R60: major opcode 0x17. -/
def decodeStq (w : W32) : Except DecodeError Instr :=
  match (w.extractLsb' 2 2).toNat with
  | 0 => fieldZero ((w.extractLsb' 19 6).toNat) (.stqRlx (fA w) (fB w) (w.extractLsb' 4 3) (w.extractLsb' 0 2))
  | 1 => fieldZero ((w.extractLsb' 19 6).toNat) (.stqRel (fA w) (fB w) (w.extractLsb' 4 3) (w.extractLsb' 0 2))
  | _ => .error .reservedFn

/-- R60: major opcode 0x18. -/
def decodeAmo (w : W32) : Except DecodeError Instr :=
  match (w.extractLsb' 0 4).toNat with
  | 0 => fieldZero ((w.extractLsb' 5 2).toNat) (.amoAdd (fD w) (fA w) (fB w) (w.getLsbD 4))
  | 1 => fieldZero ((w.extractLsb' 5 2).toNat) (.amoAnd (fD w) (fA w) (fB w) (w.getLsbD 4))
  | 2 => fieldZero ((w.extractLsb' 5 2).toNat) (.amoOr (fD w) (fA w) (fB w) (w.getLsbD 4))
  | 3 => fieldZero ((w.extractLsb' 5 2).toNat) (.amoXor (fD w) (fA w) (fB w) (w.getLsbD 4))
  | 4 => fieldZero ((w.extractLsb' 5 2).toNat) (.amoMin (fD w) (fA w) (fB w) (w.getLsbD 4))
  | 5 => fieldZero ((w.extractLsb' 5 2).toNat) (.amoMax (fD w) (fA w) (fB w) (w.getLsbD 4))
  | 6 => fieldZero ((w.extractLsb' 5 2).toNat) (.amoMinn (fD w) (fA w) (fB w) (w.getLsbD 4))
  | 7 => fieldZero ((w.extractLsb' 5 2).toNat) (.amoMaxn (fD w) (fA w) (fB w) (w.getLsbD 4))
  | 8 => fieldZero ((w.extractLsb' 5 2).toNat) (.amoSwap (fD w) (fA w) (fB w) (w.getLsbD 4))
  | _ => .error .reservedFn

/-- R60: major opcode 0x19. -/
def decodeCas (w : W32) : Except DecodeError Instr :=
  fieldZero ((w.extractLsb' 1 6).toNat) (.cas (fD w) (fA w) (fB w) (w.getLsbD 0))

/-- R60: major opcode 0x1A. -/
def decodeFence (w : W32) : Except DecodeError Instr :=
  match (w.extractLsb' 3 2).toNat with
  | 0 => fieldZero ((w.extractLsb' 5 20).toNat) (.fenceAcq (w.extractLsb' 0 3))
  | 1 => fieldZero ((w.extractLsb' 5 20).toNat) (.fenceRel (w.extractLsb' 0 3))
  | 2 => fieldZero ((w.extractLsb' 5 20).toNat) (.fenceAcqrel (w.extractLsb' 0 3))
  | 3 => fieldZero ((w.extractLsb' 5 20).toNat) (.fenceSc (w.extractLsb' 0 3))
  | _ => .error .reservedFn

/-- R60: major opcode 0x1B. -/
def decodeLdsp (w : W32) : Except DecodeError Instr :=
  match (fSz w).toNat with
  | 0 => .ok (.ldspB (fD w) (fA w) (fOff10 w))
  | 1 => .ok (.ldspH (fD w) (fA w) (fOff10 w))
  | 2 => .ok (.ldspW (fD w) (fA w) (fOff10 w))
  | 3 => .ok (.ldspD (fD w) (fA w) (fOff10 w))
  | 4 => .ok (.ldspBs (fD w) (fA w) (fOff10 w))
  | 5 => .ok (.ldspHs (fD w) (fA w) (fOff10 w))
  | 6 => .ok (.ldspWs (fD w) (fA w) (fOff10 w))
  | _ => .error .reservedFn

/-- R60: major opcode 0x1C. -/
def decodeStsp (w : W32) : Except DecodeError Instr :=
  match (fSz w).toNat with
  | 0 => .ok (.stspB (fD w) (fA w) (fOff10 w))
  | 1 => .ok (.stspH (fD w) (fA w) (fOff10 w))
  | 2 => .ok (.stspW (fD w) (fA w) (fOff10 w))
  | 3 => .ok (.stspD (fD w) (fA w) (fOff10 w))
  | _ => .error .reservedFn

/-- R60: major opcode 0x1D. -/
def decodeDatum (w : W32) : Except DecodeError Instr :=
  match (w.extractLsb' 0 2).toNat with
  | 0 => fieldZero ((w.extractLsb' 5 8).toNat + (w.extractLsb' 19 6).toNat) (.datumSet (fA w) (w.extractLsb' 2 3))
  | 1 => fieldZero ((w.extractLsb' 5 20).toNat) (.datumClear (w.extractLsb' 2 3))
  | 2 => fieldZero ((w.extractLsb' 5 14).toNat) (.datumQuery (fD w) (w.extractLsb' 2 3))
  | _ => .error .reservedFn

/-- R60: major opcode 0x1E. -/
def decodeGetsr (w : W32) : Except DecodeError Instr :=
  fieldZero ((w.extractLsb' 13 6).toNat) (.getsr (fD w) (fImm13 w))

/-- R60: major opcode 0x1F. -/
def decodeSetsr (w : W32) : Except DecodeError Instr :=
  fieldZero ((w.extractLsb' 19 6).toNat) (.setsr (fA w) (fImm13 w))

/-- R60: major opcode 0x20. -/
def decodeLrun (w : W32) : Except DecodeError Instr :=
  fieldZero ((w.extractLsb' 19 6).toNat) (.lrun (fA w) (fImm13 w))

/-- R60: major opcode 0x21. -/
def decodeLwait (w : W32) : Except DecodeError Instr :=
  fieldZero ((w.extractLsb' 0 13).toNat + (w.extractLsb' 19 6).toNat) (.lwait (fA w))

/-- R60: major opcode 0x22. -/
def decodeLget (w : W32) : Except DecodeError Instr :=
  fieldZero ((w.extractLsb' 13 6).toNat) (.lget (fD w) (w.extractLsb' 5 8) (w.extractLsb' 0 5))

/-- R60: major opcode 0x23. -/
def decodeLset (w : W32) : Except DecodeError Instr :=
  fieldZero ((w.extractLsb' 19 6).toNat) (.lset (fA w) (w.extractLsb' 5 8) (w.extractLsb' 0 5))

/-- R60: major opcode 0x24. -/
def decodeLmask (w : W32) : Except DecodeError Instr :=
  match (w.extractLsb' 3 1).toNat with
  | 0 => fieldZero ((w.extractLsb' 4 15).toNat) (.lmaskRead (fD w) (w.extractLsb' 0 3))
  | 1 => fieldZero ((w.extractLsb' 4 9).toNat + (w.extractLsb' 19 6).toNat) (.lmaskWrite (fA w) (w.extractLsb' 0 3))
  | _ => .error .reservedFn

/-- R60: major opcode 0x28. -/
def decodeMma (w : W32) : Except DecodeError Instr :=
  fieldZero ((w.extractLsb' 0 7).toNat) (.mma (fD w) (fA w) (fB w))

/-- R60: major opcode 0x29. -/
def decodeMgang (w : W32) : Except DecodeError Instr :=
  fieldZero ((w.extractLsb' 0 13).toNat + (w.extractLsb' 19 6).toNat) (.mgang (fA w))

/-- R60: major opcode 0x2A. -/
def decodeMwait (w : W32) : Except DecodeError Instr :=
  fieldZero ((w.extractLsb' 0 13).toNat + (w.extractLsb' 19 6).toNat) (.mwait (fA w))

/-- R60: major opcode 0x2B. -/
def decodeAcc (w : W32) : Except DecodeError Instr :=
  match (fFn w).toNat with
  | 0 => fieldZero ((w.extractLsb' 19 6).toNat) (.accz (fA w) (fB w))
  | 1 => .ok (.accv (fD w) (fA w) (fB w))
  | _ => .error .reservedFn

/-- R60: major opcode 0x2C. -/
def decodeCpy (w : W32) : Except DecodeError Instr :=
  match (w.extractLsb' 0 3).toNat with
  | 0 => fieldZero ((w.extractLsb' 6 7).toNat) (.cpyG2s (fD w) (fA w) (w.getLsbD 5) (w.getLsbD 4) (w.getLsbD 3))
  | 1 => fieldZero ((w.extractLsb' 6 7).toNat) (.cpyS2g (fD w) (fA w) (w.getLsbD 5) (w.getLsbD 4) (w.getLsbD 3))
  | 2 => fieldZero ((w.extractLsb' 6 7).toNat) (.cpyGth (fD w) (fA w) (w.getLsbD 5) (w.getLsbD 4) (w.getLsbD 3))
  | 3 => fieldZero ((w.extractLsb' 6 7).toNat) (.cpySct (fD w) (fA w) (w.getLsbD 5) (w.getLsbD 4) (w.getLsbD 3))
  | 4 => fieldZero ((w.extractLsb' 6 7).toNat) (.cpyG2g (fD w) (fA w) (w.getLsbD 5) (w.getLsbD 4) (w.getLsbD 3))
  | _ => .error .reservedFn

/-- R60: major opcode 0x2D. -/
def decodeCpyw (w : W32) : Except DecodeError Instr :=
  match (w.extractLsb' 0 1).toNat with
  | 0 => fieldZero ((w.extractLsb' 1 12).toNat) (.cpyw (fD w) (fA w))
  | 1 => fieldZero ((w.extractLsb' 1 12).toNat) (.cpywPoll (fD w) (fA w))
  | _ => .error .reservedFn

/-- R60: major opcode 0x2E. -/
def decodeYieldc (w : W32) : Except DecodeError Instr :=
  fieldZero ((w.extractLsb' 19 6).toNat) (.yieldc (fA w) (fImm13 w))

/-- R60: major opcode 0x2F. -/
def decodeColl (w : W32) : Except DecodeError Instr :=
  match (w.extractLsb' 0 3).toNat with
  | 0 => fieldZero ((w.extractLsb' 7 6).toNat) (.collSum (fD w) (fA w) (w.getLsbD 6) (w.extractLsb' 3 3))
  | 1 => fieldZero ((w.extractLsb' 7 6).toNat) (.collMax (fD w) (fA w) (w.getLsbD 6) (w.extractLsb' 3 3))
  | 2 => fieldZero ((w.extractLsb' 7 6).toNat) (.collMin (fD w) (fA w) (w.getLsbD 6) (w.extractLsb' 3 3))
  | 3 => fieldZero ((w.extractLsb' 7 6).toNat) (.collGather (fD w) (fA w) (w.getLsbD 6) (w.extractLsb' 3 3))
  | 4 => fieldZero ((w.extractLsb' 7 6).toNat) (.collBcast (fD w) (fA w) (w.getLsbD 6) (w.extractLsb' 3 3))
  | _ => .error .reservedFn

/-- R60: major opcode 0x30. -/
def decodeBar (w : W32) : Except DecodeError Instr :=
  match (fFn w).toNat with
  | 0 => fieldZero ((w.extractLsb' 19 6).toNat) (.barInit (fA w) (fB w))
  | 1 => fieldZero ((w.extractLsb' 7 6).toNat) (.barArvRlx (fD w) (fA w))
  | 2 => fieldZero ((w.extractLsb' 7 6).toNat) (.barArvRel (fD w) (fA w))
  | 3 => .ok (.barWait (fD w) (fA w) (fB w))
  | 4 => fieldZero ((w.extractLsb' 7 6).toNat) (.barArw (fD w) (fA w))
  | 5 => fieldZero ((w.extractLsb' 7 6).toNat + (w.extractLsb' 19 6).toNat) (.barArvx (fA w))
  | 6 => fieldZero ((w.extractLsb' 7 6).toNat) (.barQuery (fD w) (fA w))
  | _ => .error .reservedFn

/-- R60: major opcode 0x31. -/
def decodePlumb (w : W32) : Except DecodeError Instr :=
  match (fFn w).toNat with
  | 0 => .ok (.plst (fD w) (fA w) (fB w))
  | 1 => .ok (.plamoAdd (fD w) (fA w) (fB w))
  | 2 => .ok (.plamoMax (fD w) (fA w) (fB w))
  | 3 => .ok (.plamoCas (fD w) (fA w) (fB w))
  | 4 => fieldZero ((w.extractLsb' 7 18).toNat) (.plfence)
  | 5 => fieldZero ((w.extractLsb' 7 18).toNat) (.plwait)
  | 6 => fieldZero ((w.extractLsb' 7 12).toNat) (.plsync (fD w))
  | _ => .error .reservedFn

/-- R60: major opcode 0x32. -/
def decodeTh (w : W32) : Except DecodeError Instr :=
  match (fFn w).toNat with
  | 0 => .ok (.thnew (fD w) (fA w) (fB w))
  | 1 => fieldZero ((w.extractLsb' 7 6).toNat) (.thcopy (fD w) (fA w))
  | 2 => fieldZero ((w.extractLsb' 7 6).toNat + (w.extractLsb' 19 6).toNat) (.thdrop (fA w))
  | 3 => fieldZero ((w.extractLsb' 19 6).toNat) (.thbind (fA w) (fB w))
  | 4 => fieldZero ((w.extractLsb' 7 6).toNat) (.tver (fD w) (fA w))
  | 5 => .ok (.thinfo (fD w) (fA w) (fB w))
  | _ => .error .reservedFn

/-- R60: major opcode 0x33. -/
def decodeCk (w : W32) : Except DecodeError Instr :=
  match (fFn w).toNat with
  | 0 => fieldZero ((w.extractLsb' 7 12).toNat + (w.extractLsb' 21 4).toNat) (.ckclr (w.extractLsb' 19 2))
  | 1 => fieldZero ((w.extractLsb' 7 6).toNat + (w.extractLsb' 15 4).toNat) (.ckrd (fD w) (w.extractLsb' 13 2))
  | 2 => fieldZero ((w.extractLsb' 7 6).toNat + (w.extractLsb' 19 6).toNat) (.ckchk (fA w))
  | 3 => fieldZero ((w.extractLsb' 7 6).toNat + (w.extractLsb' 21 4).toNat) (.ckadd (w.extractLsb' 19 2) (fA w))
  | _ => .error .reservedFn

/-- R60: major opcode 0x34. -/
def decodeGrid (w : W32) : Except DecodeError Instr :=
  match (fFn w).toNat with
  | 0 => fieldZero ((w.extractLsb' 7 6).toNat) (.launch (fD w) (fA w))
  | 1 => fieldZero ((w.extractLsb' 7 6).toNat) (.gwait (fD w) (fA w))
  | 2 => fieldZero ((w.extractLsb' 7 6).toNat) (.gquery (fD w) (fA w))
  | _ => .error .reservedFn

/-- R60: major opcode 0x35. -/
def decodeRole (w : W32) : Except DecodeError Instr :=
  match (fFn w).toNat with
  | 0 => fieldZero ((w.extractLsb' 7 6).toNat + (w.extractLsb' 19 6).toNat) (.rolesw (fA w))
  | 1 => fieldZero ((w.extractLsb' 7 6).toNat) (.roleq (fD w) (fA w))
  | _ => .error .reservedFn

/-- R60: major opcode 0x36. -/
def decodeEvt (w : W32) : Except DecodeError Instr :=
  match (fFn w).toNat with
  | 0 => fieldZero ((w.extractLsb' 19 6).toNat) (.evt (fA w) (fB w))
  | 1 => .ok (.tarm (fD w) (fA w) (fB w))
  | 2 => fieldZero ((w.extractLsb' 7 6).toNat) (.tdisarm (fD w) (fA w))
  | _ => .error .reservedFn

/-- R60: major opcode 0x37. -/
def decodeSeal (w : W32) : Except DecodeError Instr :=
  match (fFn w).toNat with
  | 0 => .ok (.sopen (fD w) (fA w) (fB w))
  | 1 => .ok (.sadd (fD w) (fA w) (fB w))
  | 2 => fieldZero ((w.extractLsb' 7 6).toNat) (.sclose (fD w) (fA w))
  | _ => .error .reservedFn

/-- R59, R61: the family of the major opcode. -/
def decodeFamily (w : W32) : Except DecodeError Instr :=
  match (fOp w).toNat with
  | 0 => decodeAlu w
  | 1 => decodeCmp w
  | 2 => decodeAddi w
  | 3 => decodeAndi w
  | 4 => decodeOri w
  | 5 => decodeXori w
  | 6 => decodeShi w
  | 7 => decodeCmpi w
  | 8 => decodeMuli w
  | 9 => decodeLui w
  | 10 => decodeAddpc w
  | 11 => decodeSel w
  | 12 => decodeCop w
  | 16 => decodeBr w
  | 17 => decodeJmp w
  | 18 => decodeJr w
  | 19 => decodeSys w
  | 20 => decodeLd w
  | 21 => decodeSt w
  | 22 => decodeLdq w
  | 23 => decodeStq w
  | 24 => decodeAmo w
  | 25 => decodeCas w
  | 26 => decodeFence w
  | 27 => decodeLdsp w
  | 28 => decodeStsp w
  | 29 => decodeDatum w
  | 30 => decodeGetsr w
  | 31 => decodeSetsr w
  | 32 => decodeLrun w
  | 33 => decodeLwait w
  | 34 => decodeLget w
  | 35 => decodeLset w
  | 36 => decodeLmask w
  | 40 => decodeMma w
  | 41 => decodeMgang w
  | 42 => decodeMwait w
  | 43 => decodeAcc w
  | 44 => decodeCpy w
  | 45 => decodeCpyw w
  | 46 => decodeYieldc w
  | 47 => decodeColl w
  | 48 => decodeBar w
  | 49 => decodePlumb w
  | 50 => decodeTh w
  | 51 => decodeCk w
  | 52 => decodeGrid w
  | 53 => decodeRole w
  | 54 => decodeEvt w
  | 55 => decodeSeal w
  | _ => .error .reservedOpcode

/-- An instruction that meets the checks of WellFormed.lean. -/
def checked (r : Except DecodeError Instr) : Except DecodeError Instr :=
  match r with
  | .ok i => if i.wf then .ok i else .error .badField
  | .error e => .error e

/-- A scalar word (R55 to R64). -/
def decodeScalar (w : W32) : Except DecodeError Instr := checked (decodeFamily w)

-- The lane word (R65).

/-- The hold bit of a lane word. -/
def laneHold (w : BitVec 96) : Bool := w.getLsbD 95

/-- The fields of a lane word other than the hold bit and op8. -/
def laneFields (w : BitVec 96) : LaneW where
  u := w.getLsbD 94
  msel := w.extractLsb' 83 3
  minv := w.getLsbD 82
  d := w.extractLsb' 73 9
  a := w.extractLsb' 64 9
  b := w.extractLsb' 55 9
  c := w.extractLsb' 46 9
  fn6 := w.extractLsb' 40 6
  md8 := w.extractLsb' 32 8
  imm := w.extractLsb' 0 32

/-- The op8 of a lane word. -/
def laneOp (w : BitVec 96) : BitVec 8 := w.extractLsb' 86 8

/-- R71: the opcode that op8 names. -/
def laneInstr (op : Nat) (w : LaneW) : Except DecodeError Instr :=
  match op with
  | 0x00 => .ok (.iadd w)
  | 0x01 => .ok (.isub w)
  | 0x02 => .ok (.imul w)
  | 0x03 => .ok (.imulh w)
  | 0x04 => .ok (.imad w)
  | 0x05 => .ok (.imin w)
  | 0x06 => .ok (.imax w)
  | 0x07 => .ok (.iabs w)
  | 0x08 => .ok (.laneAnd w)
  | 0x09 => .ok (.laneOr w)
  | 0x0A => .ok (.laneXor w)
  | 0x0B => .ok (.blut w)
  | 0x0C => .ok (.laneShl w)
  | 0x0D => .ok (.laneShr w)
  | 0x0E => .ok (.laneSar w)
  | 0x0F => .ok (.laneRol w)
  | 0x10 => .ok (.lanePopc w)
  | 0x11 => .ok (.laneClz w)
  | 0x12 => .ok (.laneBrev w)
  | 0x13 => .ok (.bfe w)
  | 0x14 => .ok (.bfi w)
  | 0x15 => .ok (.isetp w)
  | 0x16 => .ok (.laneSel w)
  | 0x17 => .ok (.mov w)
  | 0x18 => .ok (.iadd64 w)
  | 0x19 => .ok (.imul64 w)
  | 0x1A => .ok (.idiv w)
  | 0x1B => .ok (.irem w)
  | 0x1C => .ok (.dot4 w)
  | 0x1D => .ok (.bsel w)
  | 0x1E => .ok (.lea w)
  | 0x20 => .ok (.fadd w)
  | 0x21 => .ok (.fsub w)
  | 0x22 => .ok (.fmul w)
  | 0x23 => .ok (.ffma w)
  | 0x24 => .ok (.fmin w)
  | 0x25 => .ok (.fmax w)
  | 0x26 => .ok (.fsetp w)
  | 0x27 => .ok (.fclass w)
  | 0x28 => .ok (.frcp w)
  | 0x29 => .ok (.frsq w)
  | 0x2A => .ok (.fsqrt w)
  | 0x2B => .ok (.fexp2 w)
  | 0x2C => .ok (.flog2 w)
  | 0x2D => .ok (.fsin w)
  | 0x2E => .ok (.fcos w)
  | 0x2F => .ok (.fdiv w)
  | 0x30 => .ok (.pkadd w)
  | 0x31 => .ok (.pkmul w)
  | 0x32 => .ok (.pkfma w)
  | 0x33 => .ok (.pkmnx w)
  | 0x34 => .ok (.fcvt w)
  | 0x35 => .ok (.f2i w)
  | 0x36 => .ok (.i2f w)
  | 0x37 => .ok (.frnd w)
  | 0x38 => .ok (.fscale w)
  | 0x39 => .ok (.pack w)
  | 0x3A => .ok (.unpack w)
  | 0x40 => .ok (.ld w)
  | 0x41 => .ok (.st w)
  | 0x42 => .ok (.atom w)
  | 0x43 => .ok (.atcas w)
  | 0x44 => .ok (.red w)
  | 0x45 => .ok (.fenceL w)
  | 0x46 => .ok (.send w)
  | 0x47 => .ok (.recv w)
  | 0x48 => .ok (.lsmap w)
  | 0x50 => .ok (.shfl w)
  | 0x51 => .ok (.vote w)
  | 0x52 => .ok (.ballot w)
  | 0x53 => .ok (.lmatch w)
  | 0x54 => .ok (.redux w)
  | 0x55 => .ok (.scan w)
  | 0x56 => .ok (.lid w)
  | 0x60 => .ok (.bra w)
  | 0x61 => .ok (.regang w)
  | 0x62 => .ok (.lend w)
  | 0x63 => .ok (.fresume w)
  | 0x64 => .ok (.lnop w)
  | 0x65 => .ok (.evtl w)
  | 0x66 => .ok (.ckacc w)
  | 0x67 => .ok (.ltrap w)
  | 0x70 => .ok (.accld w)
  | 0x71 => .ok (.accst w)
  | _ => .error .reservedOpcode

/-- A lane word (R65 to R71). -/
def decodeLane (w : BitVec 96) : Except DecodeError Instr := checked (laneInstr (laneOp w).toNat (laneFields w))

/-- A control-core word (R241): an R-type word with opcode 0b000_1011 and funct7 0, funct3 0 for `dtlbi`, whose rd is
0, and funct3 1 for `dtlbf`, whose register fields are 0 as the opcode table fixes them. -/
def decodeHart (w : W32) : Except DecodeError Instr :=
  if w.extractLsb' 0 7 != 0x0B#7 then .error .notOurs
  else if w.extractLsb' 25 7 != 0#7 || w.extractLsb' 7 5 != 0#5 then .error .reservedFn
  else if w.extractLsb' 12 3 == 0#3 then .ok (.dtlbi (w.extractLsb' 20 5) (w.extractLsb' 15 5))
  else if w.extractLsb' 12 3 == 1#3 then
    if w.extractLsb' 15 10 == 0#10 then .ok .dtlbf else .error .nonzeroField
  else .error .reservedFn

/-- The word that holds `bytes` in little-endian order, byte 0 lowest (R4). -/
def wordOfBytes (bytes : List Byte) : Nat := bytes.foldr (fun b n => b.toNat + 256 * n) 0

/-- The instruction the decoder reads from an instruction whose bits are `w`, numbered as the opcode table numbers
them; its hold bit is bit 31 or bit 95 of `w`. A 32-bit row may be a scalar word or a control-core word: the two control-core encodings share their bits with
scalar words that have other meanings on the scalar stream, so the exact word of `dtlbf`, and a word of `dtlbi` that
names a register, are read as the control core reads them and every other 32-bit word as the scalar stream reads it
(DESIGN CHOICE, log entry 9: the table gives one numbering for both fetchers). -/
def decodeTableWord (nbits w : Nat) : Option Instr :=
  if nbits == 32 then
    let v : W32 := BitVec.ofNat 32 w
    let r := if v == 0x0000100B#32 then decodeHart v
      else if v &&& 0xFE007FFF#32 == 0x0000000B#32 && v.extractLsb' 15 10 != 0#10 then decodeHart v
      else decodeScalar v
    r.toOption
  else if nbits == 96 then (decodeLane (BitVec.ofNat 96 w)).toOption
  else none

-- The encoder.

/-- The SR format of R55, which every other scalar format is a regrouping of. -/
def srWord (h : Bool) (op d a b : BitVec 6) (fn : BitVec 7) : W32 :=
  BitVec.ofBool h ++ op ++ d ++ a ++ b ++ fn
/-- The SI format. -/
def siWord (h : Bool) (op d a : BitVec 6) (i : BitVec 13) : W32 := BitVec.ofBool h ++ op ++ d ++ a ++ i
/-- The SM format. -/
def smWord (h : Bool) (op d a : BitVec 6) (sz : BitVec 3) (o : BitVec 10) : W32 :=
  BitVec.ofBool h ++ op ++ d ++ a ++ sz ++ o
/-- The SL and SJ formats. -/
def slWord (h : Bool) (op d : BitVec 6) (i : BitVec 19) : W32 := BitVec.ofBool h ++ op ++ d ++ i
/-- The SB format. -/
def sbWord (h : Bool) (op : BitVec 6) (c : BitVec 3) (n : Bool) (o : BitVec 19) : W32 :=
  BitVec.ofBool h ++ op ++ c ++ BitVec.ofBool n ++ 0#2 ++ o

/-- The lane word of R65. -/
def laneBits (h : Bool) (op : BitVec 8) (w : LaneW) : BitVec 96 :=
  BitVec.ofBool h ++ BitVec.ofBool w.u ++ op ++ w.msel ++ BitVec.ofBool w.minv ++ w.d ++ w.a ++ w.b ++ w.c
    ++ w.fn6 ++ w.md8 ++ w.imm

/-- The word of a scalar or control-core instruction with hold bit `h`, 0 for a row that has none. -/
def encodeWord (h : Bool) : Instr → W32
  | .add d a b => srWord h 0 d a b 0
  | .sub d a b => srWord h 0 d a b 1
  | .and d a b => srWord h 0 d a b 2
  | .or d a b => srWord h 0 d a b 3
  | .xor d a b => srWord h 0 d a b 4
  | .andn d a b => srWord h 0 d a b 5
  | .shl d a b => srWord h 0 d a b 6
  | .shr d a b => srWord h 0 d a b 7
  | .sar d a b => srWord h 0 d a b 8
  | .rol d a b => srWord h 0 d a b 9
  | .min d a b => srWord h 0 d a b 10
  | .max d a b => srWord h 0 d a b 11
  | .minn d a b => srWord h 0 d a b 12
  | .maxn d a b => srWord h 0 d a b 13
  | .mul d a b => srWord h 0 d a b 16
  | .mulh d a b => srWord h 0 d a b 17
  | .mulhn d a b => srWord h 0 d a b 18
  | .div d a b => srWord h 0 d a b 19
  | .divn d a b => srWord h 0 d a b 20
  | .rem d a b => srWord h 0 d a b 21
  | .remn d a b => srWord h 0 d a b 22
  | .clz d a => srWord h 0 d a 0 24
  | .ctz d a => srWord h 0 d a 0 25
  | .popc d a => srWord h 0 d a 0 26
  | .brev d a => srWord h 0 d a 0 27
  | .cmp a b k c => srWord h 1 0 a b (k ++ c)
  | .addi d a i => siWord h 2 d a i
  | .andi d a i => siWord h 3 d a i
  | .ori d a i => siWord h 4 d a i
  | .xori d a i => siWord h 5 d a i
  | .shli d a n => srWord h 6 d a 0 (0#1 ++ n)
  | .shri d a n => srWord h 6 d a 0 (1#1 ++ n)
  | .sari d a n => srWord h 6 d a 1 (0#1 ++ n)
  | .roli d a n => srWord h 6 d a 1 (1#1 ++ n)
  | .cmpi k c a i => siWord h 7 (k ++ c) a i
  | .muli d a i => siWord h 8 d a i
  | .lui d i => slWord h 9 d i
  | .addpc d i => slWord h 10 d i
  | .sel d a b n c => srWord h 11 d a b (0#3 ++ BitVec.ofBool n ++ c)
  | .cset d a => srWord h 12 (0#3 ++ d) a 0 0
  | .cand d a b => srWord h 12 (0#3 ++ d) (0#3 ++ a) (0#3 ++ b) 8
  | .cor d a b => srWord h 12 (0#3 ++ d) (0#3 ++ a) (0#3 ++ b) 16
  | .cxor d a b => srWord h 12 (0#3 ++ d) (0#3 ++ a) (0#3 ++ b) 24
  | .cnot d a => srWord h 12 (0#3 ++ d) (0#3 ++ a) 0 32
  | .movc d a => srWord h 12 d (0#3 ++ a) 0 40
  | .br c n o => sbWord h 16 c n o
  | .jmp d o => slWord h 17 d o
  | .jr d a i => siWord h 18 d a i
  | .nop => srWord h 19 0 0 0 0
  | .exit => srWord h 19 0 0 0 1
  | .yield => srWord h 19 0 0 0 2
  | .bkpt => srWord h 19 0 0 0 3
  | .trap a => srWord h 19 0 a 0 4
  | .tret => srWord h 19 0 0 0 5
  | .idemb => srWord h 19 0 0 0 6
  | .ideme => srWord h 19 0 0 0 7
  | .halt => srWord h 19 0 0 0 8
  | .sleep => srWord h 19 0 0 0 9
  | .ldb d a o => smWord h 20 d a 0 o
  | .ldh d a o => smWord h 20 d a 1 o
  | .ldw d a o => smWord h 20 d a 2 o
  | .ldd d a o => smWord h 20 d a 3 o
  | .ldbs d a o => smWord h 20 d a 4 o
  | .ldhs d a o => smWord h 20 d a 5 o
  | .ldws d a o => smWord h 20 d a 6 o
  | .stb d a o => smWord h 21 d a 0 o
  | .sth d a o => smWord h 21 d a 1 o
  | .stw d a o => smWord h 21 d a 2 o
  | .std d a o => smWord h 21 d a 3 o
  | .ldqRlx d a s z => srWord h 22 d a 0 (s ++ 0#2 ++ z)
  | .ldqAcq d a s z => srWord h 22 d a 0 (s ++ 1#2 ++ z)
  | .stqRlx a b s z => srWord h 23 0 a b (s ++ 0#2 ++ z)
  | .stqRel a b s z => srWord h 23 0 a b (s ++ 1#2 ++ z)
  | .amoAdd d a b w => srWord h 24 d a b (0#2 ++ BitVec.ofBool w ++ 0#4)
  | .amoAnd d a b w => srWord h 24 d a b (0#2 ++ BitVec.ofBool w ++ 1#4)
  | .amoOr d a b w => srWord h 24 d a b (0#2 ++ BitVec.ofBool w ++ 2#4)
  | .amoXor d a b w => srWord h 24 d a b (0#2 ++ BitVec.ofBool w ++ 3#4)
  | .amoMin d a b w => srWord h 24 d a b (0#2 ++ BitVec.ofBool w ++ 4#4)
  | .amoMax d a b w => srWord h 24 d a b (0#2 ++ BitVec.ofBool w ++ 5#4)
  | .amoMinn d a b w => srWord h 24 d a b (0#2 ++ BitVec.ofBool w ++ 6#4)
  | .amoMaxn d a b w => srWord h 24 d a b (0#2 ++ BitVec.ofBool w ++ 7#4)
  | .amoSwap d a b w => srWord h 24 d a b (0#2 ++ BitVec.ofBool w ++ 8#4)
  | .cas d a b w => srWord h 25 d a b (0#6 ++ BitVec.ofBool w)
  | .fenceAcq s => srWord h 26 0 0 0 (0#4 ++ s)
  | .fenceRel s => srWord h 26 0 0 0 (1#4 ++ s)
  | .fenceAcqrel s => srWord h 26 0 0 0 (2#4 ++ s)
  | .fenceSc s => srWord h 26 0 0 0 (3#4 ++ s)
  | .ldspB d a o => smWord h 27 d a 0 o
  | .ldspH d a o => smWord h 27 d a 1 o
  | .ldspW d a o => smWord h 27 d a 2 o
  | .ldspD d a o => smWord h 27 d a 3 o
  | .ldspBs d a o => smWord h 27 d a 4 o
  | .ldspHs d a o => smWord h 27 d a 5 o
  | .ldspWs d a o => smWord h 27 d a 6 o
  | .stspB d a o => smWord h 28 d a 0 o
  | .stspH d a o => smWord h 28 d a 1 o
  | .stspW d a o => smWord h 28 d a 2 o
  | .stspD d a o => smWord h 28 d a 3 o
  | .datumSet a n => srWord h 29 0 a 0 (0#2 ++ n ++ 0#2)
  | .datumClear n => srWord h 29 0 0 0 (0#2 ++ n ++ 1#2)
  | .datumQuery d n => srWord h 29 d 0 0 (0#2 ++ n ++ 2#2)
  | .getsr d i => siWord h 30 d 0 i
  | .setsr a i => siWord h 31 0 a i
  | .lrun a i => siWord h 32 0 a i
  | .lwait a => srWord h 33 0 a 0 0
  | .lget d v l => siWord h 34 d 0 (v ++ l)
  | .lset a v l => siWord h 35 0 a (v ++ l)
  | .lmaskRead d m => srWord h 36 d 0 0 (0#4 ++ m)
  | .lmaskWrite a m => srWord h 36 0 a 0 (1#4 ++ m)
  | .mma d a b => srWord h 40 d a b 0
  | .mgang a => srWord h 41 0 a 0 0
  | .mwait a => srWord h 42 0 a 0 0
  | .accz a b => srWord h 43 0 a b 0
  | .accv d a b => srWord h 43 d a b 1
  | .cpyG2s d a u x l => srWord h 44 d a 0 (0#1 ++ BitVec.ofBool u ++ BitVec.ofBool x ++ BitVec.ofBool l ++ 0#3)
  | .cpyS2g d a u x l => srWord h 44 d a 0 (0#1 ++ BitVec.ofBool u ++ BitVec.ofBool x ++ BitVec.ofBool l ++ 1#3)
  | .cpyGth d a u x l => srWord h 44 d a 0 (0#1 ++ BitVec.ofBool u ++ BitVec.ofBool x ++ BitVec.ofBool l ++ 2#3)
  | .cpySct d a u x l => srWord h 44 d a 0 (0#1 ++ BitVec.ofBool u ++ BitVec.ofBool x ++ BitVec.ofBool l ++ 3#3)
  | .cpyG2g d a u x l => srWord h 44 d a 0 (0#1 ++ BitVec.ofBool u ++ BitVec.ofBool x ++ BitVec.ofBool l ++ 4#3)
  | .cpyw d a => srWord h 45 d a 0 0
  | .cpywPoll d a => srWord h 45 d a 0 1
  | .yieldc a i => siWord h 46 0 a i
  | .collSum d a t s => srWord h 47 d a 0 (BitVec.ofBool t ++ s ++ 0#3)
  | .collMax d a t s => srWord h 47 d a 0 (BitVec.ofBool t ++ s ++ 1#3)
  | .collMin d a t s => srWord h 47 d a 0 (BitVec.ofBool t ++ s ++ 2#3)
  | .collGather d a t s => srWord h 47 d a 0 (BitVec.ofBool t ++ s ++ 3#3)
  | .collBcast d a t s => srWord h 47 d a 0 (BitVec.ofBool t ++ s ++ 4#3)
  | .barInit a b => srWord h 48 0 a b 0
  | .barArvRlx d a => srWord h 48 d a 0 1
  | .barArvRel d a => srWord h 48 d a 0 2
  | .barWait d a b => srWord h 48 d a b 3
  | .barArw d a => srWord h 48 d a 0 4
  | .barArvx a => srWord h 48 0 a 0 5
  | .barQuery d a => srWord h 48 d a 0 6
  | .plst d a b => srWord h 49 d a b 0
  | .plamoAdd d a b => srWord h 49 d a b 1
  | .plamoMax d a b => srWord h 49 d a b 2
  | .plamoCas d a b => srWord h 49 d a b 3
  | .plfence => srWord h 49 0 0 0 4
  | .plwait => srWord h 49 0 0 0 5
  | .plsync d => srWord h 49 d 0 0 6
  | .thnew d a b => srWord h 50 d a b 0
  | .thcopy d a => srWord h 50 d a 0 1
  | .thdrop a => srWord h 50 0 a 0 2
  | .thbind a b => srWord h 50 0 a b 3
  | .tver d a => srWord h 50 d a 0 4
  | .thinfo d a b => srWord h 50 d a b 5
  | .ckclr k => srWord h 51 (0#4 ++ k) 0 0 0
  | .ckrd d k => srWord h 51 d (0#4 ++ k) 0 1
  | .ckchk a => srWord h 51 0 a 0 2
  | .ckadd k a => srWord h 51 (0#4 ++ k) a 0 3
  | .launch d a => srWord h 52 d a 0 0
  | .gwait d a => srWord h 52 d a 0 1
  | .gquery d a => srWord h 52 d a 0 2
  | .rolesw a => srWord h 53 0 a 0 0
  | .roleq d a => srWord h 53 d a 0 1
  | .evt a b => srWord h 54 0 a b 0
  | .tarm d a b => srWord h 54 d a b 1
  | .tdisarm d a => srWord h 54 d a 0 2
  | .sopen d a b => srWord h 55 d a b 0
  | .sadd d a b => srWord h 55 d a b 1
  | .sclose d a => srWord h 55 d a 0 2
  | .dtlbi b a => 0#7 ++ b ++ a ++ 0#3 ++ 0#5 ++ 0x0B#7
  | .dtlbf => 0x0000100B#32
  | _ => 0

/-- R71: the op8 of a lane instruction, none for another row. -/
def opOf : Instr → Option (BitVec 8)
  | .iadd _ => some 0x00
  | .isub _ => some 0x01
  | .imul _ => some 0x02
  | .imulh _ => some 0x03
  | .imad _ => some 0x04
  | .imin _ => some 0x05
  | .imax _ => some 0x06
  | .iabs _ => some 0x07
  | .laneAnd _ => some 0x08
  | .laneOr _ => some 0x09
  | .laneXor _ => some 0x0A
  | .blut _ => some 0x0B
  | .laneShl _ => some 0x0C
  | .laneShr _ => some 0x0D
  | .laneSar _ => some 0x0E
  | .laneRol _ => some 0x0F
  | .lanePopc _ => some 0x10
  | .laneClz _ => some 0x11
  | .laneBrev _ => some 0x12
  | .bfe _ => some 0x13
  | .bfi _ => some 0x14
  | .isetp _ => some 0x15
  | .laneSel _ => some 0x16
  | .mov _ => some 0x17
  | .iadd64 _ => some 0x18
  | .imul64 _ => some 0x19
  | .idiv _ => some 0x1A
  | .irem _ => some 0x1B
  | .dot4 _ => some 0x1C
  | .bsel _ => some 0x1D
  | .lea _ => some 0x1E
  | .fadd _ => some 0x20
  | .fsub _ => some 0x21
  | .fmul _ => some 0x22
  | .ffma _ => some 0x23
  | .fmin _ => some 0x24
  | .fmax _ => some 0x25
  | .fsetp _ => some 0x26
  | .fclass _ => some 0x27
  | .frcp _ => some 0x28
  | .frsq _ => some 0x29
  | .fsqrt _ => some 0x2A
  | .fexp2 _ => some 0x2B
  | .flog2 _ => some 0x2C
  | .fsin _ => some 0x2D
  | .fcos _ => some 0x2E
  | .fdiv _ => some 0x2F
  | .pkadd _ => some 0x30
  | .pkmul _ => some 0x31
  | .pkfma _ => some 0x32
  | .pkmnx _ => some 0x33
  | .fcvt _ => some 0x34
  | .f2i _ => some 0x35
  | .i2f _ => some 0x36
  | .frnd _ => some 0x37
  | .fscale _ => some 0x38
  | .pack _ => some 0x39
  | .unpack _ => some 0x3A
  | .ld _ => some 0x40
  | .st _ => some 0x41
  | .atom _ => some 0x42
  | .atcas _ => some 0x43
  | .red _ => some 0x44
  | .fenceL _ => some 0x45
  | .send _ => some 0x46
  | .recv _ => some 0x47
  | .lsmap _ => some 0x48
  | .shfl _ => some 0x50
  | .vote _ => some 0x51
  | .ballot _ => some 0x52
  | .lmatch _ => some 0x53
  | .redux _ => some 0x54
  | .scan _ => some 0x55
  | .lid _ => some 0x56
  | .bra _ => some 0x60
  | .regang _ => some 0x61
  | .lend _ => some 0x62
  | .fresume _ => some 0x63
  | .lnop _ => some 0x64
  | .evtl _ => some 0x65
  | .ckacc _ => some 0x66
  | .ltrap _ => some 0x67
  | .accld _ => some 0x70
  | .accst _ => some 0x71
  | _ => none

/-- The words of an instruction with hold bit `h` at ascending addresses: the three parcels of a lane word (R65), one word for a scalar
or control-core instruction, and none for a step that has no word. -/
def encode (h : Bool) (i : Instr) : List W32 :=
  match laneSpec i, opOf i with
  | some (w, _), some op =>
    let v := laneBits h op w
    [v.extractLsb' 0 32, v.extractLsb' 32 32, v.extractLsb' 64 32]
  | _, _ => if encodable i then [encodeWord h i] else []
where
  /-- A row with a 32-bit word. -/
  encodable : Instr → Bool
    | .scalarResultWrite .. | .laneResultWrite .. | .holdParkComplete .. | .laneHoldComplete .. | .trapEntry .. | .laneTrapEntry ..
    | .asyncCauseTaken .. | .walkComplete .. | .heldPteReread .. | .heldPteTimeout .. | .firstTouch .. | .regangRelease ..
    | .blockAppend .. | .blockStart .. | .blockEnd .. | .lwaitComplete .. | .laneStateWaitEnd .. | .groupRetire ..
    | .sleepEnd .. | .fenceParkComplete .. | .haltStop .. | .roleswComplete .. | .idembSnapshot .. | .idemeComplete ..
    | .storeQueueDrain .. | .scAccessComplete .. | .homeRequest .. | .nearCacheReplacement .. | .sendSlotWrite .. | .recvDelivery ..
    | .barWaitRelease .. | .barArvxAcknowledge .. | .rendezvous .. | .latchTimeout .. | .mmaAccept .. | .mmaPartComplete ..
    | .mwaitComplete .. | .copyStart .. | .copyDone .. | .cpywComplete .. | .yieldcContinuation .. | .collectiveComplete ..
    | .collectiveTimeout .. | .teamPlacement .. | .waitClockExpiry .. | .gridComplete .. | .gwaitComplete .. | .thReturnApply ..
    | .tensorUnitAnswer .. | .tarmAnswer .. | .plumbSlot .. | .plwaitComplete .. | .plsyncComplete .. | .frameBoundary ..
    | .snapshotInstall .. | .sliceExpiry .. | .groupRestore .. | .uncorrectableError .. | .grazerVisit .. | .grazerRetry ..
    | .deferredFaultReport .. | .resume .. | .discard .. | .fatal .. | .stop .. | .evict ..
    | .ctxend .. | .cbudWrite .. | .ftfill8k .. | .ftfill8m .. | .ftrsvfill .. | .ftstatClear ..
    | .tustatClear .. | .plsatWrite .. | .plpgWrite .. | .registerWrite .. | .start .. | .hostPostedWrite ..
    | .hostRead .. | .fabricIngress .. | .linkKeyRotation | .endToEndRetry .. | .translationFetch .. | .invalidation ..
    | .invalidationTimeout .. | .migration .. | .migrationConfirmation .. | .scloseComplete .. | .eventStep .. | .timer ..
    | .watermark .. | .overflow .. | .counterCorrection .. | .dieSleep .. | .dieWake .. | .referenceLoss
    | .referenceReturn | .holdoverExpiry | .fatalModuleError .. | .moduleReset | .phaseChange | .fullService
    | .worldAssignment .. | .spdmRequest .. | .dumpRead .. | .contextCreation .. | .linkDeath .. | .outboundAcknowledgement .. => false
    | _ => true

/-- The 96 bits of a lane instruction with hold bit `h`, 0 for another row. -/
def encodeLane (h : Bool) (i : Instr) : BitVec 96 :=
  match laneSpec i, opOf i with
  | some (w, _), some op => laneBits h op w
  | _, _ => 0

/-- The bytes of a list of words as they lie in memory, each word little-endian (R4). -/
def bytesOfWords (ws : List W32) : List Byte :=
  ws.flatMap fun w => [w.extractLsb' 0 8, w.extractLsb' 8 8, w.extractLsb' 16 8, w.extractLsb' 24 8]

end Sys2Proof
end

