-- ==== Sys2Proof/Machine/Hash.lean ====
section
/-! DEFINITION. SHA-384, the digest of a seal (R449, R450). The spec names it and does not write it out: PRESUMED from FIPS 180-4
(log entry 50). -/

namespace Sys2Proof.Machine.Sha

open Sys2Proof

/-- Round constants 0 to 19. -/
def k0 : List Word := [
  0x428a2f98d728ae22, 0x7137449123ef65cd, 0xb5c0fbcfec4d3b2f, 0xe9b5dba58189dbbc, 0x3956c25bf348b538,
  0x59f111f1b605d019, 0x923f82a4af194f9b, 0xab1c5ed5da6d8118, 0xd807aa98a3030242, 0x12835b0145706fbe,
  0x243185be4ee4b28c, 0x550c7dc3d5ffb4e2, 0x72be5d74f27b896f, 0x80deb1fe3b1696b1, 0x9bdc06a725c71235,
  0xc19bf174cf692694, 0xe49b69c19ef14ad2, 0xefbe4786384f25e3, 0x0fc19dc68b8cd5b5, 0x240ca1cc77ac9c65]

/-- Round constants 20 to 39. -/
def k1 : List Word := [
  0x2de92c6f592b0275, 0x4a7484aa6ea6e483, 0x5cb0a9dcbd41fbd4, 0x76f988da831153b5, 0x983e5152ee66dfab,
  0xa831c66d2db43210, 0xb00327c898fb213f, 0xbf597fc7beef0ee4, 0xc6e00bf33da88fc2, 0xd5a79147930aa725,
  0x06ca6351e003826f, 0x142929670a0e6e70, 0x27b70a8546d22ffc, 0x2e1b21385c26c926, 0x4d2c6dfc5ac42aed,
  0x53380d139d95b3df, 0x650a73548baf63de, 0x766a0abb3c77b2a8, 0x81c2c92e47edaee6, 0x92722c851482353b]

/-- Round constants 40 to 59. -/
def k2 : List Word := [
  0xa2bfe8a14cf10364, 0xa81a664bbc423001, 0xc24b8b70d0f89791, 0xc76c51a30654be30, 0xd192e819d6ef5218,
  0xd69906245565a910, 0xf40e35855771202a, 0x106aa07032bbd1b8, 0x19a4c116b8d2d0c8, 0x1e376c085141ab53,
  0x2748774cdf8eeb99, 0x34b0bcb5e19b48a8, 0x391c0cb3c5c95a63, 0x4ed8aa4ae3418acb, 0x5b9cca4f7763e373,
  0x682e6ff3d6b2b8a3, 0x748f82ee5defb2fc, 0x78a5636f43172f60, 0x84c87814a1f0ab72, 0x8cc702081a6439ec]

/-- Round constants 60 to 79. -/
def k3 : List Word := [
  0x90befffa23631e28, 0xa4506cebde82bde9, 0xbef9a3f7b2c67915, 0xc67178f2e372532b, 0xca273eceea26619c,
  0xd186b8c721c0c207, 0xeada7dd6cde0eb1e, 0xf57d4f7fee6ed178, 0x06f067aa72176fba, 0x0a637dc5a2c898a6,
  0x113f9804bef90dae, 0x1b710b35131c471b, 0x28db77f523047d84, 0x32caab7b40c72493, 0x3c9ebe0a15c9bebc,
  0x431d67c49c100d4c, 0x4cc5d4becb3e42b6, 0x597f299cfc657e2a, 0x5fcb6fab3ad6faec, 0x6c44198c4a475817]

/-- The round constants. -/
def rounds : List Word := k0 ++ k1 ++ k2 ++ k3

/-- The initial hash value of SHA-384. -/
def start : List Word := [
  0xcbbb9d5dc1059ed8, 0x629a292a367cd507, 0x9159015a3070dd17, 0x152fecd8f70e5939, 0x67332667ffc00b31,
  0x8eb44a8768581511, 0xdb0c2e0d64f98fa7, 0x47b5481dbefa4fa4]

/-- Σ0 and Σ1 of the working variables. -/
def sum0 (x : Word) : Word := x.rotateRight 28 ^^^ x.rotateRight 34 ^^^ x.rotateRight 39
def sum1 (x : Word) : Word := x.rotateRight 14 ^^^ x.rotateRight 18 ^^^ x.rotateRight 41
/-- σ0 and σ1 of the message schedule. -/
def mix0 (x : Word) : Word := x.rotateRight 1 ^^^ x.rotateRight 8 ^^^ (x >>> 7)
def mix1 (x : Word) : Word := x.rotateRight 19 ^^^ x.rotateRight 61 ^^^ (x >>> 6)

/-- The working variables a to h. -/
structure Vars where
  a : Word
  b : Word
  c : Word
  d : Word
  e : Word
  f : Word
  g : Word
  h : Word
  deriving DecidableEq, Repr

/-- One round with its constant and its word of the schedule. -/
def Vars.round (v : Vars) (k w : Word) : Vars :=
  let t1 := v.h + sum1 v.e + ((v.e &&& v.f) ^^^ (~~~v.e &&& v.g)) + k + w
  let t2 := sum0 v.a + ((v.a &&& v.b) ^^^ (v.a &&& v.c) ^^^ (v.b &&& v.c))
  ⟨t1 + t2, v.a, v.b, v.c, v.d + t1, v.e, v.f, v.g⟩

/-- The next word of the schedule, of the sixteen before it. -/
def nextWord (w : List Word) : Word := mix1 (w.getD 14 0) + w.getD 9 0 + mix0 (w.getD 1 0) + w.getD 0 0

/-- The rounds of a block, with the sixteen words of the schedule that come next. -/
def runRounds : (ks : List Word) → (w : List Word) → Vars → Vars
  | [], _, v => v
  | k :: ks, w, v => runRounds ks (w.drop 1 ++ [nextWord w]) (v.round k (w.getD 0 0))

/-- The hash value after a block of sixteen words. -/
def Vars.block (v : Vars) (w : List Word) : Vars :=
  let x := runRounds rounds w v
  ⟨v.a + x.a, v.b + x.b, v.c + x.c, v.d + x.d, v.e + x.e, v.f + x.f, v.g + x.g, v.h + x.h⟩

/-- Bytes as a word, the first highest. -/
def bigEndian (bs : List Byte) : Word := bs.foldl (fun x b => x <<< 8 ||| b.setWidth 64) 0
/-- The bytes of a word, the highest first. -/
def bytesOf (x : Word) : List Byte := (List.range 8).map fun i => (x >>> (56 - 8 * i)).setWidth 8

/-- A message with its padding: a one bit, zeroes, and its length in bits. -/
def padded (m : List Byte) : List Byte :=
  let n := 8 * m.length
  m ++ [0x80] ++ List.replicate ((239 - m.length % 128) % 128) 0 ++ bytesOf (BitVec.ofNat 64 (n / 2 ^ 64)) ++ bytesOf (BitVec.ofNat 64 n)

/-- The words of block `i` of a message. -/
def blockWords (m : List Byte) (i : Nat) : List Word :=
  (List.range 16).map fun k => bigEndian ((m.drop (128 * i + 8 * k)).take 8)

/-- SHA-384 of a message: 48 bytes. -/
def digest (m : List Byte) : List Byte :=
  let p := padded m
  let v0 : Vars := ⟨start.getD 0 0, start.getD 1 0, start.getD 2 0, start.getD 3 0, start.getD 4 0, start.getD 5 0,
    start.getD 6 0, start.getD 7 0⟩
  let v := (List.range (p.length / 128)).foldl (fun v i => v.block (blockWords p i)) v0
  [v.a, v.b, v.c, v.d, v.e, v.f].flatMap bytesOf

end Sys2Proof.Machine.Sha
end

