-- ==== Sys2Proof/Machine/Memory.lean ====
section
/-! DEFINITION. Sparse stores in canonical form: a list of address and value with strictly rising addresses and no entry
equal to what an unlisted address reads as, which is zero (log entry 2); and lists of objects by number. -/

namespace Sys2Proof.Machine

open Sys2Proof

-- Cells.

/-- What a sparse store holds at an address. -/
def cellGet {w : Nat} (m : List (Nat × BitVec w)) (a : Nat) : BitVec w :=
  match m with
  | [] => 0
  | (x, v) :: t => if x = a then v else cellGet t a

/-- A sparse store with one cell written. -/
def cellSet {w : Nat} (m : List (Nat × BitVec w)) (a : Nat) (v : BitVec w) : List (Nat × BitVec w) :=
  match m with
  | [] => if v = 0 then [] else [(a, v)]
  | (x, u) :: t =>
    if a < x then (if v = 0 then (x, u) :: t else (a, v) :: (x, u) :: t)
    else if a = x then (if v = 0 then t else (a, v) :: t)
    else (x, u) :: cellSet t a v

/-- Every address of the store lies above `lo` and rises, and no value is zero. -/
def cellsAbove {w : Nat} (lo : Option Nat) (m : List (Nat × BitVec w)) : Bool :=
  match m with
  | [] => true
  | (x, v) :: t => (match lo with | none => true | some l => decide (l < x)) && v != 0 && cellsAbove (some x) t

/-- The canonical form of a store. -/
def cellsWf {w : Nat} (m : List (Nat × BitVec w)) : Bool := cellsAbove none m

/-- The canonical form of a memory of bytes. -/
def memWf (m : Mem) : Bool := cellsWf m

/-- `n` bytes at ascending addresses. -/
def memRead (m : Mem) (a n : Nat) : List Byte :=
  match n with
  | 0 => []
  | k + 1 => cellGet m a :: memRead m (a + 1) k

/-- Bytes written at ascending addresses. -/
def memWrite (m : Mem) (a : Nat) (bs : List Byte) : Mem :=
  match bs with
  | [] => m
  | b :: t => memWrite (cellSet m a b) (a + 1) t

/-- The number that bytes hold in little-endian order (R4, R22). -/
def leNat (bs : List Byte) : Nat :=
  match bs with
  | [] => 0
  | b :: t => b.toNat + 256 * leNat t

/-- The `n` bytes of a number in little-endian order. -/
def leBytes (n x : Nat) : List Byte :=
  match n with
  | 0 => []
  | k + 1 => BitVec.ofNat 8 x :: leBytes k (x / 256)

/-- Bytes [lo, lo + n) of a record. -/
def field (bs : List Byte) (lo n : Nat) : Nat := leNat ((bs.drop lo).take n)

/-- True when bytes [lo, lo + n) of a record are zero. -/
def fieldIsZero (bs : List Byte) (lo n : Nat) : Bool := field bs lo n == 0

-- Objects by number.

/-- The object of number `k`, or `d` when none is listed. -/
def look {α : Type} (d : α) (l : List (Nat × α)) (k : Nat) : α :=
  match l with
  | [] => d
  | (x, v) :: t => if x = k then v else look d t k

/-- The list with object `k` set, in ascending order of number. -/
def put {α : Type} (l : List (Nat × α)) (k : Nat) (v : α) : List (Nat × α) :=
  match l with
  | [] => [(k, v)]
  | (x, u) :: t => if k < x then (k, v) :: (x, u) :: t else if k = x then (k, v) :: t else (x, u) :: put t k v

-- Registers.

/-- Bits [hi:lo] of a word, as a natural number (R74). -/
def bits {w : Nat} (x : BitVec w) (hi lo : Nat) : Nat := x.toNat / 2 ^ lo % 2 ^ (hi + 1 - lo)

/-- A natural number as a 64-bit word. -/
def word (n : Nat) : Word := BitVec.ofNat 64 n

/-- A natural number as a 32-bit word. -/
def half (n : Nat) : W32 := BitVec.ofNat 32 n

/-- A condition as a word, 1 or 0. -/
def flagWord (b : Bool) : Word := if b then 1 else 0

/-- The 32-bit mask of the lanes that satisfy `p`. -/
def maskOf (p : Nat → Bool) : BitVec 32 := BitVec.ofNat 32 ((List.range 32).foldl (fun n i => if p i then n + 2 ^ i else n) 0)

/-- The lanes of a mask in ascending order. -/
def lanesOf (m : BitVec 32) : List Nat := (List.range 32).filter fun i => m.getLsbD i

end Sys2Proof.Machine
end

