-- ==== Sys2Proof/Machine/Order.lean ====
section
/-! DEFINITION. The ordering model (R271 to R296): the history of the writes, what a read of a granule may return, what the groups and
the engine operations must see, and the releases and acquires that tell them. Every write is stamped when it is applied, so the stamps
of a granule are its coherence order (R281, R289); a read returns what the granule held after a prefix of it, which no write
that must be seen lies behind. -/

namespace Sys2Proof.Machine

open Sys2Proof

/-- A new key. -/
def State.fresh (s : State) : Nat × State :=
  (s.sched.uid, { s with sched := { s.sched with uid := s.sched.uid + 1 } })

/-- The next free value's number (log entry 3). -/
def State.nextFree (s : State) : Nat × State :=
  (s.sched.free, { s with sched := { s.sched with free := s.sched.free + 1 } })

-- Agents and scopes (R273, R274).

/-- The die of a core's global number. -/
def dieOf (core : Nat) : Nat := core / 128
/-- The compute stack of a die: eight layers to a stack. -/
def stackOf (die : Nat) : Nat := die / 8

/-- The core that an agent is placed on. -/
def Agent.core? : Agent → Option Nat
  | .group _ _ c | .engine _ _ c => some c
  | _ => none

/-- The grid that an agent belongs to. -/
def Agent.grid? : Agent → Option Nat
  | .group _ g _ | .engine _ g _ => some g
  | _ => none

/-- incl(S, a, b) (R274). -/
def incl (scope : Nat) (a b : Agent) : Bool :=
  let same (f : Nat → Nat) : Bool :=
    match a.core?, b.core? with
    | some x, some y => f x == f y
    | _, _ => false
  match scope with
  | 0 => a == b
  | 1 => same id
  | 2 => same dieOf
  | 3 => same fun c => stackOf (dieOf c)
  | 4 => !([Agent.host, .peer].contains a || [Agent.host, .peer].contains b)
  | _ => true

-- Locations and views (R272).

/-- Whether two ranges share a byte. -/
def overlap (a n b m : Nat) : Bool := decide (a < b + m) && decide (b < a + n)

/-- The granule of an address. -/
def granule (a : Nat) : Nat := a / 8

/-- A place of a core's scratchpad as a location, beyond every physical address. -/
def scratchLoc (core a : Nat) : Nat := 2 ^ 64 + 2 ^ 32 * core + a

/-- A place of a stack's Plumb window as a location, beyond every scratchpad. -/
def plumbLoc (stack a : Nat) : Nat := 2 ^ 66 + 2 ^ 32 * stack + a

/-- The granules that hold any of `n` bytes at a location. -/
def granulesAt (loc n : Nat) : List Nat :=
  if n == 0 then [] else (List.range ((loc + n - 1) / 8 + 1 - loc / 8)).map fun i => loc / 8 + i

/-- What must be seen under either of two views. -/
def View.join (u v : View) : View := v.foldl (fun w p => if look 0 w p.1 < p.2 then put w p.1 p.2 else w) u

/-- What must be seen under any of a list of views. -/
def joinAll (vs : List View) : View := vs.foldl View.join []

/-- The view in which a write is seen. -/
def PastWrite.view (w : PastWrite) : View := (granulesAt w.loc w.len).map fun g => (g, w.stamp)

-- History.

/-- The writes to `n` bytes at a location, newest first; and those to a granule. -/
def Order.writesAt (o : Order) (loc n : Nat) : List PastWrite := o.past.filter fun w => overlap w.loc w.len loc n
def Order.writesOf (o : Order) (gr : Nat) : List PastWrite := o.writesAt (8 * gr) 8

/-- The writes to `n` bytes that a read may return the contents before, newest first: those after stamp `bound`; and those to a
granule. -/
def Order.unseenAt (o : Order) (loc n bound : Nat) : List PastWrite :=
  (o.writesAt loc n).takeWhile fun w => decide (bound < w.stamp) && !w.wall
def Order.unseen (o : Order) (gr bound : Nat) : List PastWrite := o.unseenAt (8 * gr) 8 bound

/-- A byte of a location before some of its newest writes, newest first, from the byte that stands there now. -/
def byteBefore (ws : List PastWrite) (loc : Nat) (b : Byte) : Byte :=
  ws.foldl (fun b w => if decide (w.loc ≤ loc) && decide (loc < w.loc + w.len) then w.old.getD (loc - w.loc) b else b) b

/-- The bytes that a read finds that does not see some of the newest writes of its granule. -/
def unseenBytes (ws : List PastWrite) (loc : Nat) (bs : List Byte) : List Byte :=
  (bs.zip (List.range bs.length)).map fun p => byteBefore ws (loc + p.2) p.1

/-- The stamp of a granule's contents before its `k` newest writes. -/
def Order.stampBefore (o : Order) (gr k : Nat) : Nat :=
  match (o.writesOf gr).drop k with
  | w :: _ => w.stamp
  | [] => 0

/-- The releases of the writes that bytes of a granule are read from, before its `k` newest writes (R284). -/
def Order.saidBefore (o : Order) (gr k loc n : Nat) : List Release :=
  let ws := (o.writesOf gr).drop k
  ((List.range n).flatMap fun i =>
    match ws.find? fun w => decide (w.loc ≤ loc + i) && decide (loc + i < w.loc + w.len) with
    | some w => w.tells
    | none => []).eraseDups

/-- A write enters history: bytes `old` at a location are replaced, by an agent that `signed` names. -/
def State.wrote (s : State) (loc : Nat) (old : List Byte) : State :=
  let n := s.order.count + 1
  if old.isEmpty then s
  else { s with order := { s.order with count := n, past := ⟨n, loc, old.length, old, .control, none, [], false⟩ :: s.order.past } }

/-- No read looks behind the contents that `n` bytes at a location have now. -/
def State.wall (s : State) (loc n : Nat) : State :=
  let k := s.order.count + 1
  if n == 0 || !s.order.past.any (fun w => overlap w.loc w.len loc n) then s
  else { s with order := { s.order with count := k, past := ⟨k, loc, n, [], .control, none, [], true⟩ :: s.order.past } }

/-- The writes stamped after `n` are those of an agent, at a place of its core's store order, with the releases that they carry. -/
def State.signed (s : State) (n : Nat) (who : Agent) (cso : Option Nat) (tells : List Release) : State :=
  { s with order := { s.order with
    past := s.order.past.map fun w => if n < w.stamp then { w with who := who, cso := cso, tells := tells } else w } }

/-- The view in which the writes of a core's groups are seen that entered its store order before place `cso` and are applied
(R279, R285). -/
def Order.coreView (o : Order) (core cso : Nat) : View :=
  joinAll ((o.past.filter fun w => w.who.core? == some core && w.cso.any fun c => decide (c < cso)).map PastWrite.view)

/-- The view in which the writes of some agents are seen. -/
def Order.viewOf (o : Order) (p : Agent → Bool) : View := joinAll ((o.past.filter fun w => p w.who && !w.wall).map PastWrite.view)

-- What the groups have learned (R277, R285).

/-- What a group has learned by a place of a stream: on that stream before the place, and on the other before the place at which
they joined (R98). -/
def Order.knownAt (o : Order) (g : Nat) (lane : Bool) (seq after : Nat) : List Learned :=
  o.known.filter fun k => k.g == g && decide (k.place ≤ if k.lane == lane then seq else after)

/-- What must be seen after what was learned. -/
def viewKnown (ks : List Learned) : View := joinAll (ks.map fun k => k.view)

/-- The number of writes before which an access may be taken to have come: behind a receive that orders nothing, the last event
before it (R279, R293). -/
def slack : List Learned → Option Nat
  | [] => none
  | k :: r => if k.slot then some ((r.filter fun x => !x.slot).foldl (fun n x => max n x.time) 0) else none

/-- The latest stamp that must be seen of `n` bytes at a location. -/
def View.latest (v : View) (loc n : Nat) : Nat :=
  (v.filter fun p => decide (loc / 8 ≤ p.1) && decide (p.1 ≤ (loc + n - 1) / 8)).foldl (fun m p => max m p.2) 0

/-- The stamp that a read of a granule by a group of a core may not fall behind (R279, R281, R285): what the group has learned,
and the writes of its core that entered its store order. -/
def Order.bound (o : Order) (g core : Nat) (ks : List Learned) (gr : Nat) : Nat :=
  let own (w : PastWrite) : Bool := w.cso.isSome && w.who.core? == some core &&
    match w.who, slack ks with
    | .group u _ _, some n => u == g || decide (w.stamp ≤ n)
    | _, _ => true
  let mine := match (o.writesOf gr).find? own with
    | some w => w.stamp
    | none => 0
  ks.foldl (fun n k => max n (look 0 k.view gr)) mine

/-- A group learns something. -/
def State.learn (s : State) (k : Learned) : State := { s with order := { s.order with known := k :: s.order.known } }

-- Releases and acquires (R283 to R287).

/-- A release synchronises with an acquire at a scope by an agent (R284). -/
def Release.reaches (r : Release) (scope : Nat) (who : Agent) : Bool := incl r.scope r.who who && incl scope who r.who

/-- What an acquire at a scope by an agent sees of releases that it reads from (R284). -/
def synced (rs : List Release) (scope : Nat) (who : Agent) : View :=
  joinAll ((rs.filter fun r => r.reaches scope who).map fun r => r.view)

/-- The releases of the fences among what was learned (R283). -/
def fenceReleases (ks : List Learned) : List Release := ks.filterMap fun k => k.rel

/-- A mark is one of a barrier word of a team, in some phase. -/
def Mark.isBar (m : Mark) (team off : Nat) : Bool :=
  match m with
  | .bar t o _ => t == team && o == off
  | _ => false

/-- The releases that a mark carries. -/
def State.told (s : State) (m : Mark) : List Release := (s.order.notes.filter fun n => n.1 == m).flatMap fun n => n.2

/-- A mark carries more releases. -/
def State.tell (s : State) (m : Mark) (rs : List Release) : State :=
  if rs.isEmpty then s else { s with order := { s.order with notes := (m, rs) :: s.order.notes } }

/-- A mark carries no release. -/
def State.hush (s : State) (p : Mark → Bool) : State :=
  { s with order := { s.order with notes := s.order.notes.filter fun n => !p n.1 } }

-- Reads (R271, R281, R289).

/-- The newest writes of `n` bytes at a location that a read does not see: those after `bound` are a free choice, unless the read takes
the latest (log entry 49). -/
def State.overlookAt (s : State) (loc n bound : Nat) (latest : Bool) : State × List PastWrite :=
  let ws := s.order.unseenAt loc n bound
  if latest || ws.isEmpty then (s, [])
  else
    let (n, s) := s.nextFree
    (s, ws.take ((Config.freeWord n).toNat % (ws.length + 1)))

/-- The newest writes of a granule that a read does not see. -/
def State.overlook (s : State) (gr bound : Nat) (latest : Bool) : State × List PastWrite := s.overlookAt (8 * gr) 8 bound latest

end Sys2Proof.Machine
end

