-- ==== Sys2Proof/Machine/Ops.lean ====
section
/-! DEFINITION. The operations that the meanings share: reaching the objects of the state, physical memory, page walks and
access checks, events, the queues of requests, traps and their entry and return, stops, team halts, kills and the
fault log. -/

namespace Sys2Proof.Machine

open Sys2Proof

/-- The outcome of a meaning. -/
abbrev Out := Host.Outcome State Fault Refusal

-- Objects.

def State.group? (s : State) (u : Nat) : Option Group := s.groups.find? fun g => g.uid == u
def State.setGroup (s : State) (g : Group) : State :=
  { s with groups := s.groups.map fun x => if x.uid == g.uid then g else x }
def State.core (s : State) (n : Nat) : Core := look Core.empty s.cores n
def State.setCore (s : State) (n : Nat) (c : Core) : State := { s with cores := put s.cores n c }
def State.die (s : State) (d : Nat) : Die := look Die.empty s.dies d
def State.setDie (s : State) (d : Nat) (x : Die) : State := { s with dies := put s.dies d x }
def State.stack (s : State) (n : Nat) : Stack := look Stack.empty s.stks n
def State.setStack (s : State) (n : Nat) (x : Stack) : State := { s with stks := put s.stks n x }
def State.unit (s : State) (n : Nat) : TrigUnit := look TrigUnit.empty s.units n
def State.setUnit (s : State) (n : Nat) (x : TrigUnit) : State := { s with units := put s.units n x }
def State.team? (s : State) (u : Nat) : Option Team := s.teams.find? fun t => t.uid == u
def State.setTeam (s : State) (t : Team) : State :=
  { s with teams := s.teams.map fun x => if x.uid == t.uid then t else x }
def State.grid? (s : State) (u : Nat) : Option Grid := s.grids.find? fun t => t.uid == u
def State.setGrid (s : State) (t : Grid) : State :=
  { s with grids := s.grids.map fun x => if x.uid == t.uid then t else x }
def State.ctx? (s : State) (n : Nat) : Option Context := s.ctxs.find? fun c => c.spec.number == n
def State.setCtx (s : State) (c : Context) : State :=
  { s with ctxs := s.ctxs.map fun x => if x.spec.number == c.spec.number then c else x }

/-- The clock count. -/
def State.now (s : State) : Nat := s.clk.clock

/-- The quad of a core's global number: four cores to a quad. -/
def quadOf (core : Nat) : Nat := core / 4

/-- A message to the outside. -/
def State.send (s : State) (m : OutMsg) : State := { s with out := s.out ++ [m] }

/-- The Meridian counter of a die (R377). -/
def State.meridian (s : State) (die : Nat) : Word := word s.clk.tick + (s.die die).offset

-- Registers of a group (R8).

/-- s[n]: s0 reads zero (R8). -/
def Group.getS (g : Group) (n : BitVec 6) : Word :=
  if n = 0 then 0 else g.sc.s[n.toNat]'n.isLt
/-- s[n] = x: a write to s0 is discarded (R8). -/
def Group.setS (g : Group) (n : BitVec 6) (x : Word) : Group :=
  if n = 0 then g else { g with sc := { g.sc with s := g.sc.s.set n.toNat x n.isLt } }
/-- c[n]: c7 reads 1 (R8). -/
def Group.getC (g : Group) (n : BitVec 3) : Bool := if n = 7 then true else g.sc.c.getLsbD n.toNat
/-- c[n] = x: a write to c7 is discarded (R8). -/
def Group.setC (g : Group) (n : BitVec 3) (x : Bool) : Group :=
  if n = 7 then g
  else
    let m : BitVec 8 := 1#8 <<< n.toNat
    { g with sc := { g.sc with c := if x then g.sc.c ||| m else g.sc.c &&& ~~~m } }
/-- The write of register number `r` as TVAL numbers them: 0 to 63 for s, 64 to 71 for c (R20). -/
def Group.setReg (g : Group) (r : Nat) (x : Word) : Group :=
  if r < 64 then g.setS (BitVec.ofNat 6 r) x else g.setC (BitVec.ofNat 3 (r - 64)) (x != 0)

/-- Register number of an s register. -/
def sReg (n : BitVec 6) : Nat := n.toNat
/-- Register number of a c register. -/
def cReg (n : BitVec 3) : Nat := 64 + n.toNat

/-- Whether register `r` is pending; s0 and c7 never are (R8, R18). -/
def Group.pending (g : Group) (r : Nat) : Bool := r != 0 && r != 71 && g.sc.pend.getLsbD r
/-- Sets the pending bit of a register (R18). -/
def Group.setPending (g : Group) (r : Nat) : Group :=
  if r == 0 || r == 71 then g else { g with sc := { g.sc with pend := g.sc.pend ||| (1#72 <<< r) } }

/-- The group as the origin of a request or operation of the instruction at `pc`. -/
def Group.origin (g : Group) (world : BitVec 4) (lane : Bool) (pc : Word) : Origin :=
  ⟨g.uid, g.place.ctx, g.place.grid, g.place.team, g.place.core, g.place.slot, world, g.place.gser, g.place.tidx, g.place.gid, lane, pc⟩

def Group.die (g : Group) : Nat := dieOf g.place.core

/-- The world latched by the group's die (R414). -/
def State.worldOf (s : State) (g : Group) : BitVec 4 := (s.die g.die).world

/-- A scalar stream in its start state (R29). -/
def Scalar.start (entry : Word) : Scalar :=
  ⟨entry, Vector.replicate 64 0, 0, 0, false, [], .ready, false, none, [], none, [], none, 0⟩

/-- A lane unit in its start state (R29, R146, R211). -/
def Lanes.start : Lanes :=
  ⟨[], [], [], [], Vector.replicate 8 0, 0, 0, Vector.replicate 4 0, Vector.replicate 4 0, 0, [], none, [], false, [], .ready,
    false, false, [], none, 0⟩

/-- A group in the start state that placement gives it (R29, R105). -/
def Group.start (uid : Nat) (place : Place) (role : RoleState) (entry tvb lsv : Word) : Group where
  uid := uid
  life := .resident
  place := place
  role := role
  sr := ⟨tvb &&& ~~~0xFFF#64, lsv, 0, 0, 0, 0, 0, Vector.replicate 4 0⟩
  fflags := 0
  cnt := ⟨0, 0, 0, 0⟩
  sc := Scalar.start entry
  ln := Lanes.start
  dm := List.replicate 8 Datum.clear
  k := Vector.replicate 4 0
  gang := 0
  idem := false
  snap := none
  used := false
  sq := []
  seq := 0
  tokens := List.replicate 16 ⟨none, [], none⟩
  lastTok := 15
  kacc := []
  plFence := none
  entered := none
  trail := []
  coming := none
  stop := none
  evict := none
  evicting := none
  latchAway := none

-- Events (R378 to R387).

/-- The source of a group's events (R379). -/
def Group.source (g : Group) : BitVec 16 :=
  BitVec.ofNat 16 (4096 * g.die + 16 * (g.place.core % 128) + g.place.slot)

/-- The source of the events of the group that an operation came from, which may have left (R379). -/
def Origin.source (o : Origin) : BitVec 16 := BitVec.ofNat 16 (4096 * dieOf o.core + 16 * (o.core % 128) + o.slot)

/-- The source of a unit's events (R379). -/
def unitSource (die kind index : Nat) : BitVec 16 := BitVec.ofNat 16 (4096 * die + 2048 + 256 * kind + index)

/-- An event recorded for one trigger unit: queued, or dropped and counted when the source's 64 entries are full or
it has dropped events it has not reported (R384, R387). A unit with no armed automaton steps no event, and none is kept
for it: an arm stamp is no earlier than any stamp given before it (`State.arm`). -/
def TrigUnit.record (u : TrigUnit) (e : TEvent) : TrigUnit :=
  if u.autos.all (fun a => a.isNone) then u
  else
    match u.lost.find? (fun l => l.1.src == e.src) with
    | some (f, n) =>
      { u with lost := (u.lost.filter fun l => l.1.src != e.src) ++ [({ f with ctxs := (f.ctxs ++ e.ctxs).eraseDups }, n + 1)] }
    | none =>
      if 64 ≤ (u.queue.filter fun x => x.src == e.src).length then { u with lost := u.lost ++ [(e, 1)] }
      else { u with queue := u.queue ++ [e] }

/-- An event of a source on die `die` (16 for the floor die), stamped with that die's counter (R378) and recorded for
the die's unit and the package unit (R381). -/
def State.emitBy (s : State) (cls : Nat) (x : Sender) (tag payload : Nat) (ctx die : Nat) : State :=
  let stamp : BitVec 32 := BitVec.ofNat 32 (s.meridian die).toNat
  let e : TEvent := ⟨BitVec.ofNat 8 cls, x.code, BitVec.ofNat 16 tag, BitVec.ofNat 32 payload, stamp, x.group, [ctx]⟩
  let s := s.setUnit 16 ((s.unit 16).record e)
  if die < 16 then s.setUnit die ((s.unit die).record e) else s

/-- An event of a unit (R379). -/
def State.emit (s : State) (cls : Nat) (src : BitVec 16) (tag payload : Nat) (ctx die : Nat) : State :=
  s.emitBy cls ⟨src, none⟩ tag payload ctx die

/-- A group, and the group that an operation came from, as they emit events. -/
def Group.sender (g : Group) : Sender := ⟨g.source, some (g.uid, g.place.team)⟩
def Origin.sender (o : Origin) : Sender := ⟨o.source, some (o.g, o.team)⟩

/-- An event of a group (R380). -/
def State.emitG (s : State) (g : Group) (cls tag payload : Nat) : State :=
  s.emitBy cls g.sender tag payload g.place.ctx g.die

/-- An event of the group that an operation came from. -/
def State.emitO (s : State) (o : Origin) (cls tag payload : Nat) : State :=
  s.emitBy cls o.sender tag payload o.ctx (dieOf o.core)

-- Physical memory (R220, R374, R444 to R447).

/-- The tier of a physical address, none in a reserved range (R220). -/
def tierOf (pa : Nat) : Option Nat :=
  if pa < 0x10000000000 then some 0
  else if pa < 0x20000000000 then none
  else if pa < 0x40000000000 then some 1
  else if pa < 0x4000000000000 then none
  else if pa < 0x8000000000000 then some 2
  else if pa < 0x10000000000000 then some 3
  else none

/-- XOR of the fields of `o` at the given (high, low) bits (R221). -/
def foldFields (o : Nat) (fs : List (Nat × Nat)) : Nat :=
  fs.foldl (fun x f => x ^^^ (o / 2 ^ f.2 % 2 ^ (f.1 + 1 - f.2))) 0

/-- The slice of an HBM offset (R221). -/
def sliceOf (o : Nat) : Nat := foldFields o [(11, 7), (16, 12), (21, 17), (26, 22), (31, 27), (35, 32)]
/-- The tier-2 slice of an LPDDR offset (R221). -/
def slice2Of (o : Nat) : Nat :=
  foldFields o [(10, 7), (14, 11), (18, 15), (22, 19), (26, 23), (30, 27), (34, 31), (38, 35), (40, 39)]

/-- The plane, and so the Mboud port, of the packets for a peer's address: its line chooses it (R437, R438). -/
def planeOf (pa : Nat) : Nat := Config.planeOfLine (pa / 128) % 32

/-- The event source of the home of a physical address (R220, R221, R379). -/
def homeSource (pa : Nat) : BitVec 16 :=
  if pa < 0x10000000000 then unitSource (pa / 2 ^ 36) 0 (sliceOf (pa % 2 ^ 36))
  else if pa < 0x4000000000000 then unitSource 0 5 (16 + slice2Of (pa - 0x20000000000))
  else if pa < 0x8000000000000 then unitSource 0 5 0
  else unitSource 0 4 (planeOf pa)

/-- The version of a tensor, 0 when it is FREE. -/
def State.tensorVersion (s : State) (id : Nat) : Nat :=
  match (s.die (id / 2 ^ 36)).tensors.find? (fun t => t.index == id % 2 ^ 36) with
  | some t => t.version.toNat
  | none => 0

/-- The tensor whose range table covers a line (R446). -/
def State.tensorOfLine (s : State) (line : Nat) : Option (Nat × Nat) :=
  (s.tramir.ranges.find? fun r => decide (r.1 ≤ line) && decide (line < r.1 + r.2.1)).map fun r =>
    (r.2.2.1, r.2.2.2 + (line - r.1))

/-- The number of the key that Tramir has created for a world; world 0 has none (R444). -/
def State.worldKey (s : State) (w : BitVec 4) : Nat :=
  if w = 0 then 0
  else
    match s.tramir.keys.find? fun k => k.1 == .world w with
    | some k => k.2
    | none => 0

/-- A world's key, and its keys for both stacks' Plumb channels, created where it has none (R444). -/
def State.createKeys (s : State) (w : BitVec 4) : State :=
  if w = 0 || s.tramir.keys.any (fun k => k.1 == .world w) then s
  else
    let n := s.sched.uid
    { s with
      sched := { s.sched with uid := n + 3 }
      tramir := { s.tramir with keys := s.tramir.keys ++ [(.world w, n), (.stack w 0, n + 1), (.stack w 1, n + 2)] } }

/-- The key a request of world `w` uses for a line (R445, R446). -/
def State.keyFor (s : State) (w : BitVec 4) (line : Nat) : LineKey :=
  match s.tensorOfLine line with
  | some (id, _) => ⟨w, s.worldKey w, id, s.tensorVersion id⟩
  | none => ⟨w, s.worldKey w, 0, 0⟩

/-- The key a line is stored under. -/
def State.keyOf (s : State) (line : Nat) : LineKey := look ⟨0, 0, 0, 0⟩ s.mem.keys line

/-- A byte of HBM or LPDDR as a request of world `w` reads it; a byte behind a port is a free value (log
entry 3), and so is a byte of the fatal-state dump (R376). -/
def State.physByte (s : State) (w : BitVec 4) (a : Nat) : Byte :=
  match if decide (0x3FE00000000 ≤ a) && decide (a < 0x40000000000) then s.tramir.dump else none with
  | some d => Config.freeByte d.free a
  | none =>
  if a < 0x40000000000 then
    let line := a / 128
    let old := s.keyOf line
    let new := s.keyFor w line
    let b := cellGet s.mem.bytes a
    if old = new then b else Config.underOtherKey old new line (a % 128) b
  else Config.freeByte s.sched.free a

/-- `n` bytes at ascending physical addresses. -/
def State.physRead (s : State) (w : BitVec 4) (a n : Nat) : List Byte :=
  (List.range n).map fun i => s.physByte w (a + i)

/-- A line rewritten under the key of a request that stores part of it (R445 to R447). -/
def State.rekey (s : State) (w : BitVec 4) (line : Nat) : State :=
  let new := s.keyFor w line
  if s.keyOf line = new then s
  else
    let bs := s.physRead w (128 * line) 128
    let s := s.wall (128 * line) 128
    { s with mem := { s.mem with bytes := memWrite s.mem.bytes (128 * line) bs, keys := put s.mem.keys line new } }

/-- The lines that hold any of `n` bytes at an address. -/
def linesAt (a n : Nat) : List Nat := if n == 0 then [] else (List.range ((a + n - 1) / 128 + 1 - a / 128)).map fun i => a / 128 + i

/-- Bytes stored at ascending physical addresses of HBM or LPDDR by a request of world `w`; the write enters history. -/
def State.physWrite (s : State) (w : BitVec 4) (a : Nat) (bs : List Byte) : State :=
  let s := (linesAt a bs.length).foldl (fun s line => s.rekey w line) s
  let s := s.wrote a (memRead s.mem.bytes a bs.length)
  { s with mem := { s.mem with
    bytes := memWrite s.mem.bytes a bs
    visits := s.mem.visits.map fun v => if (linesAt a bs.length).contains v.1 then (v.1, v.2.1, true) else v } }

/-- Whether a range of HBM or LPDDR touches a poisoned sector, and its first poisoned address (R374). -/
def State.poisonIn (s : State) (a n : Nat) : Option Nat :=
  ((List.range n).find? fun i => s.mem.poison.contains ((a + i) / 128)).map fun i => a + i

/-- R374: the poison of the sectors that one write covers whole is cleared. -/
def State.clearPoison (s : State) (a n : Nat) : State :=
  let keep (k : Nat) : Bool := !(decide (a ≤ 128 * k) && decide (128 * k + 128 ≤ a + n))
  { s with mem := { s.mem with poison := s.mem.poison.filter keep, cached := s.mem.cached.filter keep } }

-- Translation (R229 to R232, R458).

/-- R21: bits [63:53] equal bit 52. -/
def canonical (va : Word) : Bool :=
  va.toNat < 2 ^ 52 || decide (2 ^ 64 - 2 ^ 52 ≤ va.toNat)

/-- The clocks after which a held PTE faults (R246). -/
def heldLimit : Nat := 2 ^ 26

/-- What a walk finds (R231). -/
inductive WalkResult where
  | leaf (l : Leaf)
  | bad
  | held
  | untouched (pte entry : Nat) (large : Bool)
  deriving DecidableEq, Repr

/-- Reduced service (R458). -/
def State.reduced (s : State) : Bool := s.clk.phase == 2

/-- A leaf entry `e` at a level (R230 to R232), whose page must lie whole in the range of its tier (R220). With CONT it
covers the whole group of 32 pages where that lies in the range too, and else the walked page alone (log entry 11). -/
def leafOf (va e level : Nat) : WalkResult :=
  let size := 2 ^ (13 + 10 * level)
  let frame := e / 2 ^ 13 % 2 ^ 39 * 2 ^ 13
  let tier := e / 2 ^ 8 % 4
  let back := 2 ^ 13 * (va / 2 ^ 13 % 32)
  let inTier (pbase n : Nat) : Bool := tierOf pbase == some tier && tierOf (pbase + n - 1) == some tier
  let mk (vbase n pbase : Nat) : WalkResult :=
    .leaf ⟨vbase, n, pbase, e / 8 % 2 == 1, e / 16 % 2 == 1, e / 32 % 2 == 1, e / 64 % 2 == 1, e / 128 % 2 == 1,
      BitVec.ofNat 2 tier, BitVec.ofNat 4 (e / 2 ^ 52)⟩
  if frame % size != 0 || !inTier frame size then .bad
  else if e / 2 ^ 10 % 2 == 1 && decide (back ≤ frame) && inTier (frame - back) (2 ^ 18) then
    mk (va / 2 ^ 18 * 2 ^ 18) (2 ^ 18) (frame - back)
  else mk (va / size * size) size frame

/-- The walk of a 53-bit address from a table at a level (R229, R231). The tables are read as their own lines' key reads
them. -/
def State.walkFrom (s : State) (va : Nat) : (level table : Nat) → WalkResult
  | level, table =>
    let pte := table + 8 * (va / 2 ^ (13 + 10 * level) % 1024)
    let e := leNat (s.physRead (s.keyOf (pte / 128)).world pte 8)
    let v := e % 2
    let type := e / 2 % 4
    let frame := e / 2 ^ 13 % 2 ^ 39 * 2 ^ 13
    let tier := e / 2 ^ 8 % 4
    if v == 0 then (if type == 1 then .held else .bad)
    else if e / 2 ^ 11 % 4 != 0 || (e / 2 ^ 10 % 2 == 1 && level != 0) then .bad
    else if type == 0 then
      match level with
      | 0 => .bad
      | k + 1 => if (tierOf frame).isNone then .bad else s.walkFrom va k frame
    else if type == 1 then
      if level == 3 then .bad
      else match leafOf va e level with
        | .leaf l => if s.reduced && (tier == 0 || tier == 3) then .held else .leaf l
        | r => r
    else if type == 2 then
      if level < 2 && frame == 0 then
        if s.reduced && tier == 0 then .held else .untouched pte e (level == 1)
      else .bad
    else .bad
  termination_by structural level => level

/-- The home of a physical address is on a die that sleeps: an access of it is held until the die wakes (R412). -/
def State.asleepAt (s : State) (pa : Nat) : Bool := decide (pa < 0x10000000000) && !(s.die (pa / 2 ^ 36)).awake

/-- The walk of a 53-bit address from a table at a level reads an entry of a die that sleeps. -/
def State.walkAsleep (s : State) (va : Nat) : (level table : Nat) → Bool
  | level, table =>
    let pte := table + 8 * (va / 2 ^ (13 + 10 * level) % 1024)
    let e := leNat (s.physRead (s.keyOf (pte / 128)).world pte 8)
    s.asleepAt pte ||
      match level with
      | 0 => false
      | k + 1 => e % 8 == 1 && s.walkAsleep va k (e / 2 ^ 13 % 2 ^ 39 * 2 ^ 13)
  termination_by structural level => level

/-- The walk of a context's address reads an entry of a die that sleeps. -/
def State.tablesAsleep (s : State) (ctx : Nat) (va : Word) : Bool :=
  match s.ctx? ctx with
  | none => false
  | some c => canonical va && s.walkAsleep (va.toNat % 2 ^ 53) 3 c.spec.root.toNat

/-- The walk of a context's address (R229); an address that is not canonical ends it at once (R21). -/
def State.walk (s : State) (ctx : Nat) (va : Word) : WalkResult :=
  match s.ctx? ctx with
  | none => .bad
  | some c => if canonical va then s.walkFrom (va.toNat % 2 ^ 53) 3 c.spec.root.toNat else .bad

/-- R415: a die refuses a request from elsewhere whose destination lies on it and whose world differs from its own. -/
def State.portRefuses (s : State) (die : Nat) (world : BitVec 4) (pa : Nat) : Bool :=
  decide (pa < 0x10000000000) && pa / 2 ^ 36 != die && (s.die (pa / 2 ^ 36)).world != world

/-- What an access does to the page (R233). -/
inductive Acc where
  | load
  | store
  | atomic
  | fetch
  deriving DecidableEq, Repr

/-- The permission and world checks of R233, in the order of R25. -/
def rights (r w x a : Bool) (page : BitVec 4) (acc : Acc) (world : BitVec 4) : Option (BitVec 8) :=
  let ok := match acc with
    | .load => r
    | .store => w
    | .atomic => w && a
    | .fetch => x
  if !ok then some 0x11 else if page != world then some 0x12 else none

def Leaf.check (l : Leaf) (acc : Acc) (world : BitVec 4) : Option (BitVec 8) := rights l.r l.w l.x l.a l.world acc world

/-- The physical address of a virtual address in a leaf's page. -/
def Leaf.phys (l : Leaf) (va : Word) : Nat := l.pbase + (va.toNat % 2 ^ 53 - l.vbase)

/-- Whether a leaf's page covers an address. -/
def Leaf.covers (l : Leaf) (va : Word) : Bool :=
  decide (l.vbase ≤ va.toNat % 2 ^ 53) && decide (va.toNat % 2 ^ 53 < l.vbase + l.size)

/-- The TLB entry of a core for an address (R233). -/
def Core.lookup (c : Core) (ctx : Nat) (va : Word) : Option Leaf :=
  (c.tlb.find? fun e => e.ctx == ctx && e.leaf.covers va).map fun e => e.leaf

/-- The entry of a die's last-level TLB for an address (R233). -/
def Die.lookup (d : Die) (ctx : Nat) (va : Word) : Option Leaf :=
  ((d.tlb ++ d.tlbBig).find? fun e => e.ctx == ctx && e.leaf.covers va).map fun e => e.leaf

/-- The translation that a core's TLB or its die's holds of an address (R233). -/
def State.cached (s : State) (core ctx : Nat) (va : Word) : Option Leaf :=
  ((s.core core).lookup ctx va).or ((s.die (dieOf core)).lookup ctx va)

/-- The page number of an address. -/
def pageOf (va : Word) : Nat := va.toNat % 2 ^ 53 / 8192

/-- The translation of an address at issue: the TLBs, then the walks that ended for the waiting word; none is a
miss (R23). -/
def State.xlate (s : State) (core ctx : Nat) (walked : List (Nat × WalkEnd)) (va : Word) : Option WalkEnd :=
  if !canonical va then some (.fault false)
  else match s.cached core ctx va with
    | some l => some (.leaf l)
    | none => (walked.find? fun p => p.1 == pageOf va).map fun p => p.2

/-- R236: the first-touch unit of a die serves an anon-untouched entry of tier HBM with the frame of its pool that entered
it first (DESIGN CHOICE: the spec does not say which, log entry 11). The new
entry is written by `cas`, and no other write comes between in this step. None when it cannot serve. -/
def State.touch (s : State) (die pte entry : Nat) (large : Bool) (ctx : Nat) : Option State :=
  let d := s.die die
  if entry / 2 ^ 8 % 4 != 0 then none
  else
    let take (f : Nat) (ft : FirstTouch) : State :=
      let s := s.setDie die { d with ft := ft }
      let s := if ft.flags = d.ft.flags then s else s.send (.controlInterrupt "first-touch pool low" die ft.flags.toNat 0)
      let s := s.physWrite (s.keyOf (pte / 128)).world pte (leBytes 8 (entry - 4 + 2 + f))
      s.emit 0x0B (unitSource die 2 0) (if large then 1 else 0) (f / 2 ^ 13 % 2 ^ 32) ctx die
    if large then
      match d.ft.large with
      | [] => none
      | f :: r => some (take f { d.ft with large := r, flags := if r.length ≤ 2 then d.ft.flags ||| 2 else d.ft.flags })
    else
      match d.ft.small with
      | [] => none
      | f :: r => some (take f { d.ft with small := r, flags := if r.length ≤ 64 then d.ft.flags ||| 1 else d.ft.flags })

/-- The pool of a die found empty for an entry of tier HBM (R238, EMPTY). -/
def State.poolEmpty (s : State) (die entry : Nat) : State :=
  let d := s.die die
  if decide (16 ≤ die) || entry / 2 ^ 8 % 4 != 0 then s else
  s.setDie die { d with ft := { d.ft with flags := d.ft.flags ||| 4 } }

-- Peers (R437 to R442).

/-- The peer of a fabric-peer address, its region and the offset there (R437). -/
def peerOf (pa : Nat) : Nat := pa / 2 ^ 42 % 512
def regionOf (pa : Nat) : Nat := pa / 2 ^ 30 % 4096
def regionOffset (pa : Nat) : Nat := pa % 2 ^ 30

/-- A physical address of a fabric peer (R220). -/
def isPeer (pa : Nat) : Bool := decide (0x8000000000000 ≤ pa)

/-- A context in compatibility mode (R442). -/
def State.compat (s : State) (ctx : Nat) : Bool := (s.ctx? ctx).any fun c => c.spec.xcompat

/-- The grant token of a peer's address, which the port reads from the context's token table (R439); none while the table's page
is held or lies on a die that sleeps. A table that is not mapped gives a token of zero (log entry 26). -/
def State.tokenAt (s : State) (ctx pa : Nat) : Option Word :=
  match s.ctx? ctx with
  | none => some 0
  | some c =>
    if c.spec.xcompat then some 0
    else
      let va := c.spec.tokBase + word (8 * (4096 * peerOf pa + regionOf pa))
      if s.tablesAsleep ctx va then none
      else
        match s.walk ctx va with
        | .leaf l =>
          if s.asleepAt (l.phys va) then none else some (word (leNat (s.physRead c.spec.world (l.phys va) 8)))
        | .held => none
        | _ => some 0

/-- The translation of a peer's page that is held (R442). -/
def State.peerPage? (s : State) (ctx pa : Nat) : Option PeerPage :=
  s.fabric.cached.find? fun p => p.ctx == ctx && p.page == pa / 8192

/-- A peer page's translation is fetched and held (R442); its rights and its world are the target's, and free (log entry 3). -/
def State.fetchPeer (s : State) (ctx page : Nat) : State :=
  let n := s.sched.free
  { s with
    sched := { s.sched with free := n + 4 }
    fabric := { s.fabric with cached := s.fabric.cached ++
      [⟨ctx, page, Config.freeBool n, Config.freeBool (n + 1), Config.freeBool (n + 2),
        BitVec.ofNat 4 (Config.freeWord (n + 3)).toNat⟩] } }

/-- Whether an access may use a peer's page: its context uses tokens, or the translation held permits it (R442). -/
def State.peerPermits (s : State) (ctx pa : Nat) (acc : Acc) (world : BitVec 4) : Bool :=
  !s.compat ctx || match s.peerPage? ctx pa with
    | some p => (rights p.r p.w false p.a p.world acc world).isNone
    | none => false

/-- The state in which a peer's page can be used: in compatibility mode its translation is held. -/
def State.readyPeer (s : State) (ctx pa : Nat) : State :=
  if s.compat ctx && (s.peerPage? ctx pa).isNone then s.fetchPeer ctx (pa / 8192) else s

/-- Why an access that no stream makes is not performed. -/
inductive AccessEnd where
  | ok (pa : Nat)
  | held
  | asleep
  | fault (cause : BitVec 8)
  deriving DecidableEq, Repr

/-- The translation of an access that no stream makes: an engine operation, a stop record, a log entry, a record that the
device reads (R233, R333, R360, R415). One that meets the home of a die that sleeps waits for its wake (R412). A first touch is served by the unit of `die`. -/
def State.engineXlate (s : State) (die ctx : Nat) (world : BitVec 4) (acc : Acc) (va : Word) : State × AccessEnd :=
  let reach (s : State) (l : Leaf) : State × AccessEnd :=
    match l.check acc world with
    | some c => (s, .fault c)
    | none =>
      if isPeer (l.phys va) then
        let s := s.readyPeer ctx (l.phys va)
        if (s.tokenAt ctx (l.phys va)).isNone then (s, .asleep)
        else if s.peerPermits ctx (l.phys va) acc world then (s, .ok (l.phys va)) else (s, .fault 0x11)
      else if s.asleepAt (l.phys va) then (s, .asleep)
      else if s.portRefuses die world (l.phys va) then (s, .fault 0x12) else (s, .ok (l.phys va))
  if s.tablesAsleep ctx va then (s, .asleep) else
  match s.walk ctx va with
  | .leaf l => reach s l
  | .held => (s, .held)
  | .bad => (s, .fault 0x10)
  | .untouched pte e large =>
    match s.touch die pte e large ctx with
    | none => (s.poolEmpty die e, .fault 0x10)
    | some s' =>
      match s'.walk ctx va with
      | .leaf l => reach s' l
      | _ => (s', .fault 0x10)

/-- The physical addresses of `n` bytes from `va`, page by page, or the first access that cannot be made and its address;
`fuel` bounds the pages. -/
def State.engineRange (s : State) (die ctx : Nat) (world : BitVec 4) (acc : Acc) :
    (fuel : Nat) → (va : Word) → (n : Nat) → State × Except (AccessEnd × Word) (List Nat)
  | 0, _, _ => (s, .ok [])
  | fuel + 1, va, n =>
    if n == 0 then (s, .ok [])
    else
      match s.engineXlate die ctx world acc va with
      | (s, .ok pa) =>
        let k := min n (8192 - va.toNat % 8192)
        match s.engineRange die ctx world acc fuel (va + word k) (n - k) with
        | (s, .ok l) => (s, .ok ((List.range k).map (fun i => pa + i) ++ l))
        | (s, .error e) => (s, .error e)
      | (s, e) => (s, .error (e, va))

/-- Pages that `n` bytes can touch. -/
def pagesOf (n : Nat) : Nat := n / 8192 + 2

-- Tags (R447).

/-- The tensor that an index of a die names, when it is not FREE. -/
def State.tensor? (s : State) (die index : Nat) : Option Tensor := (s.die die).tensors.find? fun t => t.index == index

/-- The tensor with tags that a line belongs to, and the physical address of the line's tag; none for the address when the
tag region is not mapped there. -/
def State.tagOf (s : State) (line : Nat) : Option (LineKey × Option Nat) :=
  match s.tensorOfLine line with
  | none => none
  | some (id, i) =>
    match s.tensor? (id / 2 ^ 36) (id % 2 ^ 36) with
    | none => none
    | some t =>
      if t.enc != 2 then none
      else
        let va := t.tagp + word (8 * i)
        some (⟨t.world, s.worldKey t.world, id, t.version.toNat⟩,
          match s.walk t.ctx va with
          | .leaf l => some (l.phys va)
          | _ => none)

/-- A line of a tensor with tags whose tag does not match (R447). -/
def State.tagBad (s : State) (line : Nat) : Bool :=
  match s.tagOf line with
  | none => false
  | some (key, pa) =>
    s.keyOf line != key ||
      match pa with
      | none => true
      | some a =>
        word (leNat (s.physRead (s.keyOf (a / 128)).world a 8)) !=
          Config.lineTag key line (memRead s.mem.bytes (128 * line) 128)

/-- The tag of a line that was written. -/
def State.retag (s : State) (line : Nat) : State :=
  match s.tagOf line with
  | some (key, some a) =>
    s.physWrite (s.keyOf (a / 128)).world a (leBytes 8 (Config.lineTag key line (memRead s.mem.bytes (128 * line) 128)).toNat)
  | _ => s

/-- Bytes stored at ascending addresses of HBM or LPDDR by one write request, with the tags of their lines. -/
def State.homeWrite (s : State) (world : BitVec 4) (a : Nat) (bs : List Byte) : State :=
  (linesAt a bs.length).foldl State.retag (s.physWrite world a bs)

/-- The first address of a range whose data cannot be delivered: its sector is poisoned, or its tag does not match. -/
def State.badIn (s : State) (a n : Nat) : Option Nat :=
  if a < 0x40000000000 then
    ((List.range n).find? fun i => s.mem.poison.contains ((a + i) / 128) || s.tagBad ((a + i) / 128)).map fun i => a + i
  else none

/-- Lines that are read are poisoned where their tag does not match (R447). -/
def State.poisonLines (s : State) (ls : List Nat) : State :=
  let bad := ls.eraseDups.filter fun x => decide (128 * x < 0x40000000000) && s.tagBad x && !s.mem.poison.contains x
  { s with mem := { s.mem with poison := bad ++ s.mem.poison } }

/-- The same of the lines of some bytes. -/
def State.poisonTags (s : State) (l : List Nat) : State := s.poisonLines (l.map fun a => a / 128)

/-- The cause that an engine's read of a byte meets: ECCU where its sector is poisoned (R374), INTEG where its line's tag does not
match (R447). -/
def State.badCause (s : State) (a : Nat) : BitVec 8 := if s.mem.poison.contains (a / 128) then 0x18 else 0x13

/-- `n` bytes of a context read by an agent that is no stream (R167, R423, R449). Data that
cannot be delivered ends it with its cause (R374, R447). -/
def State.engineRead (s : State) (die ctx : Nat) (world : BitVec 4) (va : Word) (n : Nat) :
    State × Except (AccessEnd × Word) (List Byte) :=
  match s.engineRange die ctx world .load (pagesOf n) va n with
  | (s, .ok l) =>
    match l.find? fun a => (s.badIn a 1).isSome with
    | some a => (s.poisonTags l, .error (.fault (s.badCause a), va))
    | none => (s, .ok (l.map fun a => s.physByte world a))
  | (s, .error e) => (s, .error e)

-- Outbound accesses (R275, R436, R438).

/-- A sequence number of a context for the peer of an address, whose packet emits FABRIC_TX (R438). An address of the host needs
none. -/
def State.nextPacket (s : State) (ctx pa : Nat) : Nat × State :=
  if !isPeer pa then (0, s)
  else
    let k := 512 * ctx + peerOf pa
    let n := look 0 s.fabric.sent k
    let s := { s with fabric := { s.fabric with sent := put s.fabric.sent k (n + 1) } }
    (n, s.emit 0x13 (homeSource pa) (peerOf pa) (n % 2 ^ 32) ctx 16)

/-- The token that a packet to the peer of an address carries (R439). -/
def State.packetToken (s : State) (ctx pa : Nat) : Word := if isPeer pa then (s.tokenAt ctx pa).getD 0 else 0

/-- Accesses go out (R436 to R438): to the host one by one, and to a peer in one packet. -/
def State.transmit (s : State) (ctx seqno : Nat) (token : Word) (parts : List (Nat × OutKind)) : State :=
  match parts with
  | [] => s
  | (pa, _) :: _ =>
    if isPeer pa then
      s.send (.fabricPacket ⟨planeOf pa, peerOf pa, regionOf pa, Config.moduleNumber, ctx, seqno, token,
        parts.map fun p => (regionOffset p.1, p.2)⟩)
    else parts.foldl (fun s p => s.send (.hostRequest (p.1 - 0x4000000000000) p.2)) s

/-- An access that the floor-die port has accepted in a packet. -/
def State.addOut (s : State) (id : Nat) (who : Option Origin) (req : Option MemReq) (va : Word) (pa seqno : Nat) (token : Word)
    (kind : OutKind) : State :=
  { s with outb := s.outb ++ [⟨id, who, req, va, pa, seqno, token, false, s.fabric.keyGen, kind⟩] }

/-- An access that no stream makes, sent in a packet of its own. Gives its key. -/
def State.sendOut (s : State) (who : Option Origin) (ctx : Nat) (va : Word) (pa : Nat) (kind : OutKind) : Nat × State :=
  let (id, s) := s.fresh
  let (n, s) := s.nextPacket ctx pa
  let token := s.packetToken ctx pa
  (id, (s.addOut id who none va pa n token kind).transmit ctx n token [(pa, kind)])

/-- Runs of bytes at consecutive addresses. -/
def runsOf : List (Nat × Byte) → List (Nat × List Byte)
  | [] => []
  | (a, b) :: r =>
    match runsOf r with
    | (x, bs) :: t => if x == a + 1 then (a, b :: bs) :: t else (a, [b]) :: (x, bs) :: t
    | [] => [(a, [b])]

/-- Bytes stored at physical addresses by an agent that is no stream: each run of them is one write request, which reads the tags of
the lines it covers in part (R447), and goes outbound where its tier is host or peer. Gives the keys of the outbound accesses. -/
def State.physStore (s : State) (who : Option Origin) (ctx : Nat) (world : BitVec 4) (va : Word) (l : List (Nat × Byte)) :
    State × List Nat :=
  (runsOf l).foldl (fun (acc : State × List Nat) r =>
    if r.1 < 0x40000000000 then
      let s := acc.1.poisonLines ((linesAt r.1 r.2.length).filter fun k =>
        !(decide (r.1 ≤ 128 * k) && decide (128 * k + 128 ≤ r.1 + r.2.length)))
      ((s.homeWrite world r.1 r.2).clearPoison r.1 r.2.length, acc.2)
    else
      let (id, s) := acc.1.sendOut who ctx va r.1 (.store r.2)
      (s, acc.2 ++ [id])) (s, [])

/-- Why a record is not written now: it is dropped, or it waits, on a held PTE or for the wake of a die. -/
inductive WriteEnd where
  | done
  | dropped
  | waits (held : Bool)
  deriving DecidableEq, Repr

/-- A write of part of a poisoned sector, which meets its uncorrectable error (R360, R374). -/
def State.patchesPoison (s : State) (a n : Nat) : Bool :=
  (linesAt a n).any fun k => s.mem.poison.contains k && !(decide (a ≤ 128 * k) && decide (128 * k + 128 ≤ a + n))

/-- A record of a context written by an agent that is no stream, all or none of it (R246, R360, R412). `timedOut` says that it
has waited on a held PTE as long as it may. -/
def State.recordWrite (s : State) (timedOut : Bool) (die ctx : Nat) (world : BitVec 4) (va : Word) (bs : List Byte) :
    State × WriteEnd :=
  match s.engineRange die ctx world .store (pagesOf bs.length) va bs.length with
  | (s, .ok l) =>
    if (runsOf (l.zip bs)).any fun r => s.patchesPoison r.1 r.2.length then (s, .dropped)
    else ((s.physStore none ctx world va (l.zip bs)).1, .done)
  | (s, .error (.held, _)) => (s, if timedOut then .dropped else .waits true)
  | (s, .error (.asleep, _)) => (s, .waits false)
  | (s, .error _) => (s, .dropped)

/-- An access that waits joins those that wait. -/
def State.addJob (s : State) (act : DeviceAct) (held : Bool) : State :=
  let (id, s) := s.fresh
  { s with jobs := s.jobs ++ [⟨id, act, if held then some (s.now, s.now) else none⟩] }

-- Near caches (R218, R219).

/-- The lines of a core's near cache that hold any of `n` bytes at `pa` leave it. -/
def Core.dropNear (c : Core) (pa n : Nat) : Core :=
  { c with near := c.near.filter fun l => !(decide (pa / 128 ≤ l.1) && decide (l.1 ≤ (pa + n - 1) / 128)) }

/-- An acquire at scope die or wider empties the core's near cache (R93, R219). -/
def State.acquireAt (s : State) (core scope : Nat) : State :=
  if 2 ≤ scope then s.setCore core { s.core core with near := [] } else s

-- The scratchpad (R91, R208).

/-- Bytes written to a core's scratchpad; words that are written whole lose their poison (R374). -/
def Core.writeScratch (c : Core) (a : Nat) (bs : List Byte) : Core :=
  { c with
    scratch := memWrite c.scratch a bs
    poisonS := c.poisonS.filter fun x => !(decide (a ≤ 8 * x) && decide (8 * x + 8 ≤ a + bs.length)) }

/-- The same as a write of the machine, which enters history. -/
def State.writeScratch (s : State) (core a : Nat) (bs : List Byte) : State :=
  (s.wrote (scratchLoc core a) (memRead (s.core core).scratch a bs.length)).setCore core ((s.core core).writeScratch a bs)

-- Agents (R273).

/-- The group that an operation or a request came from, as an agent; and an engine operation of it. -/
def Origin.agent (o : Origin) : Agent := .group o.g o.grid o.core
def Origin.engine (o : Origin) (op : Nat) : Agent := .engine op o.grid o.core
/-- A group as an agent. -/
def Group.agent (g : Group) : Agent := .group g.uid g.place.grid g.place.core

-- Requests (R89, R275, R278).

/-- A request appended to a core's order. -/
def State.enqueue (s : State) (core : Nat) (r : MemReq) : State :=
  let c := s.core core
  s.setCore core { c with reqs := c.reqs ++ [r] }

/-- Whether a request reads a value into its group. -/
def MemReq.reads (r : MemReq) : Bool :=
  match r.op with
  | .load _ _ _ | .rmw _ _ _ | .cas _ _ => true
  | _ => false

/-- Whether a request writes. -/
def MemReq.writes (r : MemReq) : Bool :=
  match r.op with
  | .store _ | .rmw _ _ _ | .cas _ _ => true
  | _ => false

/-- Whether a request is a marker. -/
def MemReq.isMarker (r : MemReq) : Bool :=
  match r.op with
  | .marker _ _ => true
  | _ => false

/-- The bytes a request touches. -/
def MemReq.bytes (r : MemReq) : Nat :=
  match r.op with
  | .load n _ _ => n
  | .store d => d.length
  | .rmw _ n _ => n
  | .cas n _ => n
  | .marker _ _ => 0

/-- Whether two requests touch a common 8-byte granule of one space. -/
def MemReq.sameGranule (r q : MemReq) : Bool :=
  r.scratch == q.scratch && !r.isMarker && !q.isMarker &&
    overlap (r.addr / 8 * 8) ((r.addr + r.bytes + 7) / 8 * 8 - r.addr / 8 * 8) (q.addr / 8 * 8)
      ((q.addr + q.bytes + 7) / 8 * 8 - q.addr / 8 * 8)

/-- Every request of the module that is queued or not yet applied. -/
def State.allReqs (s : State) : List MemReq :=
  s.groups.flatMap (fun g => g.sq) ++ s.cores.flatMap (fun c => c.2.reqs)

/-- The release that marker `id` stands for is performed: the marker has left its queues. -/
def State.released (s : State) (id : Nat) : Bool := !(s.allReqs.any fun r => r.isMarker && r.id == id)

/-- A write of a group to global memory is queued or not yet applied. -/
def State.writesPending (s : State) (uid : Nat) : Bool :=
  s.allReqs.any fun r => r.who.g == uid && r.writes && !r.scratch

/-- The release named by an optional marker is performed. -/
def State.releasedOpt (s : State) (m : Option Nat) : Bool :=
  match m with
  | none => true
  | some id => s.released id

/-- Store-queue entries in use (R89). -/
def Group.sqUsed (g : Group) : Nat := (g.sq.map fun r => r.slots).foldl (· + ·) 0

/-- Whether a request of the group precedes place `seq` of a stream in program order: it is an earlier one of the same
stream, or one of the other stream before the place `after` at which an `lrun` or `lwait` joined them (R98, R277). -/
def MemReq.precedes (r : MemReq) (g : Nat) (lane : Bool) (seq after : Nat) : Bool :=
  r.who.g == g && decide (r.seq < if r.who.lane == lane then seq else after)

/-- Whether a Plumb operation of the group, which is one of its scalar stream, does. -/
def PlumbReq.precedes (r : PlumbReq) (g : Nat) (lane : Bool) (seq after : Nat) : Bool :=
  match r.who with
  | some o => o.g == g && decide (r.seq < if lane then after else seq)
  | none => false

/-- The Plumb operations of a die that its replicas have not applied. -/
def Die.plumbReqs (d : Die) : List PlumbReq := d.port ++ d.portWait

/-- Whether a read of the group that precedes a place of a stream in program order has not returned, from a home, from a port or
from outside (R94, R97, R278); a Plumb
operation reads where it returns a result (R408). -/
def State.readBefore (s : State) (g : Group) (lane : Bool) (seq after : Nat) : Bool :=
  ((g.sq ++ (s.core g.place.core).reqs ++ s.outb.filterMap fun o => o.req).any fun r =>
      r.reads && r.precedes g.uid lane seq after) ||
    (s.die g.die).plumbReqs.any fun r => r.precedes g.uid lane seq after && g.sc.outst.any fun x => x.src == r.id

/-- Whether a request is the release of a fence. -/
def MemReq.isFence (r : MemReq) : Bool :=
  match r.op with
  | .marker _ fence => fence
  | _ => false

/-- A write that has entered a core's order touches a range and is not applied (R279). -/
def Core.writePending (c : Core) (scratch : Bool) (a n : Nat) : Bool :=
  c.reqs.any fun r => r.writes && r.scratch == scratch && overlap r.addr r.bytes a n

/-- The next place in the group's issue order. -/
def Group.nextSeq (g : Group) : Group := { g with seq := g.seq + 1 }

/-- The place before which the scalar stream's reads precede the running block's accesses (R98). -/
def Group.blockSeq (g : Group) : Nat :=
  match g.ln.cur with
  | some b => b.seq
  | none => 0

/-- The place before which the other stream's accesses precede those of a stream (R98). -/
def Group.joinSeq (g : Group) (lane : Bool) : Nat := if lane then g.blockSeq else g.sc.laneSeq

/-- What a group has learned by its present place in a stream. -/
def State.knownBy (s : State) (g : Group) (lane : Bool) : List Learned := s.order.knownAt g.uid lane g.seq (g.joinSeq lane)

/-- What a group learns at its present place in a stream. -/
def State.learnAt (s : State) (g : Group) (lane slot : Bool) (v : View) (heard : List Release) : State :=
  s.learn ⟨g.uid, lane, g.seq, s.order.count, slot, v, heard, none⟩

/-- What a group has read at its present place in a stream: the writes that the values stem from, and the releases that they carry; where
none has been made it learns nothing. -/
def State.learnSeen (s : State) (g : Group) (lane : Bool) (v : View) (heard : List Release) : State :=
  let v := v.filter fun p => p.2 != 0
  if v.isEmpty then s else s.learnAt g lane false v heard

/-- A group acquires at a scope, at its present place in a stream, releases that it has read from (R283, R284). -/
def State.acquires (s : State) (g : Group) (lane : Bool) (scope : Nat) (rs : List Release) : State :=
  let v := synced rs scope g.agent
  if v.isEmpty && (slack (s.knownBy g lane)).isNone then s else s.learnAt g lane false v []

/-- A group's release at a scope at its present place in a stream, whose writes before it are all applied or stand before it in the
order of its core (R285). -/
def State.releaseOf (s : State) (g : Group) (lane : Bool) (scope : Nat) : Release :=
  ⟨g.agent, scope, (viewKnown (s.knownBy g lane)).join (s.order.coreView g.place.core (s.order.drains + 1))⟩

/-- Whether a Plumb write that precedes a group's present place in a stream is not applied (R275). -/
def State.plumbAhead (s : State) (g : Group) (lane : Bool) : Bool :=
  (s.die g.die).plumbReqs.any fun r => r.precedes g.uid lane g.seq (g.joinSeq lane)

/-- Whether the release of a fence that precedes a group's present place in a stream is not performed (R97). -/
def State.fencePending (s : State) (g : Group) (lane : Bool) : Bool :=
  s.allReqs.any fun r => r.isFence && r.precedes g.uid lane g.seq (g.joinSeq lane)

/-- A write of a group to the scratchpad of a core that is in no core's store order, at its present place in a stream: a slot of a
channel or a barrier word (R278). The group's later accesses see it. -/
def State.writeOwn (s : State) (core a : Nat) (bs : List Byte) (g : Group) (lane : Bool) (tells : List Release) : State :=
  let n := s.order.count
  let s := (s.writeScratch core a bs).signed n g.agent none tells
  s.learnAt g lane false ((granulesAt (scratchLoc core a) bs.length).map fun x => (x, n + 1)) []

/-- A fence's acquire at a scope by a group ends: it acquires the releases that the reads before it found. A `fence.sc` takes its
place in their order: it sees what those before it saw, and its release carries that on (R283, R287). -/
def State.fenceEnd (s : State) (g : Group) (lane : Bool) (scope : Nat) (sc : Bool) : State :=
  let ks := s.knownBy g lane
  let s := (s.acquireAt g.place.core scope).acquires g lane scope (ks.flatMap fun k => k.heard)
  match if sc then ks.findSome? fun k => k.rel else none with
  | none => s
  | some r =>
    let r := { r with view := r.view.join (synced s.order.fences scope g.agent) }
    let s := s.learn ⟨g.uid, lane, g.seq, s.order.count, false, r.view, [], some r⟩
    { s with order := { s.order with fences := r :: s.order.fences } }

/-- A release of the group at a scope, appended to its store queue behind everything it has queued (R283). Gives the
marker's key. -/
def State.release (s : State) (g : Group) (lane : Bool) (scope : Nat) (fence : Bool := false) : Nat × State :=
  let (id, s) := s.fresh
  let r : MemReq := ⟨id, g.origin (s.worldOf g) lane g.sc.spc, g.seq, g.joinSeq lane, g.seq, 0, false, 0, 0, false, none, 0,
    .marker scope fence⟩
  (id, s.setGroup { g with sq := g.sq ++ [r], seq := g.seq + 1 })

/-- R92, R337: whether a range lock of the core conflicts with an access of `n` bytes at `lo` in a space. A write lock
conflicts with every access, a read lock with a write. -/
def Core.locked (c : Core) (ctx space lo n : Nat) (writes : Bool) : Bool :=
  c.locks.any fun l =>
    l.space == space && (space != 2 || l.ctx == ctx) && (l.write || writes) && decide (lo ≤ l.hi) && decide (l.lo < lo + n)

/-- An access as a watch comparator sees it: its lane, its address or offset and its length. -/
abbrev Touch := Nat × Nat × Nat

/-- R382: one event for each comparator and kind that a scalar word or a lane gang issue matches; the payload is the
address of the lowest matching lane. -/
def State.watch (s : State) (g : Group) (lane scratch reads writes : Bool) (ts : List Touch) : State :=
  ((s.core g.place.core).watches).foldl (fun s w =>
    if w.scratch != scratch || (w.ctx.isSome && w.ctx != some g.place.ctx) then s
    else
      match ts.find? (fun t => overlap t.2.1 t.2.2 w.base w.len) with
      | none => s
      | some t =>
        let tag := w.slot + if lane then 8 else 0
        let s := if reads && w.reads then s.emitG g 0x03 tag (t.2.1 % 2 ^ 32) else s
        if writes && w.writes then s.emitG g 0x04 tag (t.2.1 % 2 ^ 32) else s) s

-- Operations of the engines (R291).

/-- An engine operation replaced. -/
def State.setEngine (s : State) (o : EngOp) : State := { s with engs := s.engs.map fun x => if x.uid == o.uid then o else x }

/-- Whether an access of a group that precedes place `seq` of its issue order is queued or not yet applied. -/
def State.earlierPending (s : State) (uid seq : Nat) : Bool :=
  s.allReqs.any fun r => r.who.g == uid && decide (r.seq < seq) && !r.isMarker

-- Grids (R163, R165).

/-- The grid that a handle names in a context. -/
def State.gridOf (s : State) (ctx : Nat) (h : Word) : Option Grid :=
  s.grids.find? fun t => t.handle == h && t.ctx == ctx

/-- A count that saturates at 0xFFFF (R165). -/
def sat16 (n : Nat) : Nat := if n < 65535 then n else 65535

/-- The status word (R165). -/
def statusWord (code reason nlog : Nat) : Word := word (65536 * sat16 nlog + 256 * reason + code)

-- The fault log (R364).

/-- The 64 bytes of a log entry; a protected context keeps only KIND, CAUSE, GRID, TIDX, GID and GSER (R371). -/
def logBytes (prot : Bool) (kind cause src : Nat) (who : Origin) (handle : Word) (pc addr stamp : Word) : List Byte :=
  leBytes 1 kind ++ leBytes 1 cause ++ leBytes 1 (if prot then 0 else src) ++ leBytes 1 0 ++ leBytes 4 who.gser.toNat
    ++ leBytes 8 handle.toNat ++ leBytes 8 who.tidx.toNat ++ leBytes 2 who.gid.toNat ++ leBytes 6 0
    ++ leBytes 8 (if prot then 0 else pc.toNat) ++ leBytes 8 (if prot then 0 else addr.toNat)
    ++ leBytes 8 (if prot then 0 else stamp.toNat) ++ leBytes 8 0

/-- An entry written at the ring's next place (R364): LOGWIDX rises, and an entry that finds the ring full is dropped. -/
def State.writeEntry (s : State) (timedOut : Bool) (ctx die : Nat) (bs : List Byte) : State × WriteEnd :=
  match s.ctx? ctx with
  | none => (s, .dropped)
  | some c =>
    if (c.logw - c.logr).toNat = c.spec.logSize then (s, .dropped)
    else
      match s.recordWrite timedOut die ctx c.spec.world
        (c.spec.logBase + word (64 * (c.logw.toNat % max 1 c.spec.logSize))) bs with
      | (s, .done) => (s.setCtx { c with logw := c.logw + 1 }, .done)
      | r => r

/-- Whether an act is an entry of a context's log. -/
def DeviceAct.entryOf (a : DeviceAct) (ctx : Nat) : Bool :=
  match a with
  | .logEntry c _ _ => c == ctx
  | _ => false

/-- An entry of the context fault log (R364), behind those of the context that wait: NLOG of the grid counts it whether or not the ring can take it. -/
def State.log (s : State) (kind cause src : Nat) (who : Origin) (pc addr : Word) : State :=
  let handle := match s.grid? who.grid with
    | some t => t.handle
    | none => 0
  let s := match s.grid? who.grid with
    | some t => s.setGrid { t with nlog := t.nlog + 1, deferred := t.deferred || kind == 1 }
    | none => s
  match s.ctx? who.ctx with
  | none => s
  | some c =>
    let die := dieOf who.core
    let bs := logBytes c.spec.prot kind cause src who handle pc addr (s.meridian die)
    if s.jobs.any fun j => j.act.entryOf who.ctx then s.addJob (.logEntry who.ctx die bs) false
    else
      match s.writeEntry false who.ctx die bs with
      | (s, .waits held) => s.addJob (.logEntry who.ctx die bs) held
      | (s, _) => s

-- Seals (R449 to R451).

/-- A list held to `n` bytes, with zeros where it is short. -/
def fitBytes (n : Nat) (bs : List Byte) : List Byte := (bs ++ List.replicate n 0).take n

/-- The bytes of queued ranges in the order of their `sadd`, up to the first range that cannot be read, and why one could not
(R449). -/
def State.sealRead (s : State) (die ctx : Nat) (world : BitVec 4) : List (Word × Nat) → State × List Byte × Option AccessEnd
  | [] => (s, [], none)
  | (a, n) :: r =>
    match s.engineRead die ctx world a n with
    | (s, .error (e, _)) => (s, [], some e)
    | (s, .ok bs) =>
      match s.sealRead die ctx world r with
      | (s, rest, f) => (s, bs ++ rest, f)

/-- SIGLEN (R450). -/
def sigLen (alg : Nat) : Nat := if alg == 0 then 96 else 3309

/-- The seal record (R450). -/
def sealRecord (l : Seal) (status : Nat) (serial : Word) (measure data : List Byte) : List Byte :=
  let head := leBytes 4 1 ++ leBytes 4 status ++ leBytes 8 serial.toNat ++ leBytes 8 l.grid.toNat
    ++ leBytes 4 l.gser.toNat ++ leBytes 2 l.alg ++ leBytes 2 (sigLen l.alg) ++ fitBytes 48 (Sha.digest data)
    ++ fitBytes 48 measure ++ leBytes 8 data.length ++ leBytes 8 0
  fitBytes 4096 (head ++ fitBytes (sigLen l.alg) (Config.signature l.alg l.slot head))

/-- The record of a seal, signed (R450). -/
def State.sealBytes (s : State) (l : Seal) (status : Nat) (data : List Byte) : List Byte :=
  let measure := match s.ctx? l.ctx with
    | some c => c.spec.measure
    | none => []
  sealRecord l status s.tramir.serial measure data

/-- A seal whose record is signed is free (R449, R451). -/
def State.sealFree (s : State) (l : Seal) (status : Nat) : State :=
  let s := { s with tramir := { s.tramir with
    seals := s.tramir.seals.filter (fun x => x.n != l.n), serial := s.tramir.serial + 1 } }
  s.emit 0x17 (unitSource 0 6 0) (if status == 1 then 3 else 2) l.n l.ctx 16

/-- A seal's record is signed and written, or its write waits, and the seal is free (R451). `die` and `world` are those of the
group that held it. -/
def State.sealFinish (s : State) (l : Seal) (die : Nat) (world : BitVec 4) (status : Nat) (data : List Byte) : State :=
  let bs := s.sealBytes l status data
  match s.recordWrite false die l.ctx world l.record bs with
  | (s, .waits held) => (s.addJob (.sealRecord l.ctx die world l.record bs) held).sealFree l status
  | (s, _) => s.sealFree l status

/-- The seals that a group holds close with STATUS 1 over the ranges already read (R451); how many that are is a free
value (log entry 3). -/
def State.sealAbort (s : State) (g : Group) : State :=
  (s.tramir.seals.filter fun l => l.g == g.uid).foldl (fun s l =>
    let (n, s) := s.nextFree
    let count := if s.writesPending g.uid then 0 else (Config.freeWord n).toNat % (l.ranges.length + 1)
    let read := l.ranges.take count
    match s.sealRead g.die l.ctx (s.worldOf g) read with
    | (s, data, _) => s.sealFinish l g.die (s.worldOf g) 1 data) s

-- Stops (R359, R360).

/-- LBQ (R106). -/
def Group.lbq (g : Group) : Word :=
  word ((if g.ln.frozen then 32 else 0) + (if g.ln.cur.isSome then 16 else 0) + g.ln.queue.length)

/-- The live mask (R146). -/
def Lanes.live (l : Lanes) : BitVec 32 := l.frags.foldl (fun m f => m ||| f.lanes) 0

/-- A ready fragment (R150); a frozen lane unit has none. -/
def Frag.ready (f : Frag) : Bool := f.st == .ready

/-- A fragment of the gang at a mode and LPC. -/
def Frag.inGang (f : Frag) (sup : Bool) (lpc : BitVec 32) : Bool := f.ready && f.sup == sup && f.lpc == lpc

/-- Lanes of the fragments that satisfy `p`. -/
def Lanes.maskWhere (l : Lanes) (p : Frag → Bool) : BitVec 32 :=
  (l.frags.filter p).foldl (fun m f => m ||| f.lanes) 0

/-- The LPC of a lane, all ones when it is not live (R360). -/
def Lanes.lpcOf (l : Lanes) (i : Nat) : Nat :=
  match l.frags.find? fun f => f.lanes.getLsbD i with
  | some f => f.lpc.toNat
  | none => 0xFFFFFFFF

/-- Whether the stream is parked, and not stalled before a word that it will issue (R105, R111, R160). -/
def ScalarWait.parked (w : ScalarWait) : Bool :=
  match w with
  | .ready | .stall _ | .walk _ | .lrun _ => false
  | _ => true

/-- A word or a gang issue of a group, noted with its stamp; and one taken back that stalls and will issue again (R394). -/
def Group.noteWord (g : Group) (lane : Bool) (stamp clock : Nat) : Group :=
  { g with trail := (lane, stamp, clock) :: g.trail.filter fun x => decide (stamp ≤ x.2.1 + 256) }
def Group.unnoteWord (g : Group) (lane : Bool) : Group := { g with trail := g.trail.eraseP fun x => x.1 == lane }

/-- A skid (R360, R394): the words or gang issues in clocks after the one in which the stop started, or with stamps after that of an
automaton's accept. -/
def Group.skid (g : Group) (lane : Bool) (since : SkidFrom) : Nat :=
  (g.trail.filter fun x => x.1 == lane && match since with
    | .stamp n => decide (n < x.2.1)
    | .clock n => decide (n < x.2.2)).length

/-- The 256 bytes of a stop record (R360). `since` and `lost` are those of the stop (R394, R387). -/
def State.stopBytes (s : State) (g : Group) (cause : Nat) (origin : Bool) (since : SkidFrom) (lost prot : Bool) : List Byte :=
  let handle := match s.grid? g.place.grid with
    | some t => t.handle
    | none => 0
  let flags := (if origin then 1 else 0) + (if g.sc.sup then 2 else 0) + (if g.entered = some s.now then 4 else 0)
    + (if g.ln.frozen then 8 else 0) + (if lost then 16 else 0)
    + (if g.sc.wait.parked then 32 else 0)
  let rest : List Byte :=
    leBytes 8 g.sc.spc.toNat ++ leBytes 8 (s.meridian g.die).toNat ++ leBytes 8 g.sr.tval.toNat
      ++ leBytes 8 g.sr.tpc.toNat ++ leBytes 4 flags ++ leBytes 4 g.sr.tcause.toNat
      ++ (List.range 32).flatMap (fun i => leBytes 4 (g.ln.lpcOf i)) ++ leBytes 4 g.ln.live.toNat
      ++ leBytes 4 (g.ln.maskWhere fun f => f.sup).toNat
      ++ leBytes 4 (g.ln.maskWhere fun f => f.st != .ready).toNat ++ leBytes 4 g.lbq.toNat ++ leBytes 48 0
  leBytes 8 handle.toNat ++ leBytes 8 g.place.tidx.toNat ++ leBytes 4 g.place.gser.toNat
    ++ leBytes 1 g.place.gid.toNat ++ leBytes 1 cause
    ++ (if prot then leBytes 234 0 else leBytes 1 (g.skid false since) ++ leBytes 1 (g.skid true since) ++ rest)

/-- A stop record that cannot be written is dropped with an interrupt (R360). -/
def State.stopDropped (s : State) (ctx core slot : Nat) : State :=
  s.send (.controlInterrupt "stop record dropped" ctx core slot)

/-- A group's stop record written to its context's stop area, or dropped, or waiting (R246, R360); a context
that ends writes none (R372). -/
def State.stopRecord (s : State) (g : Group) (cause : Nat) (origin : Bool) (since : SkidFrom) (lost : Bool) : State :=
  match s.ctx? g.place.ctx with
  | none => s
  | some c =>
    if c.ending then s else
    let va := c.spec.stopBase + word (256 * (16 * g.place.core + g.place.slot))
    let bs := s.stopBytes g cause origin since lost c.spec.prot
    match s.recordWrite false g.die g.place.ctx c.spec.world va bs with
    | (s, .done) => s
    | (s, .dropped) => s.stopDropped g.place.ctx g.place.core g.place.slot
    | (s, .waits held) => s.addJob (.stopRecord g.place.ctx g.place.core g.place.slot c.spec.world va bs) held

/-- A latch entry without a group's arrival; its gang word is that of the first member left (R308). -/
def Latch.without (l : Latch) (uid : Nat) : Latch :=
  let ms := l.members.filter fun m => m.g != uid
  { l with
    members := ms
    gang := match ms with
      | m :: _ => m.gang
      | [] => l.gang }

/-- A group's arrival at its quad's latch is withdrawn (R313). -/
def State.withdraw (s : State) (uid : Nat) : State :=
  { s with latches := (s.latches.map fun l => (l.1, l.2.without uid)).filter (fun l => !l.2.members.isEmpty) }

/-- Whether a wait must end before a trap, a stop or an eviction takes the group (R111, R313, R420). -/
def ScalarWait.binding (w : ScalarWait) : Bool :=
  match w with
  | .scAccess _ | .tensor _ | .accept _ => true
  | _ => false

/-- Whether the lane unit's wait must end before it counts as frozen: an access to an SC page completes (R253). -/
def LaneWait.binding (w : LaneWait) : Bool :=
  match w with
  | .scAccess _ => true
  | _ => false

/-- Whether the stream sleeps (R116). -/
def ScalarWait.sleeps (w : ScalarWait) : Bool :=
  match w with
  | .sleep _ => true
  | _ => false

/-- What a group's scalar stream does when something ends its sleep (R116): the hold of the `sleep` follows. -/
def Group.wake (g : Group) : Group :=
  if g.sc.wait.sleeps then { g with sc := { g.sc with wait := if g.sc.hold then .hold else .ready, hold := false } } else g

/-- Whether a context ends (R372). -/
def State.isEnding (s : State) (n : Nat) : Bool := (s.ctx? n).any fun c => c.ending

/-- A group stops now (R359 steps 2 to 4): its arrival is withdrawn and its record written; the seals of a group that halts
with its team, or whose context ends, close (R372, R451). -/
def State.stopNow (s : State) (g : Group) (life : Life) (cause : Nat) (origin : Bool) (since : SkidFrom) (lost : Bool := false) :
    State :=
  let s := s.withdraw g.uid
  let s := if life == .teamHalted || s.isEnding g.place.ctx then s.sealAbort g else s
  let g := (if g.sc.wait = .latch then { g with sc := { g.sc with wait := .ready } } else g).wake
  let g := { g with life := life, coming := none, stop := none, evicting := g.evicting.map fun _ => true }
  (s.setGroup g).stopRecord g cause origin since lost

/-- The first cause of a team's halt, as a stop record gives it (R359, R360). -/
def State.haltCause (s : State) (g : Group) : Nat :=
  match (s.team? g.place.team).bind fun t => t.halted with
  | some c => c.toNat
  | none => 0x20

/-- A stop that waited takes effect: a team halt, or another stop (R359 to R361). -/
def State.stopWaiting (s : State) (g : Group) (w : StopWait) : State :=
  if w.halted then s.stopNow g .teamHalted (s.haltCause g) false w.since
  else s.stopNow g .stopped 0x20 false w.since w.lostord

/-- A stop reaches a group (R359 to R362, R394). One that issues stops at once, or once its trap entry or the operation that binds it is
complete, the first stop before a later one and a team's halt before any other; one that has halted or stopped meanwhile stops only
with its team. -/
def State.stopReaches (s : State) (g : Group) (w : StopWait) : State :=
  match g.life with
  | .resident =>
    if g.sc.entry.isSome || g.sc.wait.binding then
      s.setGroup { g with coming := none, stop := if g.stop.isNone || w.halted then some w else g.stop }
    else s.stopWaiting g w
  | .halted | .stopped => if w.halted then s.stopWaiting g w else s.setGroup { g with coming := none }
  | _ => s.setGroup { g with coming := none }

/-- A stop starts for a resident group: it is on its way while the group issues on (R359, R361, R394). One that is under way already
stays, and a team's halt then comes at once. -/
def State.sendStop (s : State) (g : Group) (w : StopWait) (within : Nat) : State :=
  if g.coming.isNone && g.stop.isNone then s.setGroup { g with coming := some ⟨w, within⟩ }
  else if w.halted then s.stopReaches g w
  else s

/-- A stop that is on its way reaches its group. -/
def State.land (s : State) (uid : Nat) : State :=
  match s.group? uid with
  | none => s
  | some g =>
    match g.coming with
    | none => s
    | some c => s.stopReaches g c.wait

/-- The clocks within which a team's halt, a debugger's STOP and the end of a context stop a group (R359, R361, R372). -/
def stopClocks : Nat := 24

/-- A team halts (R359): the originating group stops, a stop is sent to every sibling, the FATAL entry is logged and the control cores
are interrupted. One that is evicted stops at its restore. -/
def State.teamHalt (s : State) (g : Group) (cause : BitVec 8) (src : Nat) (pc addr : Word) : State :=
  match s.team? g.place.team with
  | none => s
  | some t =>
    let s := s.setTeam { t with halted := some cause }
    let s := match s.grid? t.grid with
      | some d => s.setGrid { d with fatal := if d.fatal.isNone then some cause else d.fatal }
      | none => s
    let s := s.stopNow g .teamHalted cause.toNat true (.clock s.now)
    let s := t.members.foldl (fun s u =>
      if u == g.uid then s
      else match s.group? u with
        | none => s
        | some h =>
          let w : StopWait := ⟨true, .clock s.now, false⟩
          match h.life with
          | .resident => s.sendStop h w stopClocks
          | .halted | .stopped => s.stopReaches h w
          | _ => s.sealAbort h) s
    let s := s.log 2 cause.toNat src (g.origin (s.worldOf g) (src == 1) pc) pc addr
    s.send (.controlInterrupt "team halted" g.place.ctx t.uid g.place.core)

/-- A fatal cause of a group halts its team (R358, R359). A team that halts already does not do so again: the group stops as a sibling
(DEDUCED, log entry 40). -/
def State.fatalFor (s : State) (g : Group) (cause : BitVec 8) (src : Nat) (pc addr : Word) : State :=
  if (s.team? g.place.team).any fun t => t.halted.isSome then
    s.stopNow g .teamHalted (s.haltCause g) false (match g.coming with
      | some c => c.wait.since
      | none => .clock s.now)
  else s.teamHalt g cause src pc addr

-- Traps (R26, R351, R358).

/-- TCAUSE as entry writes it (R11, R26, R351). -/
def tcauseWord (r : TrapRecord) (sup : Bool) : Word :=
  word (r.cause.toNat + (if sup then 256 else 0) + (if r.lane then 512 else 0))

/-- The trap registers as entry writes them (R26, R351). -/
def Group.trapRegs (g : Group) (r : TrapRecord) : TrapRegs :=
  { g.sr with
    tpc := g.sc.spc
    tcause := tcauseWord r g.sc.sup
    tval := r.tval
    tmask := if r.lane then r.tmask.setWidth 64 else 0
    tlpc := if r.lane then r.tlpc.setWidth 64 else 0 }

/-- The vector address of a cause (R26). -/
def vectorOf (tvb : Word) (cause : BitVec 8) : Word := (tvb &&& ~~~0xFFF#64) + word (16 * cause.toNat)

/-- Whether the fetch of an address fails with XLATE or PERM (R358); none where a held PTE, a page to touch or a table of a die
that sleeps leaves it open, and the fetch itself meets it. -/
def State.fetchFails (s : State) (g : Group) (va : Word) : Option Bool :=
  let leafFails (l : Leaf) : Bool := l.check .fetch (s.worldOf g) == some 0x11
  match s.cached g.place.core g.place.ctx va with
  | some l => some (leafFails l)
  | none =>
    if s.tablesAsleep g.place.ctx va then none
    else match s.walk g.place.ctx va with
    | .leaf l => some (leafFails l)
    | .bad => some true
    | _ => none

/-- The TRAP event of an entry (R380). -/
def State.emitTrap (s : State) (g : Group) (cause : Nat) (lane : Bool) (tpc : Word) : State :=
  s.emitG g 0x0A (cause + if lane then 256 else 0) (tpc.toNat % 2 ^ 32)

/-- The FAULT event of a cause that has emitted none (R380). -/
def State.tellFault (s : State) (g : Group) (r : TrapRecord) : State :=
  if r.told then s else s.emitG g 0x09 (r.cause.toNat + if r.lane then 256 else 0) (r.tval.toNat % 2 ^ 32)

/-- A fatal trap (R358): the group stops with the trap registers as entry would set them, and its team halts. -/
def State.fatalTrap (s : State) (g : Group) (r : TrapRecord) : State :=
  let s := s.tellFault g r
  let g := { g with
    sr := g.trapRegs r
    sc := { g.sc with entry := none, wait := if g.sc.wait.binding then g.sc.wait else .ready, walked := [] } }
  let (src, pc) := if r.lane then (1, r.tlpc.setWidth 64) else (0, g.sc.spc)
  (s.setGroup g).fatalFor g r.cause src pc r.tval

/-- Taking an exception, once its drain is complete (R26, R351): pending bits clear, the trap registers are written, the
mode becomes supervisor and SPC goes to the vector, whose fetch must not fail (R358). -/
def State.enter (s : State) (g : Group) (r : TrapRecord) : State :=
  let g := { g with
    sc := { g.sc with pend := 0, wait := .ready, hold := false, entry := none, walked := [] }
    ln := { g.ln with frozen := true, pend := 0 } }
  let va := vectorOf g.sr.tvb r.cause
  match s.fetchFails g va with
  | some true => s.fatalTrap g r
  | open_ =>
    let tpc := g.sc.spc
    let g := { g with
      entered := some s.now
      sr := g.trapRegs r
      sc := { g.sc with spc := va, sup := true, vector := some ⟨r.told, open_.isNone⟩ } }
    let s := s.setGroup g
    if open_.isNone then s else s.emitTrap g r.cause.toNat r.lane tpc

/-- Whether traps of a group do not vector: TVB.BASE is 0 (R358). -/
def Group.noVector (g : Group) : Bool := g.sr.tvb &&& ~~~0xFFF#64 == 0

/-- A trap entry or a stop that waits for the group takes effect if nothing it waits for is left (R26, R351, R362); a trap that
does not vector waits for what binds the group only (R313). -/
def State.settle (s : State) (uid : Nat) : State :=
  match s.group? uid with
  | none => s
  | some g =>
    if g.life != .resident || g.sc.wait.binding then s
    else
      match g.sc.entry with
      | some r =>
        if g.noVector then s.fatalTrap g r
        else if g.sc.outst.isEmpty && g.ln.outst.isEmpty && !g.ln.wait.binding then
          let s := s.enter g r
          match g.stop, s.group? uid with
          | some w, some g => if g.life == .resident then s.stopWaiting g w else s
          | _, _ => s
        else s
      | none =>
        match g.stop with
        | some w => s.stopWaiting g w
        | none => s

/-- What the wait of a parked stream becomes when a trap interrupts it (R111): the wait of `bar.arw` writes status 2 and
completes, or the phase's result where the phase has ended; an unaccepted copy is dropped; a binding wait goes on. -/
def State.interrupt (s : State) (g : Group) : State × Group :=
  let done (g : Group) : Group :=
    { g with sc := { g.sc with wait := .ready, spc := g.sc.spc + 4 }, cnt := { g.cnt with scnt := g.cnt.scnt + 1 } }
  match g.sc.wait with
  | .barWait d _ phase true => (s, done (g.setReg d (word (2 ^ 32 * phase + 2))))
  | .barDone d result scope true => (s.acquireAt g.place.core scope, done (g.setReg d result))
  | .latch => (s.withdraw g.uid, { g with sc := { g.sc with wait := .ready } })
  | .copyToken op => ({ s with engs := s.engs.filter (fun e => e.uid != op) }, { g with sc := { g.sc with wait := .ready } })
  | w => if w.binding then (s, g) else (s, { g with sc := { g.sc with wait := .ready } })

/-- What the lane unit's wait becomes when it freezes: a word that waits to issue issues again after the thaw, except an
access to an SC page, which completes (R253, R351). -/
def LaneWait.frozen (w : LaneWait) : LaneWait := if w.binding then w else .ready

/-- A cause of a group is raised (R26, R351, R358): FAULT is emitted unless it is the SWTRAP or BKPT of a word (R380), the lane
unit freezes and entry begins; entry completes at once when nothing is outstanding. With TVB.BASE = 0 the trap is fatal. -/
def State.raise (s : State) (g : Group) (r : TrapRecord) (async : Bool := false) : State :=
  let told := async || !(r.cause == 0x09 || r.cause == 0x0A)
  let s := if told then s.tellFault g r else s
  let (s, g) := s.interrupt g
  let g := { g with ln := { g.ln with frozen := true, wait := g.ln.wait.frozen }, evicting := g.evicting.map fun _ => true }
  (s.setGroup { g with sc := { g.sc with entry := some { r with told := told }, walked := [] } }).settle g.uid

/-- An async cause joins those that wait (R350). -/
def Group.addAsync (g : Group) (r : TrapRecord) : Group := { g with sc := { g.sc with async := g.sc.async ++ [r] } }

/-- A cause that the scalar stream's own word raises; `next` for SWTRAP and BKPT, whose TPC is the address of the
following instruction (R26). -/
def State.trapScalar (s : State) (g : Group) (cause : Nat) (tval : Word) : State :=
  let g := if cause == 0x09 || cause == 0x0A then { g with sc := { g.sc with spc := g.sc.spc + 4 } } else g
  s.raise g ⟨BitVec.ofNat 8 cause, false, tval, 0, 0, false⟩

/-- A cause that a lane word raises at group level (R351, R72). -/
def State.trapLane (s : State) (g : Group) (cause : Nat) (tval : Word) (lanes lpc : BitVec 32) : State :=
  s.raise g ⟨BitVec.ofNat 8 cause, true, tval, lanes, lpc, false⟩

/-- Returning from an exception (R28, R117): SPC to TPC, the mode from TCAUSE.PM in supervisor mode, and the lane unit
thaws. -/
def Group.trapReturn (g : Group) : Group :=
  { g with
    sc := { g.sc with spc := g.sr.tpc, sup := if g.sc.sup then g.sr.tcause.getLsbD 8 else false }
    ln := { g.ln with frozen := false } }

-- The end of a word.

/-- The issuing group and the word being executed. -/
def State.issuer (s : State) : Option (Cur × Group) :=
  match s.sched.cur with
  | none => none
  | some c => (s.group? c.g).map fun g => (c, g)

/-- A scalar word that has completed: SCNT counts it, SPC names its successor, and with H = 1 the stream parks (R19,
R105). -/
def State.retire (s : State) (g : Group) (hold : Bool) (next : Word) : State :=
  s.setGroup { g with
    sc := { g.sc with spc := next, wait := if hold then .hold else .ready, hold := false, walked := [], vector := none }
    cnt := { g.cnt with scnt := g.cnt.scnt + 1 } }

/-- Whether a word in this wait has not issued and issues again. -/
def ScalarWait.reissues (w : ScalarWait) : Bool :=
  match w with
  | .walk _ | .stall _ => true
  | _ => false

/-- A scalar word that parks or stalls without having completed: SPC stays at it (R111). -/
def State.park (s : State) (g : Group) (hold : Bool) (w : ScalarWait) : State :=
  let g := if w.reissues then g.unnoteWord false else g
  s.setGroup { g with sc := { g.sc with wait := w, hold := hold, vector := none } }

/-- A scalar word that has completed and leaves the stream parked until something it started is done; with H = 1 the
hold follows (R90, R111). -/
def State.retireParked (s : State) (g : Group) (hold : Bool) (w : ScalarWait) : State :=
  s.setGroup { g with
    sc := { g.sc with spc := g.sc.spc + 4, wait := w, hold := hold, walked := [], vector := none }
    cnt := { g.cnt with scnt := g.cnt.scnt + 1 } }

/-- A parked word completes (R111): it counts, SPC moves on, and its own hold follows. -/
def State.complete (s : State) (g : Group) : State :=
  (s.retire g g.sc.hold (g.sc.spc + 4)).settle g.uid

/-- The wait of a word that had completed ends; its own hold follows. -/
def State.unpark (s : State) (g : Group) : State :=
  (s.setGroup { g with sc := { g.sc with wait := if g.sc.hold then .hold else .ready, hold := false } }).settle g.uid

/-- A deferred result of the scalar stream: its register becomes pending and the result is outstanding (R17, R18). -/
def Group.defer (g : Group) (r : ScalarResult) : Group :=
  let g := g.setPending r.reg
  { g with sc := { g.sc with outst := g.sc.outst ++ [r] } }

/-- The value of a deferred result that a unit answers with (R17). -/
def State.answer (s : State) (uid id : Nat) (x : Word) : State :=
  match s.group? uid with
  | none => s
  | some g => s.setGroup { g with sc := { g.sc with
      outst := g.sc.outst.map fun (r : ScalarResult) => if r.src == id then { r with value := some x } else r } }

/-- A deferred result whose value is known at issue. -/
def Group.deferValue (g : Group) (reg : Nat) (v : Word) : Group :=
  g.defer ⟨reg, 0, .ext 8 false, g.sc.spc, some v, none, none⟩

/-- The word of the instruction being executed, zero-extended, as ILLEGAL gives it (R62). -/
def illegalWord (hold : Bool) (i : Instr) : Word := (encodeWord hold i).setWidth 64

/-- The first pending register of a list (R20). -/
def Group.firstPending (g : Group) (regs : List Nat) : Option Nat := regs.find? fun r => g.pending r

/-- The words that reduced service does not execute (R458): `mma`, `accz`, `accv`, `accld`, `accst` and the packed-half
words. -/
def notInReduced : Instr → Bool
  | .mma _ _ _ | .accz _ _ | .accv _ _ _ | .accld _ | .accst _ | .pkadd _ | .pkmul _ | .pkfma _ | .pkmnx _ => true
  | _ => false

/-- A word is legal in its fields and in the module's service (R62, R72, R458). -/
def State.legal (s : State) (i : Instr) : Bool := i.wf && !(s.reduced && notInReduced i)

/-- The common course of a scalar word (R25 steps 2 and 3, R76): ILLEGAL for a field or a privilege it breaks, HOLDV for
the first pending register of `regs`, in field order; otherwise its own effect. -/
def scalarWordIf (i : Instr) (allowed : Group → Bool) (regs : List Nat) (body : State → Group → Bool → State)
    (s : State) : Out :=
  match s.issuer with
  | none => .fault .noIssuer
  | some (c, g) =>
    if !s.legal i || !allowed g then .next (s.trapScalar g 0x01 (illegalWord c.hold i))
    else
      match g.firstPending regs with
      | some r => .next (s.trapScalar g 0x02 (word r))
      | none => .next (body s g c.hold)

/-- A scalar word that both modes may execute, or supervisor mode only. -/
def scalarWord (i : Instr) (supervisor : Bool) (regs : List Nat) (body : State → Group → Bool → State) (s : State) : Out :=
  scalarWordIf i (fun g => !supervisor || g.sc.sup) regs body s

end Sys2Proof.Machine
end

