-- ==== Sys2Proof/Machine/Team.lean ====
section
/-! DEFINITION. What a team's groups share and what the end of a group does to it: barrier words (R265 to R267),
channels (R228), retirement and the kill (R115, R374). -/

namespace Sys2Proof.Machine

open Sys2Proof

-- Barrier words (R265 to R270).

/-- The barrier word at an offset of a core's scratchpad. -/
def State.barWord (s : State) (core a : Nat) : Word := word (leNat (memRead (s.core core).scratch a 8))

/-- The core with a word of its scratchpad written by its barrier unit, which clears the word's poison (R374). -/
def State.putBarWord (s : State) (core a : Nat) (x : Word) : State :=
  s.writeScratch core a (leBytes 8 x.toNat)

/-- The fields of a barrier word (R265). -/
def barExpected (w : Word) : Nat := bits w 15 0
def barArrived (w : Word) : Nat := bits w 31 16
def barPhase (w : Word) : Nat := bits w 47 32
def barAB (w : Word) : Nat := bits w 48 48
/-- A barrier word of its fields. -/
def barMake (ab phase arrived expected : Nat) : Word :=
  word (ab * 2 ^ 48 + phase % 65536 * 2 ^ 32 + arrived % 65536 * 2 ^ 16 + expected)

/-- The result word of a barrier wait (R266). -/
def barResult (phase status : Nat) : Word := word (phase % 65536 * 2 ^ 32 + status)

/-- The scope of the acquire of a completed phase: core, or the widest scope of a remote arrival counted in it (R269). -/
def Team.phaseScope (t : Team) (a phase : Nat) : Nat :=
  (t.remote.filter fun r => r.1 == a && r.2.1 == phase).foldl (fun m r => Nat.max m r.2.2) 1

/-- Every group parked on the word at `a` with a phase other than PHASE is released with the word's AB as status (R267). -/
def State.barRelease (s : State) (t : Team) (a : Nat) (w : Word) : State :=
  t.members.foldl (fun s u =>
    match s.group? u with
    | none => s
    | some g =>
      match g.sc.wait with
      | .barWait d o phase arw =>
        if o == a && phase != barPhase w then
          (s.acquires g false (t.phaseScope a phase) (s.told (.bar t.uid (a - t.sxbase) phase))).setGroup { g with sc := { g.sc with
            wait := .barDone d (barResult phase (barAB w)) (t.phaseScope a phase) arw } }
        else s
      | _ => s) s

/-- The completion test of R267 on the word at `a` of a team's window, after `more` arrivals (one or none); a test that
counts none completes a phase only when some arrival has been counted. `src` is the sender of BAR_DONE. -/
def State.barTest (s : State) (t : Team) (a more : Nat) (src : Sender) : State :=
  let w := s.barWord t.core a
  let arrived := barArrived w + more
  if t.killed + arrived < barExpected w || arrived == 0 then
    if more == 0 then s else s.putBarWord t.core a (barMake (barAB w) (barPhase w) arrived (barExpected w))
  else
    let ab := if arrived < barExpected w then 1 else barAB w
    let w' := barMake ab (barPhase w + 1) 0 (barExpected w)
    let s := (s.putBarWord t.core a w').hush fun m => m == .bar t.uid (a - t.sxbase) (barPhase w')
    let ctx := match s.grid? t.grid with
      | some d => d.ctx
      | none => 0
    let s := s.emitBy 0x08 src ab ((a - t.sxbase) % 2 ^ 32) ctx (dieOf t.core)
    s.barRelease t a w'

-- The end of a group.

/-- Channels at the end of a group (R228): closed where it was the producer, without a reader where it was the consumer. -/
def Team.endOf (t : Team) (g : Group) (role0 : Nat → Nat) : Team :=
  let is (role grp : Nat) : Bool := g.place.gid.toNat == role0 role + grp
  { t with
    channels := t.channels.map fun c =>
      { c with closed := c.closed || is c.prodRole c.prodGrp, deaf := c.deaf || is c.consRole c.consGrp } }

/-- The group index of the first group of a role (R144). -/
def LaunchRec.roleBase (r : LaunchRec) (n : Nat) : Nat := ((r.roles.take n).map fun x => x.count).foldl (· + ·) 0

/-- The group index of the first group of a role in a grid. -/
def State.roleBase (s : State) (grid role : Nat) : Nat :=
  match s.grid? grid with
  | some t => t.lrec.roleBase role
  | none => 0

/-- Plumb slots granted to a grid on a die go back to the stack's pool when its last team there has ended (R404). -/
def State.freeSlots (s : State) (die grid : Nat) : State :=
  if s.teams.any fun t => t.grid == grid && dieOf t.core == die then s
  else
    let d := s.die die
    let mine := d.granted.filter fun x => x.2 == grid
    if mine.isEmpty then s
    else
      let k := s.stack (stackOf die)
      let sat := mine.foldl (fun l x => put l x.1 0) k.satNew
      (s.setStack (stackOf die) { k with satNew := sat }).setDie die { d with granted := d.granted.filter (fun x => x.2 != grid) }

/-- A group leaves its core (R115, R374 step 6): its slot and resources are free, and a team whose last group has left ends. -/
def State.removeGroup (s : State) (g : Group) : State :=
  let s := { s with groups := s.groups.filter (fun x => x.uid != g.uid) }
  match s.team? g.place.team with
  | none => s
  | some t =>
    let t := t.endOf g (s.roleBase g.place.grid)
    let t := { t with members := t.members.filter fun u => u != g.uid }
    if t.members.isEmpty then
      ({ s with teams := s.teams.filter (fun x => x.uid != t.uid) }).freeSlots g.die g.place.grid
    else s.setTeam t

/-- Requests numbered as they enter a core's store order behind place `n`. -/
def numberFrom : (n : Nat) → List MemReq → List MemReq
  | _, [] => []
  | n, r :: t => { r with cso := n + 1 } :: numberFrom (n + 1) t

/-- The writes of a group that its queue still holds enter the core's order (R296). -/
def State.flushQueue (s : State) (g : Group) : State × Group :=
  let core := g.place.core
  let c := s.core core
  let n := s.order.drains
  let s := { s with order := { s.order with drains := n + g.sq.length } }
  (s.setCore core { c with reqs := c.reqs ++ numberFrom n g.sq }, { g with sq := [] })

/-- The reads of a group that have not been applied are discarded with their results (R374 step 1). -/
def State.dropReads (s : State) (g : Group) : State :=
  let core := g.place.core
  let c := s.core core
  s.setCore core { c with reqs := c.reqs.filter (fun r => !(r.who.g == g.uid && !r.writes && !r.isMarker)) }

/-- Steps 3, 4 and 6 of R374, which a discard shares (R361): latch arrivals and seals, operations that are not accepted, the team's killed count with the
tests that its rise makes, the channels, and the group's removal. -/
def State.killSteps (s : State) (g : Group) : State :=
  let s := (s.withdraw g.uid).sealAbort g
  let s := { s with
    mats := s.mats.filter (fun o => !(o.who.g == g.uid && !o.accepted))
    engs := s.engs.filter (fun o => !(o.who.g == g.uid && o.started.isNone)) }
  let s := match s.grid? g.place.grid with
    | some t => s.setGrid { t with killed := true }
    | none => s
  let s := match s.team? g.place.team with
    | none => s
    | some t =>
      let t := { t with killed := t.killed + 1 }
      let s := s.setTeam t
      let words := (t.members.filterMap fun u => (s.group? u).bind fun h =>
        match h.sc.wait with
        | .barWait _ a _ _ => if h.uid == g.uid then none else some a
        | _ => none).eraseDups
      words.foldl (fun s a => s.barTest t a 0 ⟨unitSource (dieOf t.core) 1 (t.core % 128), none⟩) s
  s.removeGroup g

/-- Where an error is reported from: the unit's source, the tag and the payload of ECC_UNCORR (R379, R380), and the sector of an
error in memory. -/
structure ErrorReport where
  src     : BitVec 16
  tag     : Nat
  payload : Nat
  sector  : Option Nat

/-- The report of an error in a sector at its home (R221). -/
def sectorReport (pa : Nat) : ErrorReport := ⟨homeSource pa, 0, pa % 2 ^ 32, some (pa / 128)⟩
/-- The report of an error in a word of a core's pool. -/
def poolReport (core w : Nat) : ErrorReport := ⟨unitSource (dieOf core) 1 (core % 128), 2, w % 2 ^ 32, none⟩
/-- The report of an error in a register of a core's pool. -/
def registerReport (core r : Nat) : ErrorReport := ⟨unitSource (dieOf core) 1 (core % 128), 3, r % 2 ^ 32, none⟩

/-- An ECC_UNCORR event, or ECC_CORR; an error of a home's cache has a tag of its own (R380). -/
def State.emitError (s : State) (e : ErrorReport) (corrected : Bool) (ctx : Nat) : State :=
  let die := if e.src.getLsbD 10 then 16 else bits e.src 15 12
  let tag := if e.sector.any s.mem.cached.contains then 1 else e.tag
  s.emit (if corrected then 0x11 else 0x12) e.src tag e.payload ctx die

/-- Registers of which one copy holds an error are read (R373): the other copy is used, the bad one is rewritten, and ECC_CORR is
emitted for each. -/
def State.repairCopies (s : State) (g : Group) (ks : List Nat) : State × Group :=
  let g := { g with ln := { g.ln with badOne := g.ln.badOne.filter fun k => !ks.contains k } }
  (ks.foldl (fun s k => s.emitError (registerReport g.place.core (k / 32)) true g.place.ctx) (s.setGroup g), g)

/-- A kill (R374): outstanding results are discarded, queued stores are performed, and the group ends with a KILL entry of
a cause at `addr`; `pc` is the consuming instruction. -/
def State.killFor (s : State) (g : Group) (lane : Bool) (pc addr : Word) (cause : Nat) : State :=
  match s.group? g.uid with
  | none => s
  | some g =>
    let s := s.dropReads g
    let (s, g) := s.flushQueue g
    let s := (s.setGroup g).killSteps g
    s.log 3 cause (if lane then 1 else 0) (g.origin (s.worldOf g) lane pc) pc addr

/-- The kill of a group that consumed an error which cannot be corrected (R374). -/
def State.kill (s : State) (g : Group) (lane : Bool) (pc addr : Word) (e : ErrorReport) : State :=
  (s.killFor g lane pc addr 0x18).emitError e false g.place.ctx

/-- Fault records that no `cpyw` or `yieldc` reported before the group ended are logged as DEFER (R363). -/
def State.logTokens (s : State) (g : Group) : State :=
  g.tokens.foldl (fun s t =>
    match t.fault with
    | none => s
    | some f => s.log 1 f.cause.toNat 2 (g.origin (s.worldOf g) false f.pc) f.pc f.value) s

/-- What a `gwait` of the grid acquires of a group that ends: what the group has seen (R163). -/
def State.tellEnd (s : State) (g : Group) : State :=
  s.tell (.grid g.place.grid) [⟨g.agent, 4, viewKnown (s.order.known.filter fun k => k.g == g.uid)⟩]

/-- A group retires (R115): its queued stores go on, its seals close with STATUS 1 (R451) and its slot is free. -/
def State.retireGroup (s : State) (g : Group) : State :=
  let (s, g) := s.flushQueue g
  let s := ((s.setGroup g).sealAbort g).tellEnd g
  (s.logTokens g).removeGroup g

end Sys2Proof.Machine
end

