-- ==== Sys2Proof/Machine/Operands.lean ====
section
/-! DEFINITION. The operands of lane words (R66 to R70, R171, R355), the checks that every lane word makes (R72) and the
forms that lane words take: results written at once, results that return later, and mask results (R171 to R177). -/

namespace Sys2Proof.Machine

open Sys2Proof

-- Lane registers.

/-- The key of a lane's copy of a lane register. -/
def laneKey (r lane : Nat) : Nat := 32 * r + lane

/-- Whether a specifier names a handler register (R355). -/
def namesHandler (sup : Bool) (r : Nat) : Bool := sup && decide (r < 8)

/-- The number by which pending bits and errors name a register: the handler registers follow v255 (R175). -/
def regNumber (sup : Bool) (r : Nat) : Nat := if namesHandler sup r then 256 + r else r

/-- v[r] of a lane as a fragment of mode `sup` reads it (R355). -/
def Lanes.readV (l : Lanes) (sup : Bool) (r lane : Nat) : W32 :=
  if namesHandler sup r then cellGet l.hv (laneKey r lane) else cellGet l.v (laneKey r lane)

/-- v[r] of a lane written; an error in the old value goes with it. -/
def Lanes.writeV (l : Lanes) (sup : Bool) (r lane : Nat) (x : W32) : Lanes :=
  let keep (k : Nat) : Bool := k != laneKey (regNumber sup r) lane
  let l := { l with bad := l.bad.filter keep, badOne := l.badOne.filter keep }
  if namesHandler sup r then { l with hv := cellSet l.hv (laneKey r lane) x }
  else { l with v := cellSet l.v (laneKey r lane) x }

/-- `n` registers from r written with a value of 32 × n bits, the low half in the lowest register (R68). -/
def Lanes.writeWide (l : Lanes) (sup : Bool) (r : Nat) (lane : Nat) (x : BitVec 128) : (n : Nat) → Lanes
  | 0 => l
  | n + 1 => (l.writeV sup r lane (x.setWidth 32)).writeWide sup (r + 1) lane (x >>> 32) n

/-- Mask register `m` of the lane unit; m0 reads the live lanes (R146). -/
def Lanes.mask (l : Lanes) (m : Nat) : BitVec 32 := if m == 0 then l.live else l.m.toList.getD m 0

/-- Mask bit `m` of a lane written (R171). -/
def Lanes.setMask (l : Lanes) (m lane : Nat) (x : Bool) : Lanes :=
  let b : BitVec 32 := 1#32 <<< lane
  if h : m < 8 then { l with m := l.m.set m (if x then l.m[m] ||| b else l.m[m] &&& ~~~b) h } else l

-- The word in execution.

/-- A lane word in execution: the issue, the group, the word's fields and its active lanes in order. -/
structure LaneOp where
  cur : Cur
  g   : Group
  w   : LaneW
  act : List Nat
  deriving DecidableEq, Repr

/-- The lanes that a word's mask fields select of the issuing gang (R66). -/
def selected (c : Cur) (l : Lanes) (w : LaneW) : BitVec 32 :=
  let m := if w.msel = 0 then BitVec.allOnes 32 else l.mask w.msel.toNat
  (if w.minv then ~~~m else m) &&& c.lanes

/-- Frame(n): an s register of the running block's uniform frame (R68, R74). -/
def Lanes.frame (l : Lanes) (n : Nat) : Word :=
  match l.cur with
  | some b => b.frame.toList.getD n 0
  | none => 0

/-- A 32-bit operand (R68). -/
def LaneOp.src (o : LaneOp) (f : BitVec 9) (i : Nat) : W32 :=
  let n := f.toNat
  if n < 256 then o.g.ln.readV o.cur.sup n i
  else if n < 320 then (o.g.ln.frame (n - 256)).setWidth 32
  else if n == 320 then o.w.imm
  else if n == 321 then half i
  else if n == 322 then half (i / 4)
  else 0

/-- An operand of a 64-bit position (R68). -/
def LaneOp.src2 (o : LaneOp) (f : BitVec 9) (i : Nat) : Word :=
  let n := f.toNat
  if n < 256 then o.g.ln.readV o.cur.sup (n + 1) i ++ o.g.ln.readV o.cur.sup n i
  else if n < 320 then o.g.ln.frame (n - 256)
  else if n == 320 then o.w.imm.signExtend 64
  else if n == 321 then word i
  else if n == 322 then word (i / 4)
  else 0

/-- An operand of a 128-bit position (R68). -/
def LaneOp.src4 (o : LaneOp) (f : BitVec 9) (i : Nat) : BitVec 128 :=
  let n := f.toNat
  if n < 256 then
    o.g.ln.readV o.cur.sup (n + 3) i ++ o.g.ln.readV o.cur.sup (n + 2) i ++ o.g.ln.readV o.cur.sup (n + 1) i
      ++ o.g.ln.readV o.cur.sup n i
  else 0

/-- An operand of a position of `n` registers. -/
def LaneOp.srcWide (o : LaneOp) (f : BitVec 9) (i n : Nat) : BitVec 128 :=
  if n == 1 then (o.src f i).setWidth 128 else if n == 2 then (o.src2 f i).setWidth 128 else o.src4 f i

-- The checks of R72.

/-- Registers that a source position takes (R68). -/
def srcCount : SrcKind → Nat
  | .none => 0
  | .w32 | .vreg => 1
  | .w64 => 2
  | .w128 => 4

/-- Registers that a destination takes (R69). -/
def dstCount : DstKind → Nat
  | .none | .mask => 0
  | .w32 => 1
  | .w64 => 2
  | .w128 => 4

/-- The fields of a word that name v registers and how many each names, in the order d, a, b, c. -/
def positions (p : LaneSpec) (w : LaneW) : List (Nat × Nat) :=
  [(w.d.toNat, dstCount p.d), (w.a.toNat, srcCount p.a), (w.b.toNat, srcCount p.b), (w.c.toNat, srcCount p.c)].filter fun x =>
    x.2 != 0 && decide (x.1 < 256)

/-- R70: the first specifier whose highest register lies beyond the allotment. -/
def beyondAllotment (vregs : Nat) (ps : List (Nat × Nat)) : Option Nat :=
  (ps.find? fun x => decide (vregs ≤ x.1 + x.2 - 1)).map fun x => x.1

/-- R177: the first specifier that names a pending register. -/
def Lanes.firstPending (l : Lanes) (sup : Bool) (ps : List (Nat × Nat)) : Option Nat :=
  (ps.find? fun x => (List.range x.2).any fun k => l.pend.getLsbD (regNumber sup (x.1 + k))).map fun x => x.1

/-- The first register that an active lane reads and whose error cannot be corrected (R374). -/
def LaneOp.firstBad (o : LaneOp) (p : LaneSpec) : Option Nat :=
  let src := [(o.w.a.toNat, srcCount p.a), (o.w.b.toNat, srcCount p.b), (o.w.c.toNat, srcCount p.c)].filter fun x =>
    decide (x.1 < 256)
  (src.find? fun x => (List.range x.2).any fun k =>
    o.act.any fun i => o.g.ln.bad.contains (laneKey (regNumber o.cur.sup (x.1 + k)) i)).map fun x => x.1

/-- The registers that active lanes read of which one copy holds an error (R373). -/
def LaneOp.oneBad (o : LaneOp) (p : LaneSpec) : List Nat :=
  let src := [(o.w.a.toNat, srcCount p.a), (o.w.b.toNat, srcCount p.b), (o.w.c.toNat, srcCount p.c)].filter fun x =>
    decide (x.1 < 256)
  (src.flatMap fun x => (List.range x.2).flatMap fun k =>
    (o.act.map fun i => laneKey (regNumber o.cur.sup (x.1 + k)) i).filter fun n => o.g.ln.badOne.contains n).eraseDups

/-- TVAL of ILLEGAL for a lane word: its bits [95:32] (R72). -/
def laneIllegal (hold : Bool) (i : Instr) : Word := (encodeLane hold i >>> 32).setWidth 64

/-- The group with one more gang issue counted (R105, LCNT). -/
def Group.countGang (g : Group) : Group := { g with cnt := { g.cnt with lcnt := g.cnt.lcnt + 1 } }

/-- A cause that a lane word raises at group level (R351, R72). -/
def State.laneTrap (s : State) (o : LaneOp) (cause : Nat) (tval : Word) : State :=
  s.trapLane o.g.countGang cause tval o.cur.lanes o.cur.lpc

/-- The common course of a lane word (R72 steps 2 to 4): ILLEGAL, ALLOT, HOLDV, the kill of a group that reads an error
(R374) or the repair of a register of which one copy is bad (R373), and then its own effect. `also` gives the use of the fields in the group's present state, or none where the
word is not legal in it. -/
def laneWordIf (i : Instr) (also : State → LaneOp → LaneSpec → Option LaneSpec) (body : State → LaneOp → State)
    (s : State) : Out :=
  match s.issuer, laneSpec i with
  | some (c, g), some (w, p) =>
    let o : LaneOp := ⟨c, g, w, lanesOf (selected c g.ln w)⟩
    match if s.legal i then also s o p else none with
    | none => .next (s.laneTrap o 0x01 (laneIllegal c.hold i))
    | some p =>
      let ps := positions p w
      match beyondAllotment g.role.vregs ps with
      | some f => .next (s.laneTrap o 0x04 (word f))
      | none =>
        match g.ln.firstPending c.sup ps with
        | some f => .next (s.laneTrap o 0x02 (word f))
        | none =>
          match o.firstBad p with
          | some f => .next (s.kill g true (c.lpc.setWidth 64) (word f) (registerReport g.place.core f))
          | none =>
            let ks := o.oneBad p
            if ks.isEmpty then .next (body s o)
            else
              let (s, g) := s.repairCopies g ks
              .next (body s { o with g := g })
  | _, _ => .fault .noIssuer

/-- A lane word that every fragment may execute. -/
def laneWord (i : Instr) (body : State → LaneOp → State) (s : State) : Out :=
  laneWordIf i (fun _ _ p => some p) body s

/-- A lane word that only a fragment in the handler may execute (R263, R264). -/
def handlerWord (i : Instr) (body : State → LaneOp → State) (s : State) : Out :=
  laneWordIf i (fun _ o p => if o.cur.sup then some p else none) body s

-- The end of a lane word.

/-- A lane unit whose word is done: with H = 1 it waits (R176). -/
def Lanes.issued (l : Lanes) (hold : Bool) : Lanes :=
  { l with wait := if hold then .hold else .ready, hold := false, walked := [] }

/-- The fragments of the issuing gang moved on by `f`. -/
def Lanes.moveGang (l : Lanes) (c : Cur) (f : Frag → List Frag) : Lanes :=
  { l with frags := l.frags.flatMap fun x => if x.inGang c.sup c.lpc then f x else [x] }

/-- A lane word that has completed: the gang stands at the next LPC and the issue is counted. -/
def State.laneRetire (s : State) (c : Cur) (g : Group) : State :=
  let l := (g.ln.moveGang c fun f => [{ f with lpc := f.lpc + 1 }]).issued c.hold
  s.setGroup { g with ln := l }.countGang

/-- A lane word that has completed but whose lane unit stays in a wait; with H = 1 the hold follows (R253, R258). -/
def State.laneRetireParked (s : State) (c : Cur) (g : Group) (w : LaneWait) : State :=
  let l := g.ln.moveGang c fun f => [{ f with lpc := f.lpc + 1 }]
  s.setGroup { g with ln := { l with wait := w, hold := c.hold, walked := [] } }.countGang

/-- Whether a word in this wait has not issued and issues again. -/
def LaneWait.reissues (w : LaneWait) : Bool :=
  match w with
  | .walk _ | .stall _ => true
  | _ => false

/-- A lane word that waits. Where it has yet to issue, its fragments have waited one opportunity more (R150). -/
def State.laneStall (s : State) (g : Group) (w : LaneWait) : State :=
  let g := if w.reissues then g.unnoteWord true else g
  let gang (f : Frag) : Bool := w.reissues && s.sched.cur.any fun c => c.g == g.uid && f.inGang c.sup c.lpc
  s.setGroup { g with ln := { g.ln with
    wait := w, frags := g.ln.frags.map fun f => if gang f then { f with waited := f.prior } else f } }

/-- Flags raised by a lane word of the running block (R39). -/
def Group.flagLanes (g : Group) (f : Flags) : Group := { g with ln := { g.ln with runFl := g.ln.runFl ||| f } }

/-- The pending bits of `n` registers from `r` set, with or without an active lane (R175). -/
def Lanes.setPending (l : Lanes) (sup : Bool) (r n : Nat) : Lanes :=
  { l with pend := (List.range n).foldl (fun p k => p ||| (1#264 <<< regNumber sup (r + k))) l.pend }

/-- A deferred lane result (R174, R175). -/
def Group.deferLanes (g : Group) (c : Cur) (r n : Nat) (pieces : List LanePiece) : Group :=
  let l := g.ln.setPending c.sup r n
  { g with ln := { l with outst := l.outst ++ [⟨r, n, namesHandler c.sup r, c.lpc, pieces⟩] } }

/-- A piece whose value is known at issue. -/
def knownPiece (lane : Nat) (x : BitVec 128) : LanePiece := ⟨lane, 0, 0, .ext 16 false, some x, none, none⟩

/-- The flags of every lane's result, ORed together (R39). -/
def joinFlags {α : Type} (rs : List (Nat × α × Flags)) : Flags := rs.foldl (fun k r => k ||| r.2.2) 0

/-- A lane word whose `n` result registers are written at once: `f` gives a lane's result and flags from the operands as
they stand before any lane is written. -/
def laneNow (i : Instr) (n : Nat) (f : LaneOp → Nat → BitVec 128 × Flags) (s : State) : Out :=
  laneWord i (fun s o =>
    let rs := o.act.map fun k => (k, f o k)
    let l := rs.foldl (fun l r => l.writeWide o.cur.sup o.w.d.toNat r.1 r.2.1 n) o.g.ln
    s.laneRetire o.cur ({ o.g with ln := l }.flagLanes (joinFlags rs))) s

/-- A lane word whose `n` result registers return later. -/
def laneLater (i : Instr) (n : Nat) (f : LaneOp → Nat → BitVec 128 × Flags) (s : State) : Out :=
  laneWord i (fun s o =>
    let rs := o.act.map fun k => (k, f o k)
    let g := o.g.deferLanes o.cur o.w.d.toNat n (rs.map fun r => knownPiece r.1 r.2.1)
    s.laneRetire o.cur (g.flagLanes (joinFlags rs))) s

/-- A lane word that writes bits of a mask register. -/
def laneMask (i : Instr) (f : LaneOp → Nat → Bool × Flags) (s : State) : Out :=
  laneWord i (fun s o =>
    let rs := o.act.map fun k => (k, f o k)
    let l := rs.foldl (fun l r => l.setMask o.w.d.toNat r.1 r.2.1) o.g.ln
    s.laneRetire o.cur ({ o.g with ln := l }.flagLanes (joinFlags rs))) s

/-- A 32-bit result without flags. -/
def plain (x : W32) : BitVec 128 × Flags := (x.setWidth 128, 0)
/-- A 64-bit result without flags. -/
def plain2 (x : Word) : BitVec 128 × Flags := (x.setWidth 128, 0)

end Sys2Proof.Machine
end

