-- ==== Sys2Proof/Machine/LaneInt.lean ====
section
/-! DEFINITION. The lane integer words (R178 to R184). -/

namespace Sys2Proof.Machine

open Sys2Proof

/-- A 32-bit form of one source (R178). -/
def int1 (i : Instr) (f : LaneW → W32 → W32) (s : State) : Out :=
  laneNow i 1 (fun o k => plain (f o.w (o.src o.w.a k))) s
/-- A 32-bit form of two sources (R178). -/
def int2 (i : Instr) (f : LaneW → W32 → W32 → W32) (s : State) : Out :=
  laneNow i 1 (fun o k => plain (f o.w (o.src o.w.a k) (o.src o.w.b k))) s
/-- A 32-bit form of three sources (R178). -/
def int3 (i : Instr) (f : LaneW → W32 → W32 → W32 → W32) (s : State) : Out :=
  laneNow i 1 (fun o k => plain (f o.w (o.src o.w.a k) (o.src o.w.b k) (o.src o.w.c k))) s

/-- Bit `n` of md8. -/
def mdBit (w : LaneW) (n : Nat) : Bool := w.md8.getLsbD n

/-- An exact sum or difference under the modifier of `iadd` and `isub`: wrapped, or held to the I32 range from the
signed values, or to the N32 range from the natural ones (R178). -/
def addForm (w : LaneW) (minus : Bool) (a b : W32) : W32 :=
  let comb (x y : Int) : Int := if minus then x - y else x + y
  match w.md8.toNat with
  | 1 => satSigned 32 (comb a.toInt b.toInt)
  | 2 => satNatural 32 (comb a.toNat b.toNat)
  | _ => if minus then a - b else a + b

/-- `iadd` (R178). -/
def execIadd (w : LaneW) (s : State) : Out := int2 (.iadd w) (fun w a b => addForm w false a b) s
/-- `isub` (R178). -/
def execIsub (w : LaneW) (s : State) : Out := int2 (.isub w) (fun w a b => addForm w true a b) s
/-- `imul` (R178). -/
def execImul (w : LaneW) (s : State) : Out := int2 (.imul w) (fun _ a b => a * b) s
/-- `imulh` (R178). -/
def execImulh (w : LaneW) (s : State) : Out :=
  int2 (.imulh w) (fun w a b => if mdBit w 0 then mulHighNatural a b else mulHigh a b) s
/-- `imad` (R178). -/
def execImad (w : LaneW) (s : State) : Out := int3 (.imad w) (fun _ a b c => a * b + c) s
/-- `imin` (R178). -/
def execImin (w : LaneW) (s : State) : Out :=
  int2 (.imin w) (fun w a b => if mdBit w 0 then minNatural a b else minSigned a b) s
/-- `imax` (R178). -/
def execImax (w : LaneW) (s : State) : Out :=
  int2 (.imax w) (fun w a b => if mdBit w 0 then maxNatural a b else maxSigned a b) s
/-- `iabs` (R178). -/
def execIabs (w : LaneW) (s : State) : Out :=
  int1 (.iabs w) (fun w a =>
    if mdBit w 0 then satSigned 32 (Int.ofNat a.toInt.natAbs) else if a.slt 0 then -a else a) s
/-- `and` (R178). -/
def execLaneAnd (w : LaneW) (s : State) : Out := int2 (.laneAnd w) (fun _ a b => a &&& b) s
/-- `or` (R178). -/
def execLaneOr (w : LaneW) (s : State) : Out := int2 (.laneOr w) (fun _ a b => a ||| b) s
/-- `xor` (R178). -/
def execLaneXor (w : LaneW) (s : State) : Out := int2 (.laneXor w) (fun _ a b => a ^^^ b) s

/-- The bitwise function of three words that a table gives, `a` being the lowest bit of the index (R178). -/
def lookupBits (f : BitVec 8) (a b c : W32) : W32 :=
  (List.range 32).foldl (fun x k =>
    let bit (y : W32) : Nat := if y.getLsbD k then 1 else 0
    if f.getLsbD (bit a + 2 * bit b + 4 * bit c) then x ||| (1#32 <<< k) else x) 0

/-- `blut` (R178). -/
def execBlut (w : LaneW) (s : State) : Out := int3 (.blut w) (fun w a b c => lookupBits w.md8 a b c) s
/-- `shl` (R178). -/
def execLaneShl (w : LaneW) (s : State) : Out := int2 (.laneShl w) (fun _ a b => a <<< bits b 4 0) s
/-- `shr` (R178). -/
def execLaneShr (w : LaneW) (s : State) : Out := int2 (.laneShr w) (fun _ a b => a >>> bits b 4 0) s
/-- `sar` (R178). -/
def execLaneSar (w : LaneW) (s : State) : Out := int2 (.laneSar w) (fun _ a b => a.sshiftRight (bits b 4 0)) s
/-- `rol` (R178). -/
def execLaneRol (w : LaneW) (s : State) : Out := int2 (.laneRol w) (fun _ a b => a.rotateLeft (bits b 4 0)) s
/-- `popc` (R178). -/
def execLanePopc (w : LaneW) (s : State) : Out := int1 (.lanePopc w) (fun _ a => half (countOnes a 32)) s
/-- `clz` (R178). -/
def execLaneClz (w : LaneW) (s : State) : Out := int1 (.laneClz w) (fun _ a => half (leadingZeros a 32)) s
/-- `brev` (R178). -/
def execLaneBrev (w : LaneW) (s : State) : Out := int1 (.laneBrev w) (fun _ a => a.reverse) s

/-- Position and length of a bit field (R179). -/
def fieldAt (ctl : W32) : Nat × Nat := let p := bits ctl 4 0; (p, min (bits ctl 13 8) (32 - p))

/-- `bfe` (R179). -/
def extractField (signed : Bool) (a ctl : W32) : W32 :=
  let (pos, len) := fieldAt ctl
  let f := a.toNat / 2 ^ pos % 2 ^ len
  if signed && len != 0 && f / 2 ^ (len - 1) == 1 then BitVec.ofInt 32 ((f : Int) - 2 ^ len) else half f

/-- `bfi` (R179). -/
def insertField (a b ctl : W32) : W32 :=
  let (pos, len) := fieldAt ctl
  let m : W32 := half ((2 ^ len - 1) * 2 ^ pos)
  (b &&& ~~~m) ||| (a <<< pos &&& m)

/-- `bfe` (R179). -/
def execBfe (w : LaneW) (s : State) : Out := int2 (.bfe w) (fun w a b => extractField (mdBit w 0) a b) s
/-- `bfi` (R179). -/
def execBfi (w : LaneW) (s : State) : Out := int3 (.bfi w) (fun _ a b c => insertField a b c) s

/-- The combination of a condition with the prior mask bit (R180). -/
def combine (code : Nat) (old t : Bool) : Bool :=
  match code with
  | 1 => old && t
  | 2 => old || t
  | 3 => old != t
  | _ => t

/-- The prior bit of the mask register that a word writes. -/
def LaneOp.oldBit (o : LaneOp) (i : Nat) : Bool := (o.g.ln.mask o.w.d.toNat).getLsbD i

/-- `isetp` (R180). -/
def execIsetp (w : LaneW) (s : State) : Out :=
  laneMask (.isetp w) (fun o k =>
    let code := bits o.w.fn6 2 0
    let t := if mdBit o.w 0 then condition code (o.src2 o.w.a k) (o.src2 o.w.b k)
      else condition code (o.src o.w.a k) (o.src o.w.b k)
    (combine (bits o.w.fn6 4 3) (o.oldBit k) t, 0)) s

/-- `sel` (R181). -/
def execLaneSel (w : LaneW) (s : State) : Out :=
  laneNow (.laneSel w) 1 (fun o k =>
    let m := (o.g.ln.mask (bits o.w.fn6 2 0)).getLsbD k
    plain (if m != o.w.fn6.getLsbD 3 then o.src o.w.a k else o.src o.w.b k)) s

/-- `mov` (R178). -/
def execMov (w : LaneW) (s : State) : Out := int1 (.mov w) (fun _ a => a) s
/-- `iadd64` (R178). -/
def execIadd64 (w : LaneW) (s : State) : Out :=
  laneNow (.iadd64 w) 2 (fun o k => plain2 (o.src2 o.w.a k + o.src2 o.w.b k)) s
/-- `imul64` (R178). -/
def execImul64 (w : LaneW) (s : State) : Out :=
  laneLater (.imul64 w) 2 (fun o k => plain2 (o.src2 o.w.a k * o.src2 o.w.b k)) s

/-- Registers of the result of `idiv` and `irem` (R178). -/
def divCount (w : LaneW) : Nat := if w.md8.getLsbD 1 then 2 else 1

/-- `idiv` or `irem` over words or pairs (R32, R178). -/
def divForm (o : LaneOp) (k : Nat) (sg ng : (n : Nat) → BitVec n → BitVec n → BitVec n) : BitVec 128 × Flags :=
  if mdBit o.w 1 then
    let a := o.src2 o.w.a k
    let b := o.src2 o.w.b k
    plain2 (if mdBit o.w 0 then ng 64 a b else sg 64 a b)
  else
    let a := o.src o.w.a k
    let b := o.src o.w.b k
    plain (if mdBit o.w 0 then ng 32 a b else sg 32 a b)

/-- `idiv` (R32, R178). -/
def execIdiv (w : LaneW) (s : State) : Out :=
  laneLater (.idiv w) (divCount w) (fun o k => divForm o k (fun _ => divSigned) (fun _ => divNatural)) s
/-- `irem` (R32, R178). -/
def execIrem (w : LaneW) (s : State) : Out :=
  laneLater (.irem w) (divCount w) (fun o k => divForm o k (fun _ => remSigned) (fun _ => remNatural)) s

/-- Byte `j` of a word as I8 or N8. -/
def byteVal (natural : Bool) (x : W32) (j : Nat) : Int :=
  let b := x.extractLsb' (8 * j) 8
  if natural then b.toNat else b.toInt

/-- `dot4` (R182). -/
def dotFour (w : LaneW) (a b c : W32) : W32 :=
  let t (j : Nat) : Int := byteVal (mdBit w 0) a j * byteVal (mdBit w 1) b j
  let sum := c.toInt + (t 0 + t 1 + t 2 + t 3)
  if mdBit w 2 then satSigned 32 sum else BitVec.ofInt 32 sum

/-- `dot4` (R182). -/
def execDot4 (w : LaneW) (s : State) : Out := int3 (.dot4 w) dotFour s

/-- `bsel` (R183). -/
def selectBytes (a b c : W32) : W32 :=
  let all : BitVec 64 := b ++ a
  let byte (j : Nat) : W32 :=
    if c.getLsbD (8 * j + 7) then 0
    else ((all.extractLsb' (8 * bits c (8 * j + 2) (8 * j)) 8).setWidth 32) <<< (8 * j)
  byte 0 ||| byte 1 ||| byte 2 ||| byte 3

/-- `bsel` (R183). -/
def execBsel (w : LaneW) (s : State) : Out := int3 (.bsel w) (fun _ a b c => selectBytes a b c) s

/-- `lea` (R184). -/
def execLea (w : LaneW) (s : State) : Out :=
  laneNow (.lea w) 2 (fun o k =>
    let b := o.src o.w.b k
    let x : Word := if mdBit o.w 3 then b.setWidth 64 else b.signExtend 64
    plain2 (o.src2 o.w.a k + x <<< bits o.w.md8 2 0)) s

end Sys2Proof.Machine
end

