-- ==== Sys2Proof/Machine/LaneControl.lean ====
section
/-! DEFINITION. The lane control words (R202 to R207) and the return from the lane supervisor handler (R264). -/

namespace Sys2Proof.Machine

open Sys2Proof

/-- A part of a fragment, without an empty part (R148). -/
def Frag.part (f : Frag) (lanes : BitVec 32) (lpc : BitVec 32) : List Frag :=
  let m := f.lanes &&& lanes
  if m = 0 then []
  else [{ f with lanes := m, lpc := lpc, faults := f.faults.filter fun x => m.getLsbD x.lane }]

/-- `bra` and `bra.u` (R202). -/
def execBra (w : LaneW) (s : State) : Out :=
  laneWord (.bra w) (fun s o =>
    let t := selected o.cur o.g.ln o.w
    if o.w.u && t != 0 && t != o.cur.lanes then s.laneTrap o 0x03 (t.setWidth 64)
    else
      let l := o.g.ln.moveGang o.cur fun f => f.part t o.w.imm ++ f.part (~~~t) (f.lpc + 1)
      s.setGroup { o.g with ln := l.issued o.cur.hold }.countGang) s

/-- `regang` and `regang.u` (R152, R203): the fragments park at the word. -/
def execRegang (w : LaneW) (s : State) : Out :=
  laneWord (.regang w) (fun s o =>
    let l := o.g.ln.moveGang o.cur fun f => [{ f with st := .regang o.w.u }]
    s.setGroup { o.g with ln := l.issued o.cur.hold }.countGang) s

/-- `lend` (R147, R204): the gang's lanes stop being live. -/
def execLend (w : LaneW) (s : State) : Out :=
  laneWord (.lend w) (fun s o =>
    let l := o.g.ln.moveGang o.cur fun _ => []
    s.setGroup { o.g with ln := l.issued o.cur.hold }.countGang.wake) s

/-- `lnop` (R204). -/
def execLnop (w : LaneW) (s : State) : Out := laneWord (.lnop w) (fun s o => s.laneRetire o.cur o.g) s

/-- The fragments that leave the handler, by the LPC that their lanes' faults recorded (R264, R357). -/
def Frag.leaveHandler (f : Frag) : List Frag :=
  let lpcs := (f.faults.map fun x => x.lpc).eraseDups
  lpcs.flatMap fun p =>
    let m := maskOf fun i => f.faults.any fun x => x.lane == i && x.lpc == p
    { f with sup := false, faults := [] }.part m p

/-- `fresume` (R264). -/
def execFresume (w : LaneW) (s : State) : Out :=
  handlerWord (.fresume w) (fun s o =>
    let l := o.g.ln.moveGang o.cur Frag.leaveHandler
    s.setGroup { o.g with ln := l.issued o.cur.hold }.countGang) s

/-- `evtl` (R205). -/
def execEvtl (w : LaneW) (s : State) : Out :=
  laneWord (.evtl w) (fun s o =>
    let s := s.laneRetire o.cur o.g
    match o.act with
    | [] => s
    | i :: _ => s.emitG o.g 0x10 (bits o.w.imm 15 0) (o.src o.w.a i).toNat) s

/-- `ckacc` (R206): the sum joins those of the running block. -/
def execCkacc (w : LaneW) (s : State) : Out :=
  laneWord (.ckacc w) (fun s o =>
    let n := bits o.w.fn6 1 0
    let sum := o.act.foldl (fun (x : Word) i =>
      let a := o.src o.w.a i
      x + if mdBit o.w 0 then a.setWidth 64 else a.signExtend 64) 0
    let k := o.g.ln.runK
    let k := if h : n < 4 then k.set n (k[n] + sum) h else k
    s.laneRetire o.cur { o.g with ln := { o.g.ln with runK := k } }) s

/-- The lane fault that a gang in the handler escalates: that of its lowest lane (R239, R357). -/
def Lanes.lowestFault (l : Lanes) (c : Cur) : Option LaneFault :=
  let fs := (l.frags.filter fun f => f.inGang c.sup c.lpc).flatMap fun f => f.faults
  fs.foldl (fun b x =>
    match b with
    | none => some x
    | some y => if x.lane < y.lane then some x else some y) none

/-- `ltrap` (R207, R357): SWTRAP, with the gang at the next word; in the handler, the fault that it was entered for, with
the fragments back in user mode at the faulting word. -/
def execLtrap (w : LaneW) (s : State) : Out :=
  laneWord (.ltrap w) (fun s o =>
    let g := o.g.countGang
    match if o.cur.sup then g.ln.lowestFault o.cur else none with
    | some f =>
      let l := g.ln.moveGang o.cur Frag.leaveHandler
      s.trapLane { g with ln := l } f.cause.toNat f.va o.cur.lanes f.lpc
    | none =>
      let l := g.ln.moveGang o.cur fun f => [{ f with lpc := f.lpc + 1 }]
      s.trapLane { g with ln := l } 0x09 (o.w.imm.setWidth 64) o.cur.lanes o.cur.lpc) s

end Sys2Proof.Machine
end

