-- ==== Sys2Proof/Machine/ScalarMem.lean ====
section
/-! DEFINITION. The scalar memory words: loads and stores, scratch accesses, ordered accesses, atomics and fences
(R88 to R97). -/

namespace Sys2Proof.Machine

open Sys2Proof

/-- Steps 4 to 6 of R25 for a global access of `n` bytes: the leaf, or the state after the trap or at the start of the
walk (R23). -/
def State.globalAccess (s : State) (g : Group) (ea : Word) (n : Nat) (acc : Acc) : Except State Leaf :=
  if ea.toNat % n != 0 then .error (s.trapScalar g 0x05 ea)
  else
    match s.xlate g.place.core g.place.ctx g.sc.walked ea with
    | none => .error (s.park g false (.walk ⟨ea, .walking, false⟩))
    | some (.fault _) => .error (s.trapScalar g 0x10 ea)
    | some (.leaf l) =>
      match l.check acc (s.worldOf g) with
      | some c => .error (s.trapScalar g c.toNat ea)
      | none => .ok l

/-- The request of a scalar access. -/
def State.scalarReq (s : State) (g : Group) (id slots : Nat) (scratch : Bool) (addr : Nat) (va : Word) (sc : Bool)
    (rel : Option Nat) (op : MemOp) : MemReq :=
  ⟨id, g.origin (s.worldOf g) false g.sc.spc, g.seq, g.sc.laneSeq, g.seq, slots, scratch, addr, va, sc, rel, 0, op⟩

/-- A scalar word whose access is under way: an access to an SC page parks the stream until it completes (R90). -/
def State.accessed (s : State) (g : Group) (hold : Bool) (sc : Bool) (id : Nat) : State :=
  if sc then s.retireParked g hold (.scAccess id) else s.retire g hold (g.sc.spc + 4)

/-- A read sent to memory whose value is deferred into register `r` (R17, R89). -/
def State.sendRead (s : State) (g : Group) (hold : Bool) (r : Nat) (post : Post) (scratch : Bool) (addr : Nat)
    (va : Word) (sc : Bool) (op : MemOp) : State :=
  let (id, s) := s.fresh
  let req := s.scalarReq g id 0 scratch addr va sc none op
  let s := s.enqueue g.place.core req
  let g := (g.defer ⟨r, id, post, g.sc.spc, none, none, none⟩).nextSeq
  s.accessed g hold sc id

/-- A store or atomic put into the group's store queue (R89); an atomic's old value is deferred into register `r`. -/
def State.sendWrite (s : State) (g : Group) (hold : Bool) (slots : Nat) (result : Option (Nat × Post)) (scratch : Bool)
    (addr : Nat) (va : Word) (sc : Bool) (rel : Option Nat) (op : MemOp) : State :=
  let (id, s) := s.fresh
  let req := s.scalarReq g id slots scratch addr va sc rel op
  let g := match result with
    | some (r, post) => g.defer ⟨r, id, post, g.sc.spc, none, none, none⟩
    | none => g
  let g := { g with sq := g.sq ++ [req], seq := g.seq + 1 }
  let s := if scratch then s else s.setCore g.place.core ((s.core g.place.core).dropNear addr req.bytes)
  s.accessed g hold sc id

/-- `s[a] + Sext(off10) × size` (R88, R91). -/
def offsetAddr (g : Group) (a : BitVec 6) (o : BitVec 10) (n : Nat) : Word := g.getS a + o.signExtend 64 * word n

/-- A scalar load from global memory (R88 to R90). -/
def loadWord (i : Instr) (d a : BitVec 6) (o : BitVec 10) (n : Nat) (signed : Bool) (s : State) : Out :=
  scalarWord i false [sReg d, sReg a]
    (fun s g h =>
      let ea := offsetAddr g a o n
      match s.globalAccess g ea n .load with
      | .error s => s
      | .ok l =>
        let s := s.watch g false false true false [(0, ea.toNat, n)]
        s.sendRead g h (sReg d) (.ext n signed) false (l.phys ea) ea l.sc (.load n false 0)) s

/-- R92, R337: a scalar store to global memory that a write lock of the core covers. -/
def State.storeLocked (s : State) (g : Group) (ea : Word) (n : Nat) : Bool :=
  (s.core g.place.core).locks.any fun l =>
    l.write && l.space == 2 && l.ctx == g.place.ctx && decide (ea.toNat ≤ l.hi) && decide (l.lo < ea.toNat + n)

/-- A scalar store of `n` bytes to global memory, with its release scope if it has one (R88 to R90, R94). -/
def State.storeGlobal (s : State) (g : Group) (hold : Bool) (ea x : Word) (n : Nat) (rel : Option Nat) : State :=
  match s.globalAccess g ea n .store with
  | .error s => s
  | .ok l =>
    if s.storeLocked g ea n then s.trapScalar g 0x06 ea
    else if 64 ≤ g.sqUsed then s.park g false (.stall .storeQueue)
    else
      let s := s.watch g false false false true [(0, ea.toNat, n)]
      s.sendWrite g hold 1 none false (l.phys ea) ea l.sc rel (.store (leBytes n x.toNat))

/-- A scalar store to global memory (R88). -/
def storeWord (i : Instr) (d a : BitVec 6) (o : BitVec 10) (n : Nat) (s : State) : Out :=
  scalarWord i false [sReg d, sReg a]
    (fun s g h => s.storeGlobal g h (offsetAddr g a o n) (g.getS d) n none) s

-- Scratch (R91, R92).

/-- The checks of a scratch access of `n` bytes at window offset `o`, in the order of R91: the cause it raises. -/
def State.scratchCause (s : State) (g : Group) (o : Word) (n : Nat) (writes : Bool) : Option Nat :=
  if o.toNat % n != 0 then some 0x05
  else if g.place.sxsize.toNat < o.toNat + n then some 0x10
  else if (s.core g.place.core).locked g.place.ctx 0 (g.place.sxbase.toNat + o.toNat) n writes then some 0x06
  else none

/-- A scalar load from the scratch window (R91). -/
def loadScratch (i : Instr) (d a : BitVec 6) (o : BitVec 10) (n : Nat) (signed : Bool) (s : State) : Out :=
  scalarWord i false [sReg d, sReg a]
    (fun s g h =>
      let off := offsetAddr g a o n
      match s.scratchCause g off n false with
      | some c => s.trapScalar g c off
      | none =>
        let s := s.watch g false true true false [(0, off.toNat, n)]
        s.sendRead g h (sReg d) (.ext n signed) true (g.place.sxbase.toNat + off.toNat) off false (.load n false 0)) s

/-- A scalar store to the scratch window (R91). -/
def storeScratch (i : Instr) (d a : BitVec 6) (o : BitVec 10) (n : Nat) (s : State) : Out :=
  scalarWord i false [sReg d, sReg a]
    (fun s g h =>
      let off := offsetAddr g a o n
      match s.scratchCause g off n true with
      | some c => s.trapScalar g c off
      | none =>
        if 64 ≤ g.sqUsed then s.park g false (.stall .storeQueue)
        else
          let s := s.watch g false true false true [(0, off.toNat, n)]
          s.sendWrite g h 1 none true (g.place.sxbase.toNat + off.toNat) off false none
            (.store (leBytes n (g.getS d).toNat))) s

/-- `ldb` (R88). -/
def execLdb (d a : BitVec 6) (o : BitVec 10) (s : State) : Out := loadWord (.ldb d a o) d a o 1 false s

/-- `ldh` (R88). -/
def execLdh (d a : BitVec 6) (o : BitVec 10) (s : State) : Out := loadWord (.ldh d a o) d a o 2 false s

/-- `ldw` (R88). -/
def execLdw (d a : BitVec 6) (o : BitVec 10) (s : State) : Out := loadWord (.ldw d a o) d a o 4 false s

/-- `ldd` (R88). -/
def execLdd (d a : BitVec 6) (o : BitVec 10) (s : State) : Out := loadWord (.ldd d a o) d a o 8 false s

/-- `ldbs` (R88). -/
def execLdbs (d a : BitVec 6) (o : BitVec 10) (s : State) : Out := loadWord (.ldbs d a o) d a o 1 true s

/-- `ldhs` (R88). -/
def execLdhs (d a : BitVec 6) (o : BitVec 10) (s : State) : Out := loadWord (.ldhs d a o) d a o 2 true s

/-- `ldws` (R88). -/
def execLdws (d a : BitVec 6) (o : BitVec 10) (s : State) : Out := loadWord (.ldws d a o) d a o 4 true s

/-- `stb` (R88). -/
def execStb (d a : BitVec 6) (o : BitVec 10) (s : State) : Out := storeWord (.stb d a o) d a o 1 s

/-- `sth` (R88). -/
def execSth (d a : BitVec 6) (o : BitVec 10) (s : State) : Out := storeWord (.sth d a o) d a o 2 s

/-- `stw` (R88). -/
def execStw (d a : BitVec 6) (o : BitVec 10) (s : State) : Out := storeWord (.stw d a o) d a o 4 s

/-- `std` (R88). -/
def execStd (d a : BitVec 6) (o : BitVec 10) (s : State) : Out := storeWord (.std d a o) d a o 8 s

/-- `ldsp.b` (R91). -/
def execLdspB (d a : BitVec 6) (o : BitVec 10) (s : State) : Out :=
  loadScratch (.ldspB d a o) d a o 1 false s

/-- `ldsp.h` (R91). -/
def execLdspH (d a : BitVec 6) (o : BitVec 10) (s : State) : Out :=
  loadScratch (.ldspH d a o) d a o 2 false s

/-- `ldsp.w` (R91). -/
def execLdspW (d a : BitVec 6) (o : BitVec 10) (s : State) : Out :=
  loadScratch (.ldspW d a o) d a o 4 false s

/-- `ldsp.d` (R91). -/
def execLdspD (d a : BitVec 6) (o : BitVec 10) (s : State) : Out :=
  loadScratch (.ldspD d a o) d a o 8 false s

/-- `ldsp.bs` (R91). -/
def execLdspBs (d a : BitVec 6) (o : BitVec 10) (s : State) : Out :=
  loadScratch (.ldspBs d a o) d a o 1 true s

/-- `ldsp.hs` (R91). -/
def execLdspHs (d a : BitVec 6) (o : BitVec 10) (s : State) : Out :=
  loadScratch (.ldspHs d a o) d a o 2 true s

/-- `ldsp.ws` (R91). -/
def execLdspWs (d a : BitVec 6) (o : BitVec 10) (s : State) : Out :=
  loadScratch (.ldspWs d a o) d a o 4 true s

/-- `stsp.b` (R91). -/
def execStspB (d a : BitVec 6) (o : BitVec 10) (s : State) : Out := storeScratch (.stspB d a o) d a o 1 s

/-- `stsp.h` (R91). -/
def execStspH (d a : BitVec 6) (o : BitVec 10) (s : State) : Out := storeScratch (.stspH d a o) d a o 2 s

/-- `stsp.w` (R91). -/
def execStspW (d a : BitVec 6) (o : BitVec 10) (s : State) : Out := storeScratch (.stspW d a o) d a o 4 s

/-- `stsp.d` (R91). -/
def execStspD (d a : BitVec 6) (o : BitVec 10) (s : State) : Out := storeScratch (.stspD d a o) d a o 8 s

-- Ordered accesses (R93, R94).

/-- The size in bytes of a 2-bit size code (R60). -/
def sizeOf (z : BitVec 2) : Nat := 2 ^ z.toNat

/-- A scoped load (R93). -/
def loadOrdered (i : Instr) (d a : BitVec 6) (scope : BitVec 3) (z : BitVec 2) (acquire : Bool) (s : State) : Out :=
  scalarWord i false [sReg d, sReg a]
    (fun s g h =>
      let ea := g.getS a
      match s.globalAccess g ea (sizeOf z) .load with
      | .error s => s
      | .ok l =>
        let s := s.watch g false false true false [(0, ea.toNat, sizeOf z)]
        s.sendRead g h (sReg d) (.ext (sizeOf z) false) false (l.phys ea) ea l.sc (.load (sizeOf z) acquire scope.toNat)) s

/-- `ldq.rlx` (R93). -/
def execLdqRlx (d a : BitVec 6) (scope : BitVec 3) (z : BitVec 2) (s : State) : Out :=
  loadOrdered (.ldqRlx d a scope z) d a scope z false s

/-- `ldq.acq` (R93). -/
def execLdqAcq (d a : BitVec 6) (scope : BitVec 3) (z : BitVec 2) (s : State) : Out :=
  loadOrdered (.ldqAcq d a scope z) d a scope z true s

/-- `stq.rlx` (R94). -/
def execStqRlx (a b : BitVec 6) (scope : BitVec 3) (z : BitVec 2) (s : State) : Out :=
  scalarWord (.stqRlx a b scope z) false [sReg a, sReg b]
    (fun s g h => s.storeGlobal g h (g.getS a) (g.getS b) (sizeOf z) none) s

/-- `stq.rel` (R94). -/
def execStqRel (a b : BitVec 6) (scope : BitVec 3) (z : BitVec 2) (s : State) : Out :=
  scalarWord (.stqRel a b scope z) false [sReg a, sReg b]
    (fun s g h => s.storeGlobal g h (g.getS a) (g.getS b) (sizeOf z) (some scope.toNat)) s

-- Atomics (R95, R96).

/-- The width of an atomic in bytes. -/
def atomicWidth (w : Bool) : Nat := if w then 8 else 4

/-- An atomic of the scalar stream: alignment, translation and permission, then IDEMV (R119) and LOCKED (R337), then the
request (R95, R96). -/
def State.atomic (s : State) (g : Group) (hold : Bool) (d a : BitVec 6) (n : Nat) (op : MemOp) : State :=
  let ea := g.getS a
  match s.globalAccess g ea n .atomic with
  | .error s => s
  | .ok l =>
    if g.idem then s.trapScalar g 0x0B 0
    else if s.storeLocked g ea n then s.trapScalar g 0x06 ea
    else
      let s := s.watch g false false true true [(0, ea.toNat, n)]
      s.sendWrite { g with used := true } hold 0 (some (sReg d, .ext n false)) false (l.phys ea) ea l.sc none op

/-- `amo` with operation `op` (R95). -/
def amoWord (i : Instr) (op : Nat) (d a b : BitVec 6) (w : Bool) (s : State) : Out :=
  scalarWord i false [sReg d, sReg a, sReg b]
    (fun s g h =>
      let n := atomicWidth w
      s.atomic g h d a n (.rmw op n ((g.getS b).toNat % 2 ^ (8 * n)))) s

/-- `amo.add` (R95). -/
def execAmoAdd (d a b : BitVec 6) (w : Bool) (s : State) : Out := amoWord (.amoAdd d a b w) 0 d a b w s

/-- `amo.and` (R95). -/
def execAmoAnd (d a b : BitVec 6) (w : Bool) (s : State) : Out := amoWord (.amoAnd d a b w) 1 d a b w s

/-- `amo.or` (R95). -/
def execAmoOr (d a b : BitVec 6) (w : Bool) (s : State) : Out := amoWord (.amoOr d a b w) 2 d a b w s

/-- `amo.xor` (R95). -/
def execAmoXor (d a b : BitVec 6) (w : Bool) (s : State) : Out := amoWord (.amoXor d a b w) 3 d a b w s

/-- `amo.min` (R95). -/
def execAmoMin (d a b : BitVec 6) (w : Bool) (s : State) : Out := amoWord (.amoMin d a b w) 4 d a b w s

/-- `amo.max` (R95). -/
def execAmoMax (d a b : BitVec 6) (w : Bool) (s : State) : Out := amoWord (.amoMax d a b w) 5 d a b w s

/-- `amo.minn` (R95). -/
def execAmoMinn (d a b : BitVec 6) (w : Bool) (s : State) : Out := amoWord (.amoMinn d a b w) 6 d a b w s

/-- `amo.maxn` (R95). -/
def execAmoMaxn (d a b : BitVec 6) (w : Bool) (s : State) : Out := amoWord (.amoMaxn d a b w) 7 d a b w s

/-- `amo.swap` (R95). -/
def execAmoSwap (d a b : BitVec 6) (w : Bool) (s : State) : Out := amoWord (.amoSwap d a b w) 8 d a b w s

/-- `cas` (R96). -/
def execCas (d a b : BitVec 6) (w : Bool) (s : State) : Out :=
  scalarWord (.cas d a b w) false [sReg d, sReg a, sReg b]
    (fun s g h =>
      let n := atomicWidth w
      s.atomic g h d a n (.cas n [((g.getS d).toNat % 2 ^ (8 * n), (g.getS b).toNat % 2 ^ (8 * n))])) s

-- Fences (R97).

/-- Whether the scalar stream's earlier reads have returned and the fence's release, if it has one, is performed. -/
def State.fenceDone (s : State) (g : Group) (marker : Option Nat) : Bool :=
  !s.readBefore g false g.seq g.sc.laneSeq && s.releasedOpt marker

/-- A scalar fence: `acq`, `rel` and `sc` are its parts. A release part is a marker in the store queue at a scope wider
than the group, which the group's later writes wait for; only an `sc` fence waits for it itself (R97, R275). -/
def fenceWord (i : Instr) (acq rel sc : Bool) (scope : BitVec 3) (s : State) : Out :=
  scalarWord i false []
    (fun s g h =>
      let (marker, s) :=
        if rel && scope != 0 then let (m, s) := s.release g false scope.toNat true; (some m, s) else (none, s)
      let g := (s.group? g.uid).getD g
      if acq then
        let wait := if sc then marker else none
        if s.fenceDone g wait then (s.fenceEnd g false scope.toNat wait.isSome).retire g h (g.sc.spc + 4)
        else s.park g h (.fence true scope.toNat wait)
      else s.retire g h (g.sc.spc + 4)) s

/-- `fence.acq` (R97). -/
def execFenceAcq (scope : BitVec 3) (s : State) : Out := fenceWord (.fenceAcq scope) true false false scope s
/-- `fence.rel` (R97). -/
def execFenceRel (scope : BitVec 3) (s : State) : Out := fenceWord (.fenceRel scope) false true false scope s
/-- `fence.acqrel` (R97). -/
def execFenceAcqrel (scope : BitVec 3) (s : State) : Out := fenceWord (.fenceAcqrel scope) true true false scope s
/-- `fence.sc` (R97). -/
def execFenceSc (scope : BitVec 3) (s : State) : Out := fenceWord (.fenceSc scope) true true true scope s

end Sys2Proof.Machine
end

