-- ==== Sys2Proof/Machine/LaneMem.lean ====
section
/-! DEFINITION. The lane memory words: loads, stores, atomics, reductions and fences (R247 to R258), `lsmap` (R263) and
the accumulator words (R317). -/

namespace Sys2Proof.Machine

open Sys2Proof

-- Values of accesses.

/-- `Comb` over operands of `n` bytes (R254): operation 9 adds F32 values. -/
def combValue (op n x y : Nat) : Nat :=
  if op == 9 then (f32.add .rne (f32.value x) (f32.value y)).1
  else if n == 4 then (atomicResult op (half x) (half y)).toNat
  else (atomicResult op (word x) (word y)).toNat

/-- The value after a list of compares and swaps (R257). -/
def casValue (old : Nat) (pairs : List (Nat × Nat)) : Nat :=
  pairs.foldl (fun x p => if x == p.1 then p.2 else x) old

/-- What an access of a request writes back, from the old value. -/
def MemOp.update (m : MemOp) (old : Nat) : Nat :=
  match m with
  | .rmw op n x => combValue op n old x
  | .cas _ pairs => casValue old pairs
  | _ => old

/-- What a value that memory returned becomes in its register (R256, R257). -/
def Post.apply (p : Post) (old : Nat) : Word :=
  match p with
  | .ext n signed =>
    let x := word (old % 2 ^ (8 * n))
    if signed && x.getLsbD (8 * n - 1) then x - word (2 ^ (8 * n)) else x
  | .comb op n q => match q with
    | some y => word (combValue op n old y)
    | none => word old
  | .cas _ pairs => word (casValue old pairs)

-- Addresses (R247, R248).

/-- The bytes of a size code (R247). -/
def sizeBytes (code : Nat) : Nat :=
  match code with
  | 0 | 5 => 1
  | 1 | 6 => 2
  | 2 => 4
  | 3 => 8
  | _ => 16

/-- An active lane's address: the offset it forms in its space, and that offset or the virtual address as a word. -/
structure LaneAddr where
  lane : Nat
  off  : Int
  va   : Word
  deriving DecidableEq, Repr

/-- The running block's copy of a datum register (R103, R108). -/
def Lanes.datum (l : Lanes) (n : Nat) : Datum :=
  match l.cur with
  | some b => b.datum.getD n Datum.clear
  | none => Datum.clear

/-- The offset `Zext(a) + Sext(imm32)` of a lane (R248). -/
def LaneOp.offset (o : LaneOp) (k : Nat) : Int := ((o.src o.w.a k).toNat : Int) + o.w.imm.toInt

/-- The address that a lane forms (R248). -/
def LaneOp.addr (o : LaneOp) (k : Nat) : LaneAddr :=
  match o.w.space with
  | 0 => let va := o.src2 o.w.a k + o.w.imm.signExtend 64; ⟨k, va.toNat, va⟩
  | 1 => let x := o.offset k; ⟨k, x, (o.g.ln.datum o.w.datum).base + BitVec.ofInt 64 x⟩
  | _ => let x := o.offset k; ⟨k, x, BitVec.ofInt 64 x⟩

/-- Whether a context holds a page of a stack's Plumb window (R405). -/
def State.holdsPage (s : State) (stack ctx p : Nat) : Bool :=
  let e := (s.stack stack).pg.getD p 0
  e.getLsbD 63 && bits e 47 32 == ctx

/-- What kind of access a lane memory word makes. -/
def Acc.isAtomic : Acc → Bool
  | .atomic => true
  | _ => false
/-- Whether an access writes. -/
def Acc.isWrite : Acc → Bool
  | .store | .atomic => true
  | _ => false

/-- R249 steps 1 to 6: the first group-level cause that any active lane meets, with its TVAL. -/
def State.laneCause (s : State) (o : LaneOp) (acc : Acc) (n : Nat) (ts : List LaneAddr) : Option (Nat × Word) :=
  let g := o.g
  let space := o.w.space
  let first (cause : Nat) (p : LaneAddr → Bool) : Option (Nat × Word) := (ts.find? p).map fun t => (cause, t.va)
  let outside (t : LaneAddr) : Bool :=
    match space with
    | 0 => !canonical t.va
    | 1 => false
    | 2 => decide (t.off < 0) || decide ((g.place.sxsize.toNat : Int) < t.off + n)
    | _ => decide (t.off < 0) || decide ((0x100000 : Int) < t.off + n)
  first 0x05 (fun t => t.va.toNat % n != 0)
    <|> first 0x10 outside
    <|> first 0x11 (fun t => space == 3 && !s.holdsPage (stackOf g.die) g.place.ctx (t.off.toNat / 65536))
    <|> first 0x14 (fun _ => space == 3 && (s.die g.die).stale)
    <|> (if acc.isAtomic && g.idem then some (0x0B, (0 : Word)) else none)
    <|> first 0x06 (fun t =>
      match space with
      | 2 => (s.core g.place.core).locked g.place.ctx 0 (g.place.sxbase.toNat + t.off.toNat) n acc.isWrite
      | 3 => false
      | _ => acc.isWrite && s.storeLocked g t.va n)

-- Translation of the lanes (R249 step 7).

/-- What a lane's translation comes to. -/
inductive LaneXlate where
  | miss
  | fault (cause : BitVec 8) (untouched : Bool)
  | hit (addr : Nat) (sc : Bool)
  deriving DecidableEq, Repr

/-- A lane's access resolved: through its datum register where R103 lets it, and through the TLB otherwise; a scratch
access lies in the team's window. -/
def State.laneXlate (s : State) (o : LaneOp) (acc : Acc) (t : LaneAddr) : LaneXlate :=
  let g := o.g
  let world := s.worldOf g
  let d := g.ln.datum o.w.datum
  if o.w.space == 2 then .hit (g.place.sxbase.toNat + t.off.toNat) false
  else if o.w.space == 1 && d.v && decide (0 ≤ t.off) && decide (t.off < d.limit) then
    match rights d.r d.w d.x d.a d.world acc world with
    | some c => .fault c false
    | none => .hit (d.frame + t.off.toNat) d.sc
  else
    match s.xlate g.place.core g.place.ctx g.ln.walked t.va with
    | none => .miss
    | some (.fault u) => .fault 0x10 u
    | some (.leaf l) =>
      match l.check acc world with
      | some c => .fault c false
      | none => .hit (l.phys t.va) l.sc

/-- A lane whose access completes: its address in memory, or in the core's scratchpad. -/
structure LaneHit where
  lane : Nat
  addr : Nat
  va   : Word
  off  : Int
  sc   : Bool
  deriving DecidableEq, Repr

/-- A lane whose access faults. -/
structure LaneMiss where
  lane      : Nat
  cause     : BitVec 8
  va        : Word
  untouched : Bool
  deriving DecidableEq, Repr

/-- The lanes of a word resolved: the address of the first lane that waits for a walk, or the lanes that complete and
the lanes that fault. -/
def State.laneResolve (s : State) (o : LaneOp) (acc : Acc) : List LaneAddr → Except Word (List LaneHit × List LaneMiss)
  | [] => .ok ([], [])
  | t :: r =>
    match s.laneXlate o acc t with
    | .miss => .error t.va
    | .fault c u => (s.laneResolve o acc r).map fun p => (p.1, ⟨t.lane, c, t.va, u⟩ :: p.2)
    | .hit a sc => (s.laneResolve o acc r).map fun p => (⟨t.lane, a, t.va, t.off, sc⟩ :: p.1, p.2)

-- The lane supervisor handler (R239, R354, R355).

/-- v2 of the handler registers at entry (R355). -/
def faultWord (m : LaneMiss) (acc : Acc) (size : Nat) : W32 :=
  let access := match acc with
    | .store => 1
    | .atomic => 2
    | _ => 0
  half (m.cause.toNat + 256 * access + 1024 * size + if m.untouched then 8192 else 0)

/-- The handler registers of a faulting lane at entry (R355). -/
def Lanes.enterHandler (l : Lanes) (acc : Acc) (size : Nat) (lpc : BitVec 32) (m : LaneMiss) : Lanes :=
  let set (l : Lanes) (r : Nat) (x : W32) : Lanes := l.writeV true r m.lane x
  let l := set (set l 0 (m.va.setWidth 32)) 1 ((m.va >>> 32).setWidth 32)
  let l := set (set l 2 (faultWord m acc size)) 3 lpc
  set (set (set (set l 4 0) 5 0) 6 0) 7 0

/-- The lanes of a list. -/
def missMask (ms : List LaneMiss) : BitVec 32 := maskOf fun i => ms.any fun m => m.lane == i

/-- The gang of a word moves on, but for the lanes that fault: they enter the handler, or with LSV = 0 stay at the word
(R239, R354, R357). -/
def Lanes.splitGang (l : Lanes) (c : Cur) (handler : Bool) (acc : Acc) (size : Nat) (ms : List LaneMiss) : Lanes :=
  let f := missMask ms
  let enter (x : Frag) : Frag :=
    if handler then
      { x with
        lpc := 0
        sup := true
        faults := (ms.filter fun m => x.lanes.getLsbD m.lane).map fun m => ⟨m.lane, m.cause, m.va, c.lpc⟩ }
    else x
  let l := l.moveGang c fun x => x.part (~~~f) (x.lpc + 1) ++ (x.part f x.lpc).map enter
  if handler then ms.foldl (fun l m => l.enterHandler acc size c.lpc m) l else l

/-- The end of a lane memory word (R253, R239): the gang moves on, lanes that access an SC page keep the unit waiting, and
the faults of the lanes are taken. `g` holds the word's requests and results. -/
def State.laneMemEnd (s : State) (o : LaneOp) (g : Group) (acc : Acc) (ids : List Nat) (ms : List LaneMiss) : State :=
  let c := o.cur
  let handler := g.sr.lsv != 0
  let l := g.ln.splitGang c handler acc o.w.size ms
  let l := if ids.isEmpty then l.issued c.hold else { l with wait := .scAccess ids, hold := c.hold, walked := [] }
  let g := { g with ln := l }.countGang
  match ms with
  | [] => s.setGroup g
  | m :: _ =>
    if handler then (s.setGroup g).emitG g 0x09 (m.cause.toNat + 256) (m.va.toNat % 2 ^ 32)
    else s.trapLane g m.cause.toNat m.va (missMask ms) c.lpc

/-- A lane memory word (R249): its group-level causes, the walks it waits for, the faults of a fragment that is already
in the handler (R356), and then `body` over the lanes that complete. -/
def laneAccess (i : Instr) (acc : Acc) (ready : State → LaneOp → List LaneHit → Bool)
    (body : State → LaneOp → List LaneHit → State × Group × List Nat) (s : State) : Out :=
  laneWord i (fun s o =>
    let n := sizeBytes o.w.size
    let ts := o.act.map o.addr
    match s.laneCause o acc n ts with
    | some (c, v) => s.laneTrap o c v
    | none =>
      match s.laneResolve o acc ts with
      | .error va => s.laneStall o.g (.walk ⟨va, .walking, false⟩)
      | .ok (hs, ms) =>
        match if o.cur.sup then ms else [] with
        | m :: _ => s.laneTrap o m.cause.toNat m.va
        | [] =>
          if !ready s o hs then s.laneStall o.g (.stall .storeQueue)
          else
            let s := s.watch o.g true (o.w.space == 2) (!acc.isWrite || acc.isAtomic) acc.isWrite
              (hs.map fun h => (h.lane, if o.w.space == 2 then h.off.toNat else h.va.toNat, n))
            let (s, g, ids) := body s o hs
            s.laneMemEnd o g acc ids ms) s

-- Requests of lanes.

/-- A request of a lane, with the next place in the group's issue order. -/
def State.laneReq (s : State) (o : LaneOp) (g : Group) (slots addr : Nat) (va : Word) (sc : Bool) (rel : Option Nat)
    (op : MemOp) : State × Group × MemReq :=
  let (id, s) := s.fresh
  (s, g.nextSeq, ⟨id, g.origin (s.worldOf g) true (o.cur.lpc.setWidth 64), g.seq, g.blockSeq, o.g.seq, slots, o.w.space == 2,
    addr, va, sc, rel, 0, op⟩)

/-- The parts of an access of `n` bytes: a quad is two accesses of 8 bytes (R271). -/
def accessParts (n : Nat) : List Nat := if n == 16 then [0, 8] else [0]

/-- The identifiers of the requests to SC pages. -/
def scIds (rs : List MemReq) : List Nat := (rs.filter fun r => r.sc).map fun r => r.id

/-- The order and scope of `ld` and `st` (R250). -/
def isOrdered (w : LaneW) : Bool := w.fn6.getLsbD 3
def scopeOf (w : LaneW) : Nat := bits w.fn6 2 0

/-- Whether the size code sign-extends (R247). -/
def isSigned (w : LaneW) : Bool := w.size == 5 || w.size == 6

/-- Registers of a datum of the word's size. -/
def datumCount (w : LaneW) : Nat := dstCount w.dataDst

/-- The requests of a lane load and the pieces of its result (R250, R251). -/
def State.loadLanes (s : State) (o : LaneOp) (hs : List LaneHit) : State × Group × List Nat :=
  let n := sizeBytes o.w.size
  let m := min n 8
  let op : MemOp := .load m (isOrdered o.w) (scopeOf o.w)
  let all := hs.flatMap fun h => (accessParts n).map fun k => (h, k)
  let (s, g, rs, ps) := all.foldl (fun (acc : State × Group × List MemReq × List LanePiece) hk =>
    let (s, g, rs, ps) := acc
    let h := hk.1
    let (s, g, r) := s.laneReq o g 0 (h.addr + hk.2) (h.va + word hk.2) h.sc none op
    (s, g, rs ++ [r], ps ++ [⟨h.lane, r.id, 8 * hk.2, .ext m (isSigned o.w), none, none, none⟩])) (s, o.g, [], [])
  let core := g.place.core
  let c := s.core core
  (s.setCore core { c with reqs := c.reqs ++ rs }, g.deferLanes o.cur o.w.d.toNat (datumCount o.w) ps, scIds rs)

/-- Whether an acquire load that precedes the word has not returned (R251). -/
def State.acquirePending (s : State) (g : Group) : Bool :=
  (s.core g.place.core).reqs.any fun r =>
    r.who.g == g.uid && (r.who.lane || decide (r.seq < g.blockSeq)) &&
      match r.op with
      | .load _ acq _ => acq
      | _ => false

/-- A read of `n` bytes at an offset of the local replica, in one granule: the state of the replica after some prefix of its writes,
behind none that the group has seen (R271, R290). Gives the bytes, the stamp of the write that they stem from and the releases that
this carries. -/
def State.readPlumb (s : State) (g : Group) (seen off n : Nat) : State × List Byte × (Nat × Nat) × List Release :=
  let loc := plumbLoc (stackOf g.die) off
  let gr := granule loc
  let (s, ws) := s.overlook gr seen false
  (s, unseenBytes ws loc (memRead (s.die g.die).replica off n), (gr, s.order.stampBefore gr ws.length),
    s.order.saidBefore gr ws.length loc n)

/-- The stamp of the state of its replica that a group may not fall behind (R290). -/
def State.plumbSeen (s : State) (g : Group) : Nat :=
  (viewKnown (s.knownBy g true)).latest (plumbLoc (stackOf g.die) 0) 0x100000

/-- A `pl` load: a read of the local replica for each active lane and granule (R251, R271, R290). With `.acq` it is an acquire. -/
def State.loadPlumb (s : State) (o : LaneOp) : State :=
  let n := sizeBytes o.w.size
  let seen := s.plumbSeen o.g
  let (s, ps, view, tells) := o.act.foldl (fun (acc : State × List LanePiece × View × List Release) k =>
    let (s, ps, view, tells) := acc
    let (s, bs, view, tells) := (accessParts n).foldl (fun (acc : State × List Byte × View × List Release) i =>
      let (s, bs, view, tells) := acc
      let (s, b, p, l) := s.readPlumb o.g seen ((o.offset k).toNat + i) (min n 8)
      (s, bs ++ b, p :: view, tells ++ l)) (s, [], view, tells)
    let x := leNat bs
    let v := if n == 16 then BitVec.ofNat 128 x else (Post.apply (.ext n (isSigned o.w)) x).setWidth 128
    (s, ps ++ [knownPiece k v], view, tells)) (s, [], [], [])
  let s := s.learnSeen o.g true view tells
  let s := if isOrdered o.w then s.acquires o.g true (scopeOf o.w) tells else s
  s.laneRetire o.cur (o.g.deferLanes o.cur o.w.d.toNat (datumCount o.w) ps)

/-- `ld` from the Plumb replica: the checks of R249, and the wait for an acquire load before it. -/
def plumbLoad (i : Instr) (s : State) : Out :=
  laneWord i (fun s o =>
    match s.laneCause o .load (sizeBytes o.w.size) (o.act.map o.addr) with
    | some (c, v) => s.laneTrap o c v
    | none =>
      if s.acquirePending o.g then s.laneStall o.g (.stall .order)
      else
        let s' := s.loadPlumb o
        if isOrdered o.w then s'.acquireAt o.g.place.core (scopeOf o.w) else s') s

/-- `ld` (R250, R251). -/
def execLd (w : LaneW) (s : State) : Out :=
  if w.space == 3 then plumbLoad (.ld w) s
  else laneAccess (.ld w) .load (fun _ _ _ => true) (fun s o hs => s.loadLanes o hs) s

/-- The writes of a `st` word: lane by lane, a quad as two, each with the store-queue entries that it takes: one for the
first write of the word to a granule (R89, R252). -/
def storeParts (o : LaneOp) (hs : List LaneHit) : List (LaneHit × Nat × Nat) :=
  let n := sizeBytes o.w.size
  let all := hs.flatMap fun h => (accessParts n).map fun k => (h, k)
  (all.foldl (fun (acc : List Nat × List (LaneHit × Nat × Nat)) hk =>
    let x := granule (hk.1.addr + hk.2)
    (x :: acc.1, acc.2 ++ [(hk.1, hk.2, if acc.1.contains x then 0 else 1)])) ([], [])).2

/-- Whether the store queue has room for a `st` word (R89). -/
def storeRoom (_ : State) (o : LaneOp) (hs : List LaneHit) : Bool :=
  o.g.sqUsed + ((storeParts o hs).map fun x => x.2.2).foldl (· + ·) 0 ≤ 64

/-- The requests of a lane store (R252). -/
def State.storeLanes (s : State) (o : LaneOp) (hs : List LaneHit) : State × Group × List Nat :=
  let n := sizeBytes o.w.size
  let m := min n 8
  let rel := if isOrdered o.w then some (scopeOf o.w) else none
  let (s, g, rs) := (storeParts o hs).foldl (fun (acc : State × Group × List MemReq) x =>
    let (s, g, rs) := acc
    let (h, k, slots) := x
    let v := (o.srcWide o.w.b h.lane (datumCount o.w)).toNat / 2 ^ (8 * k)
    let (s, g, r) := s.laneReq o g slots (h.addr + k) (h.va + word k) h.sc rel (.store (leBytes m v))
    (s, g, rs ++ [r])) (s, o.g, [])
  let core := g.place.core
  let c := s.core core
  let c := if o.w.space == 2 then c else rs.foldl (fun c r => c.dropNear r.addr m) c
  (s.setCore core c, { g with sq := g.sq ++ rs }, scIds rs)

/-- `st` (R250, R252). -/
def execSt (w : LaneW) (s : State) : Out :=
  laneAccess (.st w) .store storeRoom (fun s o hs => s.storeLanes o hs) s

-- Atomics and reductions (R254 to R257).

/-- The address classes of a word's lanes, in the order of their lowest lanes (R256). -/
def classes (hs : List LaneHit) : List (List LaneHit) :=
  (hs.map fun h => h.va).eraseDups.map fun a => hs.filter fun h => h.va == a

/-- An operand of an atomic, of the word's size. -/
def LaneOp.operand (o : LaneOp) (f : BitVec 9) (h : LaneHit) : Nat := (o.srcWide f h.lane (datumCount o.w)).toNat

/-- Each lane of a class with the combination of the operands before it, none for the lowest lane (R256). -/
def prefixes (op n : Nat) (xs : List (Nat × Nat)) : List (Nat × Option Nat) × Option Nat :=
  xs.foldl (fun acc x =>
    (acc.1 ++ [(x.1, acc.2)], some (match acc.2 with | none => x.2 | some q => combValue op n q x.2))) ([], none)

/-- Requests of a word's classes: each class makes one, put into the store queue, and each lane a piece of the result. -/
def State.atomicLanes (s : State) (o : LaneOp) (hs : List LaneHit)
    (make : List LaneHit → MemOp × List (Nat × Post)) : State × Group × List MemReq × List LanePiece :=
  let n := sizeBytes o.w.size
  let g := { o.g with used := true }
  let (s, g, rs, ps) := (classes hs).foldl (fun (acc : State × Group × List MemReq × List LanePiece) l =>
    let (s, g, rs, ps) := acc
    match l with
    | [] => acc
    | h :: _ =>
      let (op, posts) := make l
      let (s, g, r) := s.laneReq o g 0 h.addr h.va h.sc none op
      (s, g, rs ++ [r], ps ++ posts.map fun p => ⟨p.1, r.id, 0, p.2, none, none, none⟩)) (s, g, [], [])
  let core := g.place.core
  let c := s.core core
  let c := if o.w.space == 2 then c else rs.foldl (fun c r => c.dropNear r.addr n) c
  (s.setCore core c, { g with sq := g.sq ++ rs }, rs, ps)

/-- The request of one class of `atom` or `red` (R256). -/
def combClass (o : LaneOp) (l : List LaneHit) : MemOp × List (Nat × Post) :=
  let n := sizeBytes o.w.size
  let op := bits o.w.fn6 3 0
  let (qs, p) := prefixes op n (l.map fun h => (h.lane, o.operand o.w.b h))
  (.rmw op n (p.getD 0), qs.map fun q => (q.1, .comb op n q.2))

/-- The request of one class of `atcas` (R257). -/
def casClass (o : LaneOp) (l : List LaneHit) : MemOp × List (Nat × Post) :=
  let n := sizeBytes o.w.size
  let ps := l.map fun h => (o.operand o.w.b h, o.operand o.w.c h)
  (.cas n ps, (l.zip (List.range l.length)).map fun x => (x.1.lane, .cas n (ps.take x.2)))

/-- The word's results deferred and its SC accesses named. -/
def withResults (o : LaneOp) (r : State × Group × List MemReq × List LanePiece) : State × Group × List Nat :=
  (r.1, r.2.1.deferLanes o.cur o.w.d.toNat (datumCount o.w) r.2.2.2, scIds r.2.2.1)

/-- `atom` (R254, R256). -/
def execAtom (w : LaneW) (s : State) : Out :=
  laneAccess (.atom w) .atomic (fun _ _ _ => true) (fun s o hs => withResults o (s.atomicLanes o hs (combClass o))) s

/-- `atcas` (R255, R257). -/
def execAtcas (w : LaneW) (s : State) : Out :=
  laneAccess (.atcas w) .atomic (fun _ _ _ => true) (fun s o hs => withResults o (s.atomicLanes o hs (casClass o))) s

/-- `red` (R254, R256). -/
def execRed (w : LaneW) (s : State) : Out :=
  laneAccess (.red w) .atomic (fun _ _ _ => true)
    (fun s o hs => let r := s.atomicLanes o hs (combClass o); (r.1, r.2.1, scIds r.2.2.1)) s

-- Lane fences (R258).

/-- Whether the lane stream's earlier reads have returned and the fence's release, if it waits for one, is performed. -/
def State.laneFenceDone (s : State) (g : Group) (marker : Option Nat) : Bool :=
  !s.readBefore g true g.seq g.blockSeq && s.releasedOpt marker

/-- `fence.l` (R258): as the scalar fence, over the lane stream. -/
def execFenceL (w : LaneW) (s : State) : Out :=
  laneWord (.fenceL w) (fun s o =>
    let kind := bits o.w.fn6 4 3
    let scope := scopeOf o.w
    let (marker, s) :=
      if kind != 0 && scope != 0 then let (m, s) := s.release o.g true scope true; (some m, s) else (none, s)
    let g := (s.group? o.g.uid).getD o.g
    if kind == 1 then s.laneRetire o.cur g
    else
      let wait := if kind == 3 then marker else none
      if s.laneFenceDone g wait then (s.fenceEnd g true scope wait.isSome).laneRetire o.cur g
      else s.laneStall g (.fence o.cur true scope wait)) s

-- `lsmap` (R262, R263).

/-- The level-0 entry that a walk reaches and its address, none where the walk stops above (R263). -/
def State.levelZero (s : State) (va : Nat) : (level table : Nat) → Option (Nat × Nat)
  | level, table =>
    let pte := table + 8 * (va / 2 ^ (13 + 10 * level) % 1024)
    let e := leNat (s.physRead (s.keyOf (pte / 128)).world pte 8)
    match level with
    | 0 => some (pte, e)
    | k + 1 =>
      let frame := e / 2 ^ 13 % 2 ^ 39 * 2 ^ 13
      if e % 8 == 1 && e / 2 ^ 10 % 8 == 0 && (tierOf frame).isSome then s.levelZero va k frame else none
  termination_by structural level => level

/-- `lsmap`: the status, and the state with the page mapped (R263). -/
def State.mapPage (s : State) (g : Group) (va : Word) (attr : W32) : State × Nat :=
  match if canonical va then (s.ctx? g.place.ctx).bind (fun c => s.levelZero (va.toNat % 2 ^ 53) 3 c.spec.root.toNat)
    else none with
  | none => (s, 3)
  | some (pte, e) =>
    let v := e % 2
    let type := e / 2 % 4
    let frame := e / 2 ^ 13 % 2 ^ 39
    let clean := e / 2 ^ 11 % 4 == 0
    let valid := match leafOf (va.toNat % 2 ^ 53) e 0 with
      | .leaf _ => v == 1 && type == 1 && clean
      | _ => false
    if v == 0 && type == 1 then (s, 4)
    else if valid then (s, 1)
    else if !(v == 1 && type == 2 && frame == 0 && clean) && !(v == 0 && type == 0) then (s, 5)
    else
      let d := s.die g.die
      match d.ft.reserve with
      | [] => (s, 2)
      | f :: r =>
        let new := 3 + bits attr 7 3 * 8 + f + bits attr 15 12 * 2 ^ 52
        let s := s.setDie g.die { d with ft := { d.ft with reserve := r } }
        (s.physWrite (s.keyOf (pte / 128)).world pte (leBytes 8 new), 0)

/-- `lsmap` (R263). -/
def execLsmap (w : LaneW) (s : State) : Out :=
  handlerWord (.lsmap w) (fun s o =>
    match o.act with
    | [] => s.laneRetire o.cur (o.g.deferLanes o.cur o.w.d.toNat 1 [])
    | k :: _ =>
      let (s, st) := s.mapPage o.g (o.src2 o.w.a k) (o.src o.w.b k)
      s.laneRetire o.cur (o.g.deferLanes o.cur o.w.d.toNat 1 (o.act.map fun i => knownPiece i (BitVec.ofNat 128 st)))) s

-- The accumulator words (R317).

/-- The causes of `accld` and `accst`, in their order (R317). -/
def State.accCause (s : State) (o : LaneOp) (writes : Bool) (n : Nat) : Option (Nat × Word) :=
  let g := o.g
  let first (cause : Nat) (p : Int → Bool) : Option (Nat × Word) :=
    ((o.act.map o.offset).find? p).map fun x => (cause, BitVec.ofInt 64 x)
  first 0x05 (fun x => x % n != 0)
    <|> first 0x10 (fun x => decide (x < 0) || decide ((g.place.accsize.toNat : Int) < x + n))
    <|> first 0x06 (fun x => (s.core g.place.core).locked g.place.ctx 1 (g.place.accbase.toNat + x.toNat) n writes)

/-- The first accumulator word of an access that holds an error which cannot be corrected (R374). -/
def State.accPoison (s : State) (o : LaneOp) (n : Nat) : Option Nat :=
  let ws := o.act.flatMap fun k =>
    let a := o.g.place.accbase.toNat + (o.offset k).toNat
    [a / 8, (a + n - 1) / 8]
  ws.find? fun x => (s.core o.g.place.core).poisonA.contains x

/-- `accld` (R317). -/
def execAccld (w : LaneW) (s : State) : Out :=
  laneWord (.accld w) (fun s o =>
    let n := sizeBytes o.w.size
    match s.accCause o false n with
    | some (c, v) => s.laneTrap o c v
    | none =>
      match s.accPoison o n with
      | some x => s.kill o.g true (o.cur.lpc.setWidth 64) (word (8 * x - o.g.place.accbase.toNat)) (poolReport o.g.place.core x)
      | none =>
        let c := s.core o.g.place.core
        let ps := o.act.map fun k =>
          knownPiece k (BitVec.ofNat 128 (leNat (memRead c.acc (o.g.place.accbase.toNat + (o.offset k).toNat) n)))
        s.laneRetire o.cur (o.g.deferLanes o.cur o.w.d.toNat (datumCount o.w) ps)) s

/-- Bytes written to a core's accumulator; words that are written whole lose their poison (R374). -/
def Core.writeAcc (c : Core) (a : Nat) (bs : List Byte) : Core :=
  { c with
    acc := memWrite c.acc a bs
    poisonA := c.poisonA.filter fun x => !(decide (a ≤ 8 * x) && decide (8 * x + 8 ≤ a + bs.length)) }

/-- `accst` (R317). -/
def execAccst (w : LaneW) (s : State) : Out :=
  laneWord (.accst w) (fun s o =>
    let n := sizeBytes o.w.size
    match s.accCause o true n with
    | some (c, v) => s.laneTrap o c v
    | none =>
      let core := o.g.place.core
      let c := o.act.foldl (fun (c : Core) k =>
        c.writeAcc (o.g.place.accbase.toNat + (o.offset k).toNat)
          (leBytes n (o.srcWide o.w.b k (datumCount o.w)).toNat)) (s.core core)
      (s.setCore core c).laneRetire o.cur o.g) s

end Sys2Proof.Machine
end

