-- ==== Sys2Proof/Machine/Channel.lean ====
section
/-! DEFINITION. Channels (R226 to R228): `send` and `recv` (R259 to R261) and the steps that end their waits. -/

namespace Sys2Proof.Machine

open Sys2Proof

/-- A step of the part about a group: nothing happens where the group is not there or its condition does not hold. -/
def groupStep (u : Nat) (holds : State → Group → Bool) (body : State → Group → State) (s : State) : Out :=
  match s.group? u with
  | none => .next s
  | some g => if holds s g then .next (body s g) else .next s

/-- A group whose lane unit may complete a wait: it is resident and not frozen. -/
def Group.laneRuns (g : Group) : Bool := g.life == .resident && !g.ln.frozen

/-- The channel of a word (R259). -/
def channelOf (w : LaneW) : Nat := bits w.fn6 3 0
/-- The `.rel` of `send` and the `.acq` of `recv` (R259). -/
def channelOrder (w : LaneW) : Bool := w.fn6.getLsbD 4

/-- A declared channel of the group's team. -/
def State.channel (s : State) (g : Group) (n : Nat) : Option (Team × Channel) :=
  (s.team? g.place.team).bind fun t => (t.channels[n]?).map fun c => (t, c)

/-- The size of a slot in bytes (R158). -/
def Channel.bytes (c : Channel) : Nat := if c.wide then 512 else 128
/-- Registers of a slot. -/
def Channel.count (c : Channel) : Nat := if c.wide then 4 else 1

/-- Whether the group is the end of a channel that role `r` and group `k` of it name, in its current role (R259). -/
def State.isEnd (s : State) (g : Group) (r k : Nat) : Bool :=
  g.role.role == r && g.place.gid.toNat == s.roleBase g.place.grid r + k

/-- Where slot `k` of a channel lies in the core's scratchpad (R226). -/
def slotAddr (t : Team) (c : Channel) (k : Nat) : Nat := t.sxbase + c.buffer / 8 * 8 + k % c.slots * c.bytes

/-- The team with a channel replaced. -/
def State.setChannel (s : State) (t : Team) (n : Nat) (c : Channel) : State :=
  s.setTeam { t with channels := t.channels.set n c }

-- send.

/-- The use of the fields of `send` for the channel's slot size, none where the word is not legal (R259). -/
def sendSpec (s : State) (o : LaneOp) (p : LaneSpec) : Option LaneSpec :=
  match s.channel o.g (channelOf o.w) with
  | none => none
  | some (_, c) =>
    if !s.isEnd o.g c.prodRole c.prodGrp then none
    else if c.wide then (if SrcKind.w128.accepts o.w.a then some { p with a := .w128 } else none)
    else some p

/-- A `send` may write its slot: the slot is free or nobody receives any more (R227, R228), and with `.rel` every earlier
access of the group is performed at core scope (R260); the releases of the fences before it are performed (R97). -/
def State.sendReady (s : State) (g : Group) (c : Channel) (rel : Bool) : Bool :=
  (c.deaf || decide (c.p - c.c < c.slots)) && !s.acquirePending g && !s.fencePending g true &&
    (!rel || !((g.sq.any fun r => r.who.lane || decide (r.seq < g.blockSeq)) || s.readBefore g true g.seq g.blockSeq
      || s.plumbAhead g true))

/-- The bytes of a slot (R260). -/
def sendBytes (o : LaneOp) (c : Channel) : List Byte :=
  (List.range c.count).flatMap fun r => (List.range 32).flatMap fun i =>
    leBytes 4 (if o.act.contains i then o.g.ln.readV o.cur.sup (o.w.a.toNat + r) i else 0).toNat

/-- The releases that the slot write of a `send` carries: its own at core scope, and those of the fences before it (R283). -/
def State.sendSays (s : State) (g : Group) (rel : Bool) : List Release :=
  (if rel then [s.releaseOf g true 1] else []) ++ fenceReleases (s.knownBy g true)

/-- A `send` writes its slot and completes (R260). The slot write is in no core's store order (R293). -/
def State.sendNow (s : State) (o : LaneOp) (t : Team) (c : Channel) : State :=
  let n := channelOf o.w
  let core := o.g.place.core
  let a := slotAddr t c c.p
  let bs := sendBytes o c
  let tells := s.sendSays o.g (channelOrder o.w)
  let s := if c.deaf then s else s.writeOwn core a bs o.g true tells
  let data := if c.deaf then c.data else c.data ++ [(bs, tells)]
  let s := s.setChannel t n { c with p := c.p + 1, data := data }
  (s.laneRetire o.cur { o.g with used := true }).emitG o.g 0x0D n (c.p + 1)

/-- `send` (R259, R260). -/
def execSend (w : LaneW) (s : State) : Out :=
  laneWordIf (.send w) sendSpec (fun s o =>
    if o.g.idem then s.laneTrap o 0x0B 0
    else
      match s.channel o.g (channelOf o.w) with
      | none => s
      | some (t, c) =>
        if s.sendReady o.g c (channelOrder o.w) then s.sendNow o t c
        else s.laneStall { o.g with used := true } (.send o.cur o.w)) s

/-- The word of a waiting `send` or `recv`, as it stands in execution. -/
def Group.waitingOp (g : Group) : Option LaneOp :=
  match g.ln.wait with
  | .send c w | .recv c w => some ⟨c, g, w, lanesOf (selected c g.ln w)⟩
  | _ => none

/-- SEND_SLOT_WRITE (R260): a stalled `send` writes its slot once it is free. -/
def execSendSlotWrite (g : Nat) (s : State) : Out :=
  groupStep g (fun _ g => g.laneRuns && match g.ln.wait with | .send _ _ => true | _ => false)
    (fun s g =>
      match g.waitingOp with
      | none => s
      | some o =>
        match s.channel g (channelOf o.w) with
        | none => s
        | some (t, c) => if s.sendReady g c (channelOrder o.w) then s.sendNow o t c else s) s

-- recv.

/-- The use of the fields of `recv` for the channel's slot size, none where the word is not legal (R259). -/
def recvSpec (s : State) (o : LaneOp) (p : LaneSpec) : Option LaneSpec :=
  match s.channel o.g (channelOf o.w) with
  | none => none
  | some (_, c) =>
    if !s.isEnd o.g c.consRole c.consGrp then none
    else if c.wide then (if DstKind.w128.accepts o.w.d then some { p with d := .w128 } else none)
    else some p

/-- A `recv` may complete: there is data, or the channel is closed and empty (R227, R228); an acquire load before it has
returned (R251). -/
def State.recvReady (s : State) (g : Group) (c : Channel) : Bool :=
  (decide (c.c < c.p) || c.closed) && !s.acquirePending g

/-- The status mask of a `recv` written in the active lanes (R261). -/
def Lanes.recvStatus (l : Lanes) (o : LaneOp) (x : Bool) : Lanes :=
  let m := bits o.w.md8 2 0
  if m == 0 then l else o.act.foldl (fun l i => l.setMask m i x) l

/-- What the oldest slot that is not taken holds: the data of its send, whatever was stored to it since, and the send's releases
(R227, R293). -/
def State.slotData (s : State) (core a : Nat) (c : Channel) : List Byte × List Release :=
  (c.data.head?).getD (memRead (s.core core).scratch a c.bytes, [])

/-- A `recv` takes a slot, or learns that the channel is closed, and completes (R261). With `.acq` it is an acquire at core scope, and
else it orders nothing (R283, R293). A slot word with an error that cannot be corrected kills the group (R374). -/
def State.recvNow (s : State) (o : LaneOp) (t : Team) (c : Channel) : State :=
  let n := channelOf o.w
  let core := o.g.place.core
  let reg := o.w.d.toNat
  if c.c < c.p then
    let a := slotAddr t c c.c
    match (List.range (c.bytes / 8)).find? fun k => (s.core core).poisonS.contains (a / 8 + k) with
    | some k => s.kill o.g true (o.cur.lpc.setWidth 64) (word (a - t.sxbase + 8 * k)) (poolReport core (a / 8 + k))
    | none =>
      let (bs, tells) := s.slotData core a c
      let value (i : Nat) : BitVec 128 :=
        (List.range c.count).foldl (fun x r =>
          x ||| (BitVec.ofNat 128 (leNat ((bs.drop (128 * r + 4 * i)).take 4)) <<< (32 * r))) 0
      let g := { o.g with ln := o.g.ln.recvStatus o true }
      let g := g.deferLanes o.cur reg c.count (o.act.map fun i => knownPiece i (value i))
      let s := if channelOrder o.w then s.acquires o.g true 1 tells else s.learnAt o.g true true [] tells
      ((s.setChannel t n { c with c := c.c + 1, data := c.data.drop 1 }).laneRetire o.cur g).emitG o.g 0x0E n (c.c + 1)
  else
    let g := { o.g with ln := o.g.ln.recvStatus o false }
    s.laneRetire o.cur (g.deferLanes o.cur reg c.count [])

/-- `recv` (R259, R261). -/
def execRecv (w : LaneW) (s : State) : Out :=
  laneWordIf (.recv w) recvSpec (fun s o =>
    match s.channel o.g (channelOf o.w) with
    | none => s
    | some (t, c) => if s.recvReady o.g c then s.recvNow o t c else s.laneStall o.g (.recv o.cur o.w)) s

/-- RECV_DELIVERY (R261): a stalled `recv` takes a slot, or learns that the channel is closed. -/
def execRecvDelivery (g : Nat) (s : State) : Out :=
  groupStep g (fun _ g => g.laneRuns && match g.ln.wait with | .recv _ _ => true | _ => false)
    (fun s g =>
      match g.waitingOp with
      | none => s
      | some o =>
        match s.channel g (channelOf o.w) with
        | none => s
        | some (t, c) => if s.recvReady g c then s.recvNow o t c else s) s

end Sys2Proof.Machine
end

