-- ==== Sys2Proof/Machine/Barrier.lean ====
section
/-! DEFINITION. The `bar` family (R265 to R270) and the steps that end its waits. An arrival is performed when its word
issues (log entry 12). -/

namespace Sys2Proof.Machine

open Sys2Proof

/-- The checks that a `bar` word makes of the word at window offset `o`, in the order of R25 (R266, R119). -/
def State.barCause (s : State) (g : Group) (o : Word) (arrival : Bool) : Option (Nat × Word) :=
  match s.scratchCause g o 8 true with
  | some c => some (c, o)
  | none => if arrival && g.idem then some (0x0B, 0) else none

/-- The accesses of the group that a `bar` word waits for: its own queued accesses of the word, and an acquire load of the
scalar stream (R93, R89). -/
def State.barOrder (s : State) (g : Group) (a : Nat) : Bool :=
  !((g.sq ++ (s.core g.place.core).reqs).any fun r =>
    r.who.g == g.uid && ((r.scratch && overlap r.addr r.bytes a 8)
      || (!r.who.lane && match r.op with | .load _ acq _ => acq | _ => false)))

/-- What a relaxed arrival waits for: the releases of the fences before it (R269). -/
def State.rlxReady (s : State) (g : Group) : Bool := !(s.allReqs.any fun r => r.isMarker && r.who.g == g.uid)

/-- What a releasing arrival waits for at core scope: every earlier access has entered the core's order, every earlier
read has returned, and every earlier Plumb write is applied (R269, R275). -/
def State.relReady (s : State) (g : Group) : Bool :=
  g.sq.isEmpty && !s.readBefore g false g.seq g.sc.laneSeq && !s.plumbAhead g false

/-- Offset in the core's scratchpad of a window offset. -/
def Group.barAddr (g : Group) (o : Word) : Nat := g.place.sxbase.toNat + o.toNat

/-- A `bar` word on a barrier of the group's own team: its checks, the wait for the accesses before it, the kill of a
group that reads an error in the word (R374), and then `body` with the team and the word's address. -/
def barWordOp (i : Instr) (regs : List Nat) (sa : BitVec 6) (arrival reads : Bool) (ready : State → Group → Bool)
    (body : State → Group → Bool → Team → Nat → Word → State) (s : State) : Out :=
  scalarWord i false regs
    (fun s g h =>
      let o := g.getS sa
      match s.barCause g o arrival, s.team? g.place.team with
      | some (c, v), _ => s.trapScalar g c v
      | none, none => s
      | none, some t =>
        let a := g.barAddr o
        if !(s.barOrder g a && ready s g) then s.park g false (.stall .order)
        else if reads && (s.core g.place.core).poisonS.contains (a / 8) then
          s.kill g false g.sc.spc o (poolReport g.place.core (a / 8))
        else body s g h t a o) s

/-- `bar.init` (R266): groups parked on the word are released against the new phase (R270). -/
def execBarInit (a b : BitVec 6) (s : State) : Out :=
  barWordOp (.barInit a b) [sReg a, sReg b] a false false (fun _ _ => true)
    (fun s g h t x _ =>
      let w := word (bits (g.getS b) 15 0)
      let t := { t with remote := t.remote.filter fun r => r.1 != x }
      let s := ((s.writeOwn t.core x (leBytes 8 w.toNat) g false (fenceReleases (s.knownBy g false))).setTeam t).retire g h
        (g.sc.spc + 4)
      (s.barRelease t x w).hush fun m => m.isBar t.uid (x - t.sxbase)) s

/-- The releases that an arrival of a group carries: its own at core scope, and those of the fences before it (R269, R283). -/
def State.arrivalSays (s : State) (g : Group) (rel : Bool) : List Release :=
  (if rel then [s.releaseOf g false 1] else []) ++ fenceReleases (s.knownBy g false)

/-- An arrival at the word at `x` of the group's team: the phase at the arrival, its releases, the event and the act (R267, R269). -/
def State.arrive (s : State) (g : Group) (t : Team) (x : Nat) (o : Word) (fn : Nat) (rel : Bool) : Nat × State :=
  let p := barPhase (s.barWord t.core x)
  let s := s.tell (.bar t.uid (x - t.sxbase) p) (s.arrivalSays g rel)
  let s := s.emitG g 0x07 fn (o.toNat % 2 ^ 32)
  (p, s.barTest t x 1 g.sender)

/-- `bar.arv.rlx` and `bar.arv.rel` (R266, R267). -/
def arvWord (i : Instr) (d a : BitVec 6) (fn : Nat) (rel : Bool) (ready : State → Group → Bool) (s : State) : Out :=
  barWordOp i [sReg d, sReg a] a true true ready
    (fun s g h t x o =>
      let (p, s) := s.arrive g t x o fn rel
      s.retire ({ g with used := true }.deferValue (sReg d) (word p)) h (g.sc.spc + 4)) s

/-- `bar.arv.rlx` (R266, R269). -/
def execBarArvRlx (d a : BitVec 6) (s : State) : Out := arvWord (.barArvRlx d a) d a 1 false State.rlxReady s
/-- `bar.arv.rel` (R266, R269). -/
def execBarArvRel (d a : BitVec 6) (s : State) : Out :=
  arvWord (.barArvRel d a) d a 2 true (fun s g => s.rlxReady g && s.relReady g) s

/-- A barrier wait that ends at once, with the result of a phase (R266, R269). -/
def State.barFinish (s : State) (g : Group) (hold : Bool) (d : BitVec 6) (t : Team) (x phase : Nat) : State :=
  let w := s.barWord t.core x
  let scope := t.phaseScope x phase
  let s := s.acquires g false scope (s.told (.bar t.uid (x - t.sxbase) phase))
  (s.acquireAt t.core scope).retire (g.deferValue (sReg d) (barResult phase (barAB w))) hold
    (g.sc.spc + 4)

/-- `bar.wait` (R266, R267). -/
def execBarWait (d a b : BitVec 6) (s : State) : Out :=
  barWordOp (.barWait d a b) [sReg d, sReg a, sReg b] a false true (fun _ _ => true)
    (fun s g h t x _ =>
      let p := bits (g.getS b) 15 0
      let s := s.barTest t x 0 g.sender
      if barPhase (s.barWord t.core x) != p then s.barFinish g h d t x p
      else s.park g h (.barWait (sReg d) x p false)) s

/-- `bar.arw` (R266): the arrival, and then the wait on the phase arrived in. -/
def execBarArw (d a : BitVec 6) (s : State) : Out :=
  barWordOp (.barArw d a) [sReg d, sReg a] a true true (fun s g => s.rlxReady g && s.relReady g)
    (fun s g h t x o =>
      let (p, s) := s.arrive g t x o 4 true
      let g := { g with used := true }
      if barPhase (s.barWord t.core x) != p then s.barFinish g h d t x p
      else s.park g h (.barWait (sReg d) x p true)) s

/-- `bar.query` (R266, R269): a relaxed scratch load of the word, which a watch comparator sees as any other (R382). -/
def execBarQuery (d a : BitVec 6) (s : State) : Out :=
  barWordOp (.barQuery d a) [sReg d, sReg a] a false false (fun _ _ => true)
    (fun s g h _ x o =>
      (s.watch g false true true false [(0, o.toNat, 8)]).sendRead g h (sReg d) (.ext 8 false) true x o false
        (.load 8 false 0)) s

/-- BAR_WAIT_RELEASE (R267): a group whose phase has ended goes on with its result. -/
def execBarWaitRelease (g : Nat) (s : State) : Out :=
  groupStep g (fun _ g => g.life == .resident && match g.sc.wait with | .barDone _ _ _ _ => true | _ => false)
    (fun s g =>
      match g.sc.wait with
      | .barDone d r scope _ => (s.acquireAt g.place.core scope).complete (g.deferValue d r)
      | _ => s) s

-- Remote arrivals (R268).

/-- The fields of the word that `bar.arvx` names (R268). -/
def arvxCore (x : Word) : Nat := 128 * bits x 34 31 + bits x 30 24
def arvxOff (x : Word) : Nat := bits x 23 0

/-- The team on a core whose scratch window lies in the pool and holds the 8 bytes at an offset of the core's scratchpad. -/
def State.windowTeam (s : State) (core a : Nat) : Option Team :=
  s.teams.find? fun t => t.core == core && t.saved.isNone && decide (t.sxbase ≤ a) && decide (a + 8 ≤ t.sxbase + t.sxsize)

/-- The smallest scope that contains two cores (R64, R269). -/
def scopeBetween (a b : Nat) : Nat :=
  if a == b then 1
  else if dieOf a == dieOf b then 2
  else if stackOf (dieOf a) == stackOf (dieOf b) then 3
  else 4

/-- The checks of `bar.arvx` (R268, R119). WORLD comes before PERM, since a die of another world runs no team of the
context (log entry 12). A word of the issuer's own core may be locked (R266, R337). -/
def State.arvxCause (s : State) (g : Group) (x : Word) : Option (Nat × Word) :=
  let core := arvxCore x
  let mine := match s.windowTeam core (arvxOff x) with
    | some t => match s.grid? t.grid with
      | some d => d.ctx == g.place.ctx
      | none => false
    | none => false
  if arvxOff x % 8 != 0 then some (0x05, x)
  else if (s.die (dieOf core)).world != s.worldOf g then some (0x12, x)
  else if !mine then some (0x11, x)
  else if core == g.place.core && (s.core core).locked 0 0 (arvxOff x) 8 true then some (0x06, word (arvxOff x))
  else if g.idem then some (0x0B, 0)
  else none

/-- `bar.arvx` (R268, R269): the release is sent, and the stream waits for the acknowledgement. -/
def execBarArvx (a : BitVec 6) (s : State) : Out :=
  scalarWord (.barArvx a) false [sReg a]
    (fun s g h =>
      let x := g.getS a
      if bits x 63 35 != 0 then s.trapScalar g 0x01 (illegalWord h (.barArvx a))
      else
        match s.arvxCause g x with
        | some (c, v) => s.trapScalar g c v
        | none =>
          let scope := scopeBetween g.place.core (arvxCore x)
          let (m, s) := s.release { g with used := true } false scope
          let g := (s.group? g.uid).getD g
          let t := match s.windowTeam (arvxCore x) (arvxOff x) with
            | some t => t.uid
            | none => 0
          let r : Arrival := ⟨g.origin (s.worldOf g) false g.sc.spc, t, arvxCore x, arvxOff x, scope, some m⟩
          let s := { s with arrivals := s.arrivals ++ [r] }
          (s.retireParked g h .barArvx).emitG g 0x07 5 (arvxOff x)) s

/-- The team that a remote arrival goes to has its windows saved: the arrival waits until they are back (R368). -/
def State.arrivalAway (s : State) (r : Arrival) : Bool := (s.team? r.team).any fun t => t.saved.isSome

/-- A remote arrival applied by the target's barrier unit (R268): it counts in the phase it meets. One to a team that has ended
counts nowhere. -/
def State.applyArrival (s : State) (r : Arrival) : State :=
  match s.team? r.team with
  | none => s
  | some t =>
    let p := barPhase (s.barWord r.core r.offset)
    let t := { t with remote := t.remote ++ [(r.offset, p, r.scope)] }
    let tells := match r.marker with
      | some m => s.told (.marker m)
      | none => []
    ((s.setTeam t).tell (.bar t.uid (r.offset - t.sxbase) p) tells).barTest t r.offset 1 r.who.sender

/-- BAR_ARVX_ACKNOWLEDGE (R268): the first remote arrival of a group whose release is performed is applied, and the group
goes on. -/
def execBarArvxAcknowledge (g : Nat) (s : State) : Out :=
  match s.arrivals.find? fun r => r.who.g == g with
  | none => .next s
  | some r =>
    if !s.releasedOpt r.marker || s.arrivalAway r then .next s
    else
      let s := { s with arrivals := s.arrivals.erase r }
      let s := s.applyArrival r
      match s.group? g with
      | some g =>
        if g.sc.wait = .barArvx && !(s.arrivals.any fun x => x.who.g == g.uid) then .next (s.unpark g) else .next s
      | none => .next s

end Sys2Proof.Machine
end

