-- ==== Sys2Proof/Machine/Scalar.lean ====
section
/-! DEFINITION. The scalar integer, condition, selection and branch words (R77 to R87). -/

namespace Sys2Proof.Machine

open Sys2Proof

/-- An immediate-class word (R17): register `r`, as TVAL numbers it, takes `x`, and the stream goes on. -/
def State.writeNow (s : State) (g : Group) (hold : Bool) (r : Nat) (x : Word) : State :=
  s.retire (g.setReg r x) hold (g.sc.spc + 4)

/-- A deferred-class word whose result is known at issue (R17, R18). -/
def State.writeLater (s : State) (g : Group) (hold : Bool) (r : Nat) (x : Word) : State :=
  s.retire (g.deferValue r x) hold (g.sc.spc + 4)

/-- Immediate-class `alu` operation of two registers (R77). -/
def aluNow (i : Instr) (d a b : BitVec 6) (f : Word → Word → Word) (s : State) : Out :=
  scalarWord i false [sReg d, sReg a, sReg b] (fun s g h => s.writeNow g h (sReg d) (f (g.getS a) (g.getS b))) s

/-- Deferred-class `alu` operation of two registers (R77). -/
def aluLater (i : Instr) (d a b : BitVec 6) (f : Word → Word → Word) (s : State) : Out :=
  scalarWord i false [sReg d, sReg a, sReg b] (fun s g h => s.writeLater g h (sReg d) (f (g.getS a) (g.getS b))) s

/-- Unary operation, or an operation with an immediate, of the immediate class (R77 to R79). -/
def unaryNow (i : Instr) (d a : BitVec 6) (f : Word → Word) (s : State) : Out :=
  scalarWord i false [sReg d, sReg a] (fun s g h => s.writeNow g h (sReg d) (f (g.getS a))) s

/-- An operation of condition registers (R84). -/
def copNow (i : Instr) (d : BitVec 3) (regs : List Nat) (f : Group → Bool) (s : State) : Out :=
  scalarWord i false (cReg d :: regs) (fun s g h => s.writeNow g h (cReg d) (flagWord (f g))) s

/-- `add` (R77). -/
def execAdd (d a b : BitVec 6) (s : State) : Out := aluNow (.add d a b) d a b (fun x y => x + y) s

/-- `sub` (R77). -/
def execSub (d a b : BitVec 6) (s : State) : Out := aluNow (.sub d a b) d a b (fun x y => x - y) s

/-- `and` (R77). -/
def execAnd (d a b : BitVec 6) (s : State) : Out := aluNow (.and d a b) d a b (fun x y => x &&& y) s

/-- `or` (R77). -/
def execOr (d a b : BitVec 6) (s : State) : Out := aluNow (.or d a b) d a b (fun x y => x ||| y) s

/-- `xor` (R77). -/
def execXor (d a b : BitVec 6) (s : State) : Out := aluNow (.xor d a b) d a b (fun x y => x ^^^ y) s

/-- `andn` (R77). -/
def execAndn (d a b : BitVec 6) (s : State) : Out := aluNow (.andn d a b) d a b (fun x y => x &&& ~~~y) s

/-- `shl` (R77). -/
def execShl (d a b : BitVec 6) (s : State) : Out := aluNow (.shl d a b) d a b (fun x y => x <<< (bits y 5 0)) s

/-- `shr` (R77). -/
def execShr (d a b : BitVec 6) (s : State) : Out := aluNow (.shr d a b) d a b (fun x y => x >>> (bits y 5 0)) s

/-- `sar` (R77). -/
def execSar (d a b : BitVec 6) (s : State) : Out := aluNow (.sar d a b) d a b (fun x y => x.sshiftRight (bits y 5 0)) s

/-- `rol` (R77). -/
def execRol (d a b : BitVec 6) (s : State) : Out := aluNow (.rol d a b) d a b (fun x y => x.rotateLeft (bits y 5 0)) s

/-- `min` (R77). -/
def execMin (d a b : BitVec 6) (s : State) : Out := aluNow (.min d a b) d a b (fun x y => minSigned x y) s

/-- `max` (R77). -/
def execMax (d a b : BitVec 6) (s : State) : Out := aluNow (.max d a b) d a b (fun x y => maxSigned x y) s

/-- `minn` (R77). -/
def execMinn (d a b : BitVec 6) (s : State) : Out := aluNow (.minn d a b) d a b (fun x y => minNatural x y) s

/-- `maxn` (R77). -/
def execMaxn (d a b : BitVec 6) (s : State) : Out := aluNow (.maxn d a b) d a b (fun x y => maxNatural x y) s

/-- `mul` (R77). -/
def execMul (d a b : BitVec 6) (s : State) : Out := aluLater (.mul d a b) d a b (fun x y => x * y) s

/-- `mulh` (R77). -/
def execMulh (d a b : BitVec 6) (s : State) : Out := aluLater (.mulh d a b) d a b (fun x y => mulHigh x y) s

/-- `mulhn` (R77). -/
def execMulhn (d a b : BitVec 6) (s : State) : Out := aluLater (.mulhn d a b) d a b (fun x y => mulHighNatural x y) s

/-- `div` (R77). -/
def execDiv (d a b : BitVec 6) (s : State) : Out := aluLater (.div d a b) d a b (fun x y => divSigned x y) s

/-- `divn` (R77). -/
def execDivn (d a b : BitVec 6) (s : State) : Out := aluLater (.divn d a b) d a b (fun x y => divNatural x y) s

/-- `rem` (R77). -/
def execRem (d a b : BitVec 6) (s : State) : Out := aluLater (.rem d a b) d a b (fun x y => remSigned x y) s

/-- `remn` (R77). -/
def execRemn (d a b : BitVec 6) (s : State) : Out := aluLater (.remn d a b) d a b (fun x y => remNatural x y) s

/-- `clz` (R77). -/
def execClz (d a : BitVec 6) (s : State) : Out := unaryNow (.clz d a) d a (fun x => word (leadingZeros x 64)) s

/-- `ctz` (R77). -/
def execCtz (d a : BitVec 6) (s : State) : Out := unaryNow (.ctz d a) d a (fun x => word (trailingZeros x 64)) s

/-- `popc` (R77). -/
def execPopc (d a : BitVec 6) (s : State) : Out := unaryNow (.popc d a) d a (fun x => word (countOnes x 64)) s

/-- `brev` (R77). -/
def execBrev (d a : BitVec 6) (s : State) : Out := unaryNow (.brev d a) d a (fun x => x.reverse) s

/-- `addi` (R78). -/
def execAddi (d a : BitVec 6) (i : BitVec 13) (s : State) : Out := unaryNow (.addi d a i) d a (fun x => x + i.signExtend 64) s

/-- `andi` (R78). -/
def execAndi (d a : BitVec 6) (i : BitVec 13) (s : State) : Out := unaryNow (.andi d a i) d a (fun x => x &&& i.signExtend 64) s

/-- `ori` (R78). -/
def execOri (d a : BitVec 6) (i : BitVec 13) (s : State) : Out := unaryNow (.ori d a i) d a (fun x => x ||| i.signExtend 64) s

/-- `xori` (R78). -/
def execXori (d a : BitVec 6) (i : BitVec 13) (s : State) : Out := unaryNow (.xori d a i) d a (fun x => x ^^^ i.signExtend 64) s

/-- `shli` (R79). -/
def execShli (d a n : BitVec 6) (s : State) : Out := unaryNow (.shli d a n) d a (fun x => x <<< n.toNat) s

/-- `shri` (R79). -/
def execShri (d a n : BitVec 6) (s : State) : Out := unaryNow (.shri d a n) d a (fun x => x >>> n.toNat) s

/-- `sari` (R79). -/
def execSari (d a n : BitVec 6) (s : State) : Out := unaryNow (.sari d a n) d a (fun x => x.sshiftRight n.toNat) s

/-- `roli` (R79). -/
def execRoli (d a n : BitVec 6) (s : State) : Out := unaryNow (.roli d a n) d a (fun x => x.rotateLeft n.toNat) s

/-- `muli` (R78), of the deferred class. -/
def execMuli (d a : BitVec 6) (i : BitVec 13) (s : State) : Out :=
  scalarWord (.muli d a i) false [sReg d, sReg a]
    (fun s g h => s.writeLater g h (sReg d) (g.getS a * i.signExtend 64)) s

/-- `lui` (R80). -/
def execLui (d : BitVec 6) (i : BitVec 19) (s : State) : Out :=
  scalarWord (.lui d i) false [sReg d] (fun s g h => s.writeNow g h (sReg d) (i.signExtend 64 <<< 13)) s

/-- `addpc` (R80). -/
def execAddpc (d : BitVec 6) (i : BitVec 19) (s : State) : Out :=
  scalarWord (.addpc d i) false [sReg d]
    (fun s g h => s.writeNow g h (sReg d) (g.sc.spc + i.signExtend 64 <<< 2)) s

/-- `cmp` (R81). -/
def execCmp (a b : BitVec 6) (k : BitVec 4) (c : BitVec 3) (s : State) : Out :=
  scalarWord (.cmp a b k c) false [sReg a, sReg b, cReg c]
    (fun s g h => s.writeNow g h (cReg c) (flagWord (condition k.toNat (g.getS a) (g.getS b)))) s

/-- `cmpi` (R82). The target is named in the sd field, so it is checked first (R20). -/
def execCmpi (k c : BitVec 3) (a : BitVec 6) (i : BitVec 13) (s : State) : Out :=
  scalarWord (.cmpi k c a i) false [cReg c, sReg a]
    (fun s g h => s.writeNow g h (cReg c) (flagWord (condition k.toNat (g.getS a) (i.signExtend 64)))) s

/-- `sel` (R83). -/
def execSel (d a b : BitVec 6) (n : Bool) (c : BitVec 3) (s : State) : Out :=
  scalarWord (.sel d a b n c) false [sReg d, sReg a, sReg b, cReg c]
    (fun s g h => s.writeNow g h (sReg d) (if g.getC c != n then g.getS a else g.getS b)) s

/-- `cset` (R84). -/
def execCset (d : BitVec 3) (a : BitVec 6) (s : State) : Out :=
  copNow (.cset d a) d [sReg a] (fun g => g.getS a != 0) s

/-- `cand` (R84). -/
def execCand (d a b : BitVec 3) (s : State) : Out :=
  copNow (.cand d a b) d [cReg a, cReg b] (fun g => g.getC a && g.getC b) s

/-- `cor` (R84). -/
def execCor (d a b : BitVec 3) (s : State) : Out :=
  copNow (.cor d a b) d [cReg a, cReg b] (fun g => g.getC a || g.getC b) s

/-- `cxor` (R84). -/
def execCxor (d a b : BitVec 3) (s : State) : Out :=
  copNow (.cxor d a b) d [cReg a, cReg b] (fun g => g.getC a != g.getC b) s

/-- `cnot` (R84). -/
def execCnot (d a : BitVec 3) (s : State) : Out := copNow (.cnot d a) d [cReg a] (fun g => !g.getC a) s

/-- `movc` (R84). -/
def execMovc (d : BitVec 6) (a : BitVec 3) (s : State) : Out :=
  scalarWord (.movc d a) false [sReg d, cReg a] (fun s g h => s.writeNow g h (sReg d) (flagWord (g.getC a))) s

/-- The address `n` words from an instruction at `spc`. -/
def wordsFrom {w : Nat} (spc : Word) (n : BitVec w) : Word := spc + n.signExtend 64 <<< 2

/-- `br` (R85). -/
def execBr (c : BitVec 3) (n : Bool) (o : BitVec 19) (s : State) : Out :=
  scalarWord (.br c n o) false [cReg c]
    (fun s g h => s.retire g h (if g.getC c != n then wordsFrom g.sc.spc o else g.sc.spc + 4)) s

/-- `jmp` (R86). -/
def execJmp (d : BitVec 6) (o : BitVec 19) (s : State) : Out :=
  scalarWord (.jmp d o) false [sReg d]
    (fun s g h => s.retire (g.setS d (g.sc.spc + 4)) h (wordsFrom g.sc.spc o)) s

/-- `jr` (R16, R87): a misaligned target raises MISALIGN and writes no link. -/
def execJr (d a : BitVec 6) (i : BitVec 13) (s : State) : Out :=
  scalarWord (.jr d a i) false [sReg d, sReg a]
    (fun s g h =>
      let target := wordsFrom (g.getS a) i
      if bits target 1 0 != 0 then s.trapScalar g 0x05 target
      else s.retire (g.setS d (g.sc.spc + 4)) h target) s

end Sys2Proof.Machine
end

