-- ==== Sys2Proof/Machine/System.lean ====
section
/-! DEFINITION. Special registers (R9 to R11, R104 to R107), the sys group (R114 to R120), datum registers (R99 to R102)
and the lane-block words (R108 to R113). -/

namespace Sys2Proof.Machine

open Sys2Proof

-- Special registers.

/-- Who may access a special register: the read in user mode, the write in user mode and the write in supervisor mode
(R9, R105); none for a number that no register has. -/
def srAccess (n : Nat) : Option (Bool × Bool × Bool) :=
  match n with
  | 0x000 | 0x001 | 0x002 | 0x003 | 0x004 | 0x005 | 0x006 | 0x007 | 0x010 => some (true, false, false)
  | 0x011 | 0x012 | 0x013 | 0x014 | 0x015 | 0x016 | 0x017 => some (true, false, true)
  | 0x018 => some (true, true, true)
  | 0x019 | 0x01A | 0x01B | 0x01C => some (false, false, true)
  | 0x020 | 0x021 | 0x022 | 0x023 => some (true, false, false)
  | 0x030 | 0x031 | 0x032 | 0x033 | 0x034 | 0x035 | 0x040 | 0x041 | 0x042 => some (true, false, false)
  | 0x1000 | 0x1001 | 0x1002 | 0x1003 => some (true, false, true)
  | _ => none

/-- Whether the group's mode may read a special register. -/
def Group.mayReadSr (g : Group) (n : Nat) : Bool :=
  match srAccess n with
  | some (u, _, _) => u || g.sc.sup
  | none => false

/-- Whether the group's mode may write a special register. -/
def Group.mayWriteSr (g : Group) (n : Nat) : Bool :=
  match srAccess n with
  | some (_, u, p) => if g.sc.sup then p else u
  | none => false

/-- The value of a special register (R105). -/
def State.readSr (s : State) (g : Group) (n : Nat) : Word :=
  match n with
  | 0x000 => g.place.gid
  | 0x001 => g.place.tidx
  | 0x002 => word (g.place.core % 128)
  | 0x003 => word g.die
  | 0x004 => word g.role.role
  | 0x005 => g.place.ngrp
  | 0x006 => g.place.gser.setWidth 64
  | 0x007 => match s.grid? g.place.grid with
    | some t => t.handle
    | none => 0
  | 0x010 => g.place.lcb
  | 0x011 => g.sr.tvb
  | 0x012 => g.sr.lsv
  | 0x013 => g.sr.tpc
  | 0x014 => g.sr.tcause
  | 0x015 => g.sr.tval
  | 0x016 => g.sr.tmask
  | 0x017 => g.sr.tlpc
  | 0x018 => g.fflags.setWidth 64
  | 0x019 => g.sr.tsave[0]
  | 0x01A => g.sr.tsave[1]
  | 0x01B => g.sr.tsave[2]
  | 0x01C => g.sr.tsave[3]
  | 0x020 => s.meridian g.die
  | 0x021 => word s.now
  | 0x022 => g.lbq
  | 0x023 => flagWord g.idem
  | 0x030 => g.place.args
  | 0x031 => g.place.sxbase
  | 0x032 => g.place.accbase
  | 0x033 => g.place.sxsize
  | 0x034 => g.place.accsize
  | 0x035 => word g.role.vregs
  | 0x040 => (s.core g.place.core).part.setWidth 64
  | 0x041 => word g.role.prio
  | 0x042 => g.place.eclass
  | 0x1000 => g.cnt.scnt
  | 0x1001 => g.cnt.lcnt
  | 0x1002 => g.cnt.parkc
  | 0x1003 => g.cnt.stallc
  | _ => 0

/-- The group with a special register written (R10, R11, R38, R105): bits that a register does not have are ignored. -/
def Group.writeSr (g : Group) (n : Nat) (x : Word) : Group :=
  match n with
  | 0x011 => { g with sr := { g.sr with tvb := x &&& ~~~0xFFF#64 } }
  | 0x012 => { g with sr := { g.sr with lsv := x } }
  | 0x013 => { g with sr := { g.sr with tpc := x } }
  | 0x014 => { g with sr := { g.sr with tcause := x &&& 0x3FF } }
  | 0x015 => { g with sr := { g.sr with tval := x } }
  | 0x016 => { g with sr := { g.sr with tmask := x &&& 0xFFFFFFFF } }
  | 0x017 => { g with sr := { g.sr with tlpc := x &&& 0xFFFFFFFF } }
  | 0x018 => { g with fflags := x.setWidth 5 }
  | 0x019 => { g with sr := { g.sr with tsave := g.sr.tsave.set 0 x } }
  | 0x01A => { g with sr := { g.sr with tsave := g.sr.tsave.set 1 x } }
  | 0x01B => { g with sr := { g.sr with tsave := g.sr.tsave.set 2 x } }
  | 0x01C => { g with sr := { g.sr with tsave := g.sr.tsave.set 3 x } }
  | 0x1000 => { g with cnt := { g.cnt with scnt := x } }
  | 0x1001 => { g with cnt := { g.cnt with lcnt := x } }
  | 0x1002 => { g with cnt := { g.cnt with parkc := x } }
  | 0x1003 => { g with cnt := { g.cnt with stallc := x } }
  | _ => g

/-- `getsr` (R104): a number that is not assigned, or not readable in the mode, raises ILLEGAL (R9). -/
def execGetsr (d : BitVec 6) (i : BitVec 13) (s : State) : Out :=
  scalarWordIf (.getsr d i) (fun g => g.mayReadSr i.toNat) [sReg d]
    (fun s g h => s.writeNow g h (sReg d) (s.readSr g i.toNat)) s

/-- `setsr` (R104). SCNT then counts the `setsr` itself, which completes after its write (R105). -/
def execSetsr (a : BitVec 6) (i : BitVec 13) (s : State) : Out :=
  scalarWordIf (.setsr a i) (fun g => g.mayWriteSr i.toNat) [sReg a]
    (fun s g h => s.retire (g.writeSr i.toNat (g.getS a)) h (g.sc.spc + 4)) s

-- The sys group (R114 to R120).

/-- Blocks queued or running (R110). -/
def Group.blocks (g : Group) : Nat := g.ln.queue.length + if g.ln.cur.isSome then 1 else 0

/-- What an `lwait` that covers the ended blocks makes visible: their flags and `ckacc` sums (R39, R110, R206), and their
accesses as earlier ones of the scalar stream (R98). -/
def Group.cover (g : Group) : Group :=
  { g with
    fflags := g.fflags ||| g.ln.endFl
    k := Vector.zipWith (· + ·) g.k g.ln.endK
    ln := { g.ln with endFl := 0, endK := Vector.replicate 4 0 }
    sc := { g.sc with laneSeq := g.ln.endSeq } }

/-- `nop` (R114). -/
def execNop (s : State) : Out := scalarWord .nop false [] (fun s g h => s.retire g h (g.sc.spc + 4)) s

/-- `exit` (R115): the group waits and then retires, in a step of its own. -/
def execExit (s : State) : Out := scalarWord .exit false [] (fun s g h => s.park g h .exit) s

/-- `yield` (R116). -/
def execYield (s : State) : Out :=
  scalarWord .yield false [] (fun s g h =>
    s.retire { g with sc := { g.sc with last := some s.now }, ln := { g.ln with last := some s.now } } h (g.sc.spc + 4)) s

/-- `bkpt` (R114). -/
def execBkpt (s : State) : Out := scalarWord .bkpt false [] (fun s g _ => s.trapScalar g 0x0A 0) s

/-- `trap` (R114). -/
def execTrap (a : BitVec 6) (s : State) : Out :=
  scalarWord (.trap a) false [sReg a] (fun s g _ => s.trapScalar g 0x09 (g.getS a)) s

/-- `tret` (R28, R117). -/
def execTret (s : State) : Out :=
  scalarWord .tret false [] (fun s g h =>
    if bits g.sr.tpc 1 0 != 0 then s.trapScalar g 0x05 g.sr.tpc
    else s.retire g.trapReturn h g.sr.tpc) s

/-- Whether `idemb` may complete (R118). -/
def Group.idembReady (g : Group) : Bool := g.blocks == 0 && g.sc.outst.isEmpty

/-- The snapshot and the restart point of an idempotent region (R118). -/
def Group.openRegion (g : Group) : Group :=
  let g := g.cover
  { g with
    idem := true
    snap := some ⟨g.sc.s, g.sc.c, g.dm, g.k, g.sc.spc + 4, g.sc.sup⟩ }

/-- `idemb` (R118). -/
def execIdemb (s : State) : Out :=
  scalarWord .idemb false [] (fun s g h =>
    if g.idembReady then s.retire g.openRegion h (g.sc.spc + 4) else s.park g h .idemb) s

/-- The end of an idempotent region (R118). -/
def Group.closeRegion (g : Group) : Group := { g.cover with idem := false, snap := none }

/-- `ideme` (R118). -/
def execIdeme (s : State) : Out :=
  scalarWord .ideme false [] (fun s g h =>
    if g.blocks == 0 then s.retire g.closeRegion h (g.sc.spc + 4) else s.park g h .ideme) s

/-- A group halts (R120): TPC names the next instruction, both streams stop and the control cores are interrupted. The hold
of the `halt` follows when the group is resumed (R19). -/
def State.haltNow (s : State) (g : Group) (hold : Bool) : State :=
  let next := g.sc.spc + 4
  let g := { g with
    life := .halted
    sr := { g.sr with tpc := next }
    sc := { g.sc with wait := if hold then .hold else .ready, hold := false, walked := [], vector := none, spc := next }
    cnt := { g.cnt with scnt := g.cnt.scnt + 1 } }
  (s.setGroup g).send (.controlInterrupt "group halted" g.place.ctx g.place.core g.place.slot)

/-- `halt` (R120). -/
def execHalt (s : State) : Out :=
  scalarWord .halt true [] (fun s g h => if g.sc.outst.isEmpty then s.haltNow g h else s.park g h .halt) s

/-- `sleep` (R116). -/
def execSleep (s : State) : Out :=
  scalarWord .sleep false [] (fun s g h => s.retireParked g h (.sleep s.now)) s

-- Datum registers (R99 to R102).

/-- The datum register that a translated base loads (R101). -/
def Datum.ofLeaf (b : Word) (l : Leaf) : Datum :=
  ⟨b, l.phys b, l.vbase + l.size - b.toNat % 2 ^ 53, l.r, l.w, l.x, l.a, l.sc, l.tier, l.world, true⟩

/-- `datum.set` (R101): a translation with no permission and no world check. -/
def execDatumSet (a : BitVec 6) (n : BitVec 3) (s : State) : Out :=
  scalarWord (.datumSet a n) false [sReg a]
    (fun s g h =>
      let b := g.getS a
      match s.xlate g.place.core g.place.ctx g.sc.walked b with
      | none => s.park g false (.walk ⟨b, .walking, false⟩)
      | some (.fault _) => s.trapScalar g 0x10 b
      | some (.leaf l) => s.retire { g with dm := g.dm.set n.toNat (Datum.ofLeaf b l) } h (g.sc.spc + 4)) s

/-- The datum register `n`. -/
def Group.datum (g : Group) (n : Nat) : Datum := g.dm.getD n Datum.clear

/-- `datum.clear` (R100). -/
def execDatumClear (n : BitVec 3) (s : State) : Out :=
  scalarWord (.datumClear n) false []
    (fun s g h => s.retire { g with dm := g.dm.set n.toNat { g.datum n.toNat with v := false } } h (g.sc.spc + 4)) s

/-- The query word (R102). -/
def Datum.query (d : Datum) : Word :=
  if !d.v then 0
  else
    flagWord d.v <<< 63 ||| d.world.setWidth 64 <<< 59 ||| flagWord d.sc <<< 58 ||| d.tier.setWidth 64 <<< 56
      ||| flagWord d.a <<< 55 ||| flagWord d.x <<< 54 ||| flagWord d.w <<< 53 ||| flagWord d.r <<< 52
      ||| word (d.limit % 2 ^ 34)

/-- `datum.query` (R102). -/
def execDatumQuery (d : BitVec 6) (n : BitVec 3) (s : State) : Out :=
  scalarWord (.datumQuery d n) false [sReg d]
    (fun s g h => s.writeLater g h (sReg d) (g.datum n.toNat).query) s

-- Lane blocks (R108 to R113).

/-- The block that `lrun` captures (R108). -/
def Group.capture (g : Group) (a : BitVec 6) (i : BitVec 13) : Block :=
  ⟨(g.getS a).setWidth 32 + i.setWidth 32, Vector.set g.sc.s 0 0, g.dm, g.seq⟩

/-- `lrun` (R108): every pending s register raises HOLDV, the lowest first, and a full queue stalls the stream. -/
def execLrun (a : BitVec 6) (i : BitVec 13) (s : State) : Out :=
  scalarWord (.lrun a i) false ((List.range 64).drop 1)
    (fun s g h =>
      if g.blocks == 8 then s.park g h (.lrun ((g.getS a).setWidth 32 + i.setWidth 32))
      else s.retire { g with ln := { g.ln with queue := g.ln.queue ++ [g.capture a i] } } h (g.sc.spc + 4)) s

/-- `lwait` (R110). -/
def execLwait (a : BitVec 6) (s : State) : Out :=
  scalarWord (.lwait a) false [sReg a]
    (fun s g h =>
      let limit := (g.getS a).toNat
      if g.blocks ≤ limit then s.retire g.cover h (g.sc.spc + 4) else s.park g h (.lwait limit)) s

/-- `lget`, `lset` and `lmask` act once the lane unit is frozen or idle (R112). -/
def Group.laneStateOpen (g : Group) : Bool := g.ln.frozen || g.blocks == 0

/-- R112, R113: the effect of a word on the lane state; `none` where its register lies beyond the allotment (ALLOT). -/
def Group.laneStateOp (g : Group) : LaneStateOp → Option Group
  | .get d v lane =>
    if g.role.vregs ≤ v then none
    else some (g.deferValue d ((cellGet g.ln.v (laneKey v lane)).setWidth 64))
  | .set v lane x =>
    if g.role.vregs ≤ v then none
    else
      let k := laneKey v lane
      some { g with ln := { g.ln with
        v := cellSet g.ln.v k x, bad := g.ln.bad.filter (fun b => b != k), badOne := g.ln.badOne.filter (fun b => b != k) } }
  | .readMask d m =>
    some (g.deferValue d ((if m == 0 then g.ln.live else g.ln.m.toList.getD m 0).setWidth 64))
  | .writeMask m x => some { g with ln := { g.ln with m := if h : m < 8 then g.ln.m.set m x h else g.ln.m } }

/-- The number of the register that a lane-state word names, which ALLOT gives. -/
def LaneStateOp.register : LaneStateOp → Nat
  | .get _ v _ | .set v _ _ => v
  | .readMask _ m | .writeMask m _ => m

/-- Whether a word reads a lane register with an uncorrectable error (R374). -/
def Group.readsBad (g : Group) : LaneStateOp → Bool
  | .get _ v lane => g.ln.bad.contains (laneKey v lane)
  | _ => false

/-- The register that a word reads of which one copy holds an error (R373). -/
def Group.readsOne (g : Group) : LaneStateOp → List Nat
  | .get _ v lane => [laneKey v lane].filter fun k => g.ln.badOne.contains k
  | _ => []

/-- A lane-state word that acts now; `lget` of a register with an uncorrectable error consumes it (R374). -/
def State.laneStateNow (s : State) (g : Group) (hold : Bool) (op : LaneStateOp) : State :=
  let (s, g) := if (g.readsOne op).isEmpty then (s, g) else s.repairCopies g (g.readsOne op)
  match g.laneStateOp op with
  | none => s.trapScalar g 0x04 (word op.register)
  | some g' =>
    if g.readsBad op then
      s.kill g false g.sc.spc (word op.register) (registerReport g.place.core op.register)
    else s.retire g' hold (g.sc.spc + 4)

/-- A lane-state word (R112, R113). -/
def laneStateWord (i : Instr) (regs : List Nat) (op : Group → LaneStateOp) (s : State) : Out :=
  scalarWord i false regs
    (fun s g h => if g.laneStateOpen then s.laneStateNow g h (op g) else s.park g h (.laneState (op g))) s

/-- `lget` (R112). -/
def execLget (d : BitVec 6) (v : BitVec 8) (l : BitVec 5) (s : State) : Out :=
  laneStateWord (.lget d v l) [sReg d] (fun _ => .get (sReg d) v.toNat l.toNat) s

/-- `lset` (R112). -/
def execLset (a : BitVec 6) (v : BitVec 8) (l : BitVec 5) (s : State) : Out :=
  laneStateWord (.lset a v l) [sReg a] (fun g => .set v.toNat l.toNat ((g.getS a).setWidth 32)) s

/-- `lmask` read (R113). -/
def execLmaskRead (d : BitVec 6) (m : BitVec 3) (s : State) : Out :=
  laneStateWord (.lmaskRead d m) [sReg d] (fun _ => .readMask (sReg d) m.toNat) s

/-- `lmask` write (R113). -/
def execLmaskWrite (a : BitVec 6) (m : BitVec 3) (s : State) : Out :=
  laneStateWord (.lmaskWrite a m) [sReg a] (fun g => .writeMask m.toNat ((g.getS a).setWidth 32)) s

end Sys2Proof.Machine
end

