-- ==== Sys2Proof/Machine/Matrix.lean ====
section
/-! DEFINITION. The matrix arrays: gangs, operand words and the rendezvous (R299 to R313), results (R50 to R54, R310),
the accumulator operations (R315, R316) and the checksum registers (R318 to R321). -/

namespace Sys2Proof.Machine

open Sys2Proof

-- The gang register (R299, R300).

/-- COUNT and an entry of a gang word. -/
def gangCount (x : Word) : Nat := bits x 2 0
def gangEntry (x : Word) (j : Nat) : Nat := bits x (8 + 6 * j) (3 + 6 * j)

/-- A group's entry: its core in the quad and its slot (R299). -/
def Group.entryOf (g : Group) : Nat := 16 * (g.place.core % 4) + g.place.slot

/-- The entries of the listed members. -/
def gangList (x : Word) : List Nat := (List.range (gangCount x)).map (gangEntry x)

/-- Whether `mgang` takes a word (R300). -/
def gangLegal (x : Word) (me : Nat) : Bool :=
  let n := gangCount x
  1 ≤ n && n ≤ 6 && ((List.range 6).all fun j => decide (j < n) || gangEntry x j == 0) && bits x 63 39 == 0
    && decide (gangList x).Nodup && (gangList x).contains me

/-- `mgang` (R300). -/
def execMgang (a : BitVec 6) (s : State) : Out :=
  scalarWord (.mgang a) false [sReg a]
    (fun s g h =>
      let x := g.getS a
      if gangLegal x g.entryOf then s.retire { g with gang := x } h (g.sc.spc + 4)
      else s.trapScalar g 0x01 (illegalWord h (.mgang a))) s

-- Operand words (R301 to R306).

/-- The fields of an `mma` (R301 to R303), with COUNT. -/
structure MmaWords where
  count : Nat
  afmt  : Nat
  bfmt  : Nat
  ablk  : Nat
  bblk  : Nat
  sa    : Bool
  sb    : Bool
  sat   : Bool
  bn    : Bool
  acc   : Bool
  cks   : Bool
  m     : Nat
  n     : Nat
  k     : Nat
  bbase : Nat
  accoff : Nat
  aaddr : Nat
  ascl  : Nat
  bscl  : Nat
  deriving DecidableEq, Repr

/-- The fields of the three operand words. -/
def mmaWords (count : Nat) (fb shape ow : Word) : MmaWords where
  count := count
  afmt := bits fb 3 0
  bfmt := bits fb 7 4
  ablk := bits fb 9 8
  bblk := bits fb 11 10
  sa := fb.getLsbD 12
  sb := fb.getLsbD 13
  sat := fb.getLsbD 14
  bn := fb.getLsbD 15
  acc := fb.getLsbD 16
  cks := fb.getLsbD 17
  m := bits shape 6 0
  n := bits shape 16 7
  k := bits shape 28 17
  bbase := bits shape 36 29
  accoff := bits shape 52 37
  aaddr := bits ow 16 0
  ascl := bits ow 33 17
  bscl := bits ow 50 34

/-- The width of an element of a format code in bits (R30, R49). -/
def formatWidth (f : Nat) : Nat := if f == 1 || f == 2 then 16 else if f == 8 || f == 9 then 4 else 8

/-- The operand pairs (R49). -/
def pairLegal (a b : Nat) : Bool :=
  match a with
  | 1 => b == 1
  | 2 => b == 2
  | 3 | 4 => b == 3 || b == 4 || b == 7 || b == 8
  | 5 => b == 5 || b == 9 || b == 7 || b == 8
  | 6 => b == 5
  | _ => false

/-- A block length (R301). -/
def blockLength (code : Nat) : Nat := 16 * 2 ^ code

/-- Whether the accumulator is I32 (R49). -/
def MmaWords.int (w : MmaWords) : Bool := (w.afmt == 5 || w.afmt == 6) && (w.bfmt == 5 || w.bfmt == 9) && !w.sa && !w.sb

/-- Columns of a share (R306). -/
def MmaWords.ns (w : MmaWords) : Nat := w.n / w.count
/-- Bytes of A and of the scales of A (R304, R305). -/
def MmaWords.aBytes (w : MmaWords) : Nat := w.m * w.k * formatWidth w.afmt / 8
def MmaWords.asclBytes (w : MmaWords) : Nat := if w.sa then w.m * (w.k / blockLength w.ablk) else 0
/-- Bytes of a B share and of its scales (R305, R306). -/
def MmaWords.bBytes (w : MmaWords) : Nat := w.k * w.ns * formatWidth w.bfmt / 8
def MmaWords.bsclBytes (w : MmaWords) : Nat := if w.sb then w.ns * (w.k / blockLength w.bblk) else 0
/-- Registers of a B share (R306). -/
def MmaWords.bRegs (w : MmaWords) : Nat := (w.bBytes + 127) / 128
/-- Bytes of the tile (R310). -/
def MmaWords.tileBytes (w : MmaWords) : Nat := 4 * w.m * w.n

/-- The fields obey R49 and R301 to R303 (R307 check 1). -/
def mmaLegal (fb shape ow : Word) (w : MmaWords) : Bool :=
  w.count != 0 && bits fb 63 18 == 0 && bits shape 63 53 == 0 && bits ow 63 51 == 0 && pairLegal w.afmt w.bfmt
    && (w.sa || (w.ablk == 0 && w.ascl == 0)) && (w.sb || (w.bblk == 0 && w.bscl == 0))
    && 1 ≤ w.m && w.m ≤ 64 && 16 ≤ w.n && w.n ≤ 512 && w.n % (16 * w.count) == 0
    && w.k % 16 == 0 && w.k ≤ 2048
    && (!w.sa || w.k % blockLength w.ablk == 0) && (!w.sb || w.k % blockLength w.bblk == 0)

/-- TVAL of a region of `n` bytes at `lo` that reaches a window's size, none where it lies inside (R307). -/
def beyondWindow (lo n size : Nat) : Option Word :=
  if n != 0 && decide (size < lo + n) then some (word (Nat.max lo size)) else none

/-- R307 checks 1 to 3: the cause an `mma` raises. -/
def mmaCause (g : Group) (i : Instr) (hold : Bool) (fb shape ow : Word) (w : MmaWords) : Option (Nat × Word) :=
  if !mmaLegal fb shape ow w then some (0x01, illegalWord hold i)
  else if w.bRegs != 0 && decide (g.role.vregs < w.bbase + w.bRegs) then some (0x04, word (w.bbase + w.bRegs - 1))
  else
    let size := g.place.sxsize.toNat
    (beyondWindow (8 * w.aaddr) w.aBytes size
      <|> beyondWindow (8 * w.ascl) w.asclBytes size
      <|> beyondWindow (8 * w.bscl) w.bsclBytes size
      <|> beyondWindow (16 * w.accoff) w.tileBytes g.place.accsize.toNat).map fun v => (0x10, v)

-- The latch (R308).

/-- Matrix operations of a group that are outstanding (R314). -/
def State.matsOut (s : State) (uid : Nat) : Nat := (s.mats.filter fun o => o.who.g == uid && o.accepted).length

/-- The latch entries of a quad. -/
def State.entriesOf (s : State) (quad : Nat) : List Latch := (s.latches.filter fun l => l.1 == quad).map fun l => l.2

/-- The `f` of the first element that satisfies `p`, in its place; none where no element does. -/
def replaceFirst {α : Type} (p : α → Bool) (f : α → α) : List α → Option (List α)
  | [] => none
  | x :: r => if p x then some (f x :: r) else (replaceFirst p f r).map fun r => x :: r

/-- A member arrives (R308): in the open entry of its own gang word, else in one that lists it and has not seen it, else in
a new entry. None while all eight are in use. -/
def State.joinLatch (s : State) (quad : Nat) (a : Arrived) : Option State :=
  let here (l : Nat × Latch) : Bool := l.1 == quad && !(l.2.members.any fun m => m.me == a.me)
  let join (l : Nat × Latch) : Nat × Latch := (l.1, { l.2 with members := l.2.members ++ [a] })
  match replaceFirst (fun l => here l && l.2.gang == a.gang) join s.latches with
  | some ls => some { s with latches := ls }
  | none =>
    match replaceFirst (fun l => here l && (gangList l.2.gang).contains a.me) join s.latches with
    | some ls => some { s with latches := ls }
    | none =>
      if 8 ≤ (s.entriesOf quad).length then none
      else some { s with latches := s.latches ++ [(quad, ⟨a.gang, s.now, [a]⟩)] }

/-- `mma` (R307, R308). -/
def execMma (d a b : BitVec 6) (s : State) : Out :=
  scalarWord (.mma d a b) false [sReg d, sReg a, sReg b]
    (fun s g h =>
      let w := mmaWords (gangCount g.gang) (g.getS a) (g.getS b) (g.getS d)
      match mmaCause g (.mma d a b) h (g.getS a) (g.getS b) (g.getS d) w with
      | some (c, v) => s.trapScalar g c v
      | none =>
        if 8 ≤ s.matsOut g.uid then s.park g false (.stall .order)
        else
          match s.joinLatch (quadOf g.place.core)
            ⟨g.uid, g.entryOf, g.place.grid, g.gang, g.getS a, g.getS b, g.getS d⟩ with
          | none => s.park g false (.stall .order)
          | some s => s.park g h .latch) s

/-- The gang mismatch that a member takes; one that an eviction holds away takes it when it is restored (R313). -/
def State.gangMiss (s : State) (reason : Nat) (a : Arrived) : State :=
  match s.group? a.g with
  | none => s
  | some g =>
    if g.life == .evicted then
      (s.withdraw g.uid).setGroup { g with latchAway := some (word reason) }
    else s.trapScalar g 0x07 (word reason)

/-- Every listed member has arrived (R308). -/
def Latch.full (l : Latch) : Bool := (gangList l.gang).all fun e => l.members.any fun m => m.me == e

/-- The tile range of a member in its core's accumulator: the core, the first byte and the length. -/
def State.tileOf (s : State) (a : Arrived) : Option (Nat × Nat × Nat) :=
  (s.group? a.g).map fun g =>
    let w := mmaWords (gangCount a.gang) a.fb a.shape a.ow
    (g.place.core, g.place.accbase.toNat + 16 * w.accoff, w.tileBytes)

/-- Two members on one core whose tiles overlap. -/
def tilesClash : List (Nat × Nat × Nat) → Bool
  | [] => false
  | t :: r => (r.any fun u => t.1 == u.1 && overlap t.2.1 t.2.2 u.2.1 u.2.2) || tilesClash r

/-- The reason for which a compare fails (R308). -/
def State.latchReason (s : State) (l : Latch) : Option Nat :=
  match l.members with
  | [] => none
  | a :: r =>
    if r.any fun m => m.gang != a.gang || m.grid != a.grid then some 3
    else if r.any fun m => m.fb != a.fb || bits m.shape 28 0 != bits a.shape 28 0 then some 1
    else if tilesClash (l.members.filterMap s.tileOf) then some 4
    else none

/-- The bytes of a group's B share as its registers stand (R306, R309). -/
def Group.shareBytes (g : Group) (w : MmaWords) : List Byte :=
  ((List.range w.bRegs).flatMap fun r => (List.range 32).flatMap fun i =>
    leBytes 4 (cellGet g.ln.v (laneKey (w.bbase + r) i)).toNat).take w.bBytes

/-- The first word of a range of a core's pool that holds an error which cannot be corrected (R374). -/
def firstPoison (poison : List Nat) (lo n : Nat) : Option Nat :=
  if n == 0 then none
  else ((List.range ((lo + n - 1) / 8 + 1 - lo / 8)).map fun i => lo / 8 + i).find? fun x => poison.contains x

/-- The first register of a B share that holds an error which cannot be corrected (R374). -/
def Group.shareBad (g : Group) (w : MmaWords) : Option Nat :=
  ((List.range w.bRegs).map fun r => w.bbase + r).find? fun r =>
    (List.range 32).any fun i => g.ln.bad.contains (laneKey r i)

/-- The registers of a B share of which one copy holds an error (R373). -/
def Group.shareOne (g : Group) (w : MmaWords) : List Nat :=
  g.ln.badOne.filter fun k => decide (32 * w.bbase ≤ k) && decide (k < 32 * (w.bbase + w.bRegs))

/-- The capture of an arrived member's share reads its registers (R373). -/
def State.repairShare (s : State) (a : Arrived) : State :=
  match s.group? a.g with
  | none => s
  | some g =>
    let ks := g.shareOne (mmaWords (gangCount a.gang) a.fb a.shape a.ow)
    if ks.isEmpty then s else (s.repairCopies g ks).1

/-- A member's captured B share, B scales and the errors in them (R309). -/
def State.captureShare (s : State) (a : Arrived) : List Byte × List Byte × Option Nat × Option Nat :=
  match s.group? a.g with
  | none => ([], [], none, none)
  | some g =>
    let w := mmaWords (gangCount a.gang) a.fb a.shape a.ow
    let c := s.core g.place.core
    let lo := g.place.sxbase.toNat + 8 * w.bscl
    (g.shareBytes w, memRead c.scratch lo w.bsclBytes, g.shareBad w, firstPoison c.poisonS lo w.bsclBytes)

/-- The members of an entry in member order, member 0 first. -/
def Latch.inOrder (l : Latch) : List Arrived :=
  (gangList l.gang).filterMap fun e => l.members.find? fun m => m.me == e

/-- A compare that succeeds (R309): the shares are captured and each member's part waits to be accepted. -/
def State.bindParts (s : State) (l : Latch) : State :=
  let ms := l.inOrder
  let caps := ms.map s.captureShare
  let s := ms.foldl State.repairShare s
  (ms.zip (List.range ms.length)).foldl (fun s m =>
    match s.group? m.1.g with
    | none => s
    | some g =>
      let cap := caps.getD m.2 ([], [], none, none)
      let (id, s) := s.fresh
      let o : MatOp := ⟨id, g.origin (s.worldOf g) false g.sc.spc, g.seq, g.place.team, g.place.sxbase.toNat,
        g.place.accbase.toNat, false, none, none,
        .part m.2 ms.length m.1.fb m.1.shape m.1.ow (caps.map fun c => c.1) (caps.map fun c => c.2.1) cap.2.2.1 cap.2.2.2⟩
      ({ s with mats := s.mats ++ [o] }).setGroup { g.nextSeq with sc := { g.sc with wait := .accept id } }) s

/-- LATCH_TIMEOUT (R308): 2^20 clocks after the first arrival, the arrived members raise GANGMIS. -/
def execLatchTimeout (quad k : Nat) (s : State) : Out :=
  match (s.entriesOf quad)[k]? with
  | none => .next s
  | some l =>
    let away := l.members.any fun a => match s.group? a.g with | some g => g.life != .resident | none => true
    if l.first + 2 ^ 20 ≤ s.now && (!l.full || away) then .next (l.members.foldl (fun s a => s.gangMiss 2 a) s)
    else .next s

-- Locks (R309, R335, R336).

/-- An entry of a range-lock table over `n` bytes at `lo`; an entry over no byte still takes its place. -/
def lockOf (op space ctx lo n : Nat) (write : Bool) : RangeLock :=
  if n == 0 then ⟨op, ctx, space, 2 ^ 64, 0, write⟩ else ⟨op, ctx, space, lo, lo + n - 1, write⟩

/-- Two entries conflict (R336). -/
def RangeLock.conflicts (l m : RangeLock) : Bool :=
  l.space == m.space && (l.space != 2 || l.ctx == m.ctx) && (l.write || m.write) && decide (l.lo ≤ m.hi)
    && decide (m.lo ≤ l.hi)

/-- Whether an operation may take its entries: they are free, and no entry of an operation that is not in `mine`
conflicts. -/
def Core.mayLock (c : Core) (ls : List RangeLock) (mine : List Nat) : Bool :=
  decide (c.locks.length + ls.length ≤ 16) &&
    ls.all fun l => c.locks.all fun m => mine.contains m.op || !l.conflicts m

/-- Entries taken, and the entries of an operation released. -/
def Core.lock (c : Core) (ls : List RangeLock) : Core := { c with locks := c.locks ++ ls }
def Core.unlock (c : Core) (op : Nat) : Core := { c with locks := c.locks.filter (fun l => l.op != op) }

/-- The entries of a matrix operation (R309, R315, R316). -/
def MatOp.locks (o : MatOp) : List RangeLock :=
  match o.kind with
  | .part _ count fb shape ow _ _ _ _ =>
    let w := mmaWords count fb shape ow
    [lockOf o.uid 0 0 (o.sxbase + 8 * w.aaddr) w.aBytes false]
      ++ (if w.sa then [lockOf o.uid 0 0 (o.sxbase + 8 * w.ascl) w.asclBytes false] else [])
      ++ [lockOf o.uid 1 0 (o.accbase + 16 * w.accoff) w.tileBytes true]
  | .zero lo len => [lockOf o.uid 1 0 (o.accbase + lo) len true]
  | .conv region dest how =>
    let cols := bits region 32 23
    let rows := bits region 22 16
    let w := formatWidth (bits how 3 0)
    [lockOf o.uid 1 0 (o.accbase + 16 * bits region 15 0) (4 * rows * cols) false,
      lockOf o.uid 0 0 (o.sxbase + bits dest 23 0) ((rows - 1) * bits dest 47 24 + cols * w / 8) true]

/-- Whether an entry is a lock over scratch: for a write, or for a read. -/
def RangeLock.scratch (l : RangeLock) (write : Bool) : Bool := l.space == 0 && l.write == write
/-- Bytes of an entry's range. -/
def RangeLock.size (l : RangeLock) : Nat := l.hi + 1 - l.lo

/-- A member's B scales may be captured: it is resident, so that its registers are here, and what precedes its `mma` is in the bytes:
the stores of its core (R279, R291) and its earlier matrix operations (R311). -/
def State.captureReady (s : State) (a : Arrived) : Bool :=
  match s.group? a.g with
  | none => false
  | some g =>
    let w := mmaWords (gangCount a.gang) a.fb a.shape a.ow
    let lo := g.place.sxbase.toNat + 8 * w.bscl
    g.life == .resident && !(s.core g.place.core).writePending true lo w.bsclBytes
      && !(g.sq.any fun r => r.writes && r.scratch && overlap r.addr r.bytes lo w.bsclBytes)
      && !(s.mats.any fun o => o.who.g == g.uid && o.locks.any fun l =>
        l.scratch true && overlap l.lo l.size lo w.bsclBytes)

/-- RENDEZVOUS (R308, R309): entry `k` of a quad compares when every listed member has arrived. A compare succeeds only
while no eviction holds a member away, whose registers the capture reads, and once the B scales stand in the scratchpads. -/
def execRendezvous (quad k : Nat) (s : State) : Out :=
  match (s.entriesOf quad)[k]? with
  | none => .next s
  | some l =>
    if !l.full then .next s
    else
      match s.latchReason l with
      | some r => .next (l.members.foldl (fun s a => s.gangMiss r a) s)
      | none =>
        if l.members.all s.captureReady then .next ({ s with latches := s.latches.erase (quad, l) }.bindParts l)
        else .next s

/-- Whether a matrix operation can be accepted: the earlier matrix operations of its member do not stand in its way
(R309). -/
def State.mayAccept (s : State) (o : MatOp) : Bool :=
  (s.core o.who.core).mayLock o.locks ((s.mats.filter fun p => p.who.g == o.who.g && p.uid != o.uid).map fun p => p.uid)

/-- Whether an operation of a slot of a core, whose condition for acceptance has held since a clock, is the next to be accepted: the
waiting ones are accepted in the order in which their conditions came to hold, the lower slot first on a tie (R336). -/
def State.lockTurn (s : State) (core slot since : Nat) : Bool :=
  let first (who : Origin) (n : Nat) : Bool :=
    who.core == core && (decide (n < since) || (n == since && decide (who.slot < slot)))
  !(s.mats.any fun o => !o.accepted && o.since.any (first o.who))
    && !(s.engs.any fun o => o.started.isNone && o.since.any (first o.who))

/-- A matrix operation takes its entries. -/
def State.lockMat (s : State) (o : MatOp) : State := s.setCore o.who.core ((s.core o.who.core).lock o.locks)

/-- Tag and payload of MMA_ISSUE and MMA_DONE, for a part (R380). -/
def MatKind.event : MatKind → Option (Nat × Nat)
  | .part member count _ shape _ _ _ _ _ => some (member + 16 * count, bits shape 52 37)
  | _ => none

/-- MMA_ACCEPT (R309, R336): a part takes its entries in its turn and its member's stream goes on. The operations that are accepted stand in the order
of their acceptance (R298). -/
def execMmaAccept (op : Nat) (s : State) : Out :=
  match s.mats.find? fun o => o.uid == op with
  | none => .next s
  | some o =>
    match s.group? o.who.g with
    | none => .next s
    | some g =>
      let turn := o.since.any (s.lockTurn o.who.core o.who.slot)
      if o.accepted || !s.mayAccept o || !turn || g.sc.wait != .accept op then .next s
      else
        let s := { s with mats := s.mats.filter (fun (x : MatOp) => x.uid != op) ++ [{ o with accepted := true, since := none }] }
        let s := s.lockMat o
        let s := match o.kind.event with
          | some (t, p) => s.emitG g 0x05 t p
          | none => s
        .next (s.complete g)

-- Results (R50 to R54, R310).

/-- Element `e` of an array of a format (R30). -/
def elementOf (fmt : Nat) (bs : List Byte) (e : Nat) : FVal :=
  let w := formatWidth fmt
  let x := leNat ((bs.drop (e * w / 8)).take (if w == 16 then 2 else 1))
  packSource fmt (x / 2 ^ (if w == 4 then 4 * (e % 2) else 0) % 2 ^ w)

/-- An exact sum (R52): a NaN, or infinities of both signs, give NaN. -/
def exactAdd (a b : FVal) : FVal :=
  match a, b with
  | .nan _, _ => .nan false
  | _, .nan _ => .nan false
  | .inf x, .inf y => if x = y then .inf x else .nan false
  | .inf x, _ => .inf x
  | _, .inf y => .inf y
  | .num n1 m1 e1, .num n2 m2 e2 => sumVal .rne n1 m1 e1 n2 m2 e2

/-- An exact product (R52): a NaN, or an infinity times a zero, gives NaN. -/
def exactMul (a b : FVal) : FVal :=
  if a.isNan || b.isNan then .nan false
  else match mulVal a b with
    | some x => x
    | none => .nan false

/-- An exact sum of a list, from +0. -/
def exactSum (l : List FVal) : FVal := l.foldl exactAdd (.num false 0 0)

/-- The integer of an integer element. -/
def intOf : FVal → Int
  | .num n m _ => if n then -(m : Int) else m
  | _ => 0

/-- What a part computes with: its words and the bytes of A, its scales and every share. -/
structure MatData where
  w    : MmaWords
  a    : List Byte
  ascl : List Byte
  b    : List (List Byte)
  bscl : List (List Byte)
  deriving DecidableEq, Repr

/-- A[m][k] (R304). -/
def MatData.aVal (x : MatData) (m k : Nat) : FVal := elementOf x.w.afmt x.a (m * x.w.k + k)

/-- B[k][n] (R306). -/
def MatData.bVal (x : MatData) (k n : Nat) : FVal :=
  let ns := x.w.ns
  let c := n % ns
  elementOf x.w.bfmt (x.b.getD (n / ns) []) (if x.w.bn then k * ns + c else c * x.w.k + k)

/-- The scale of A for row m at depth k0, and of B for column n (R51, R305). -/
def MatData.aScale (x : MatData) (m k0 : Nat) : FVal :=
  let blk := blockLength x.w.ablk
  if x.w.sa then sc8Value (x.ascl.getD (m * (x.w.k / blk) + k0 / blk) 0).toNat else .num false 1 0
def MatData.bScale (x : MatData) (n k0 : Nat) : FVal :=
  let blk := blockLength x.w.bblk
  let ns := x.w.ns
  if x.w.sb then sc8Value ((x.bscl.getD (n / ns) []).getD (n % ns * (x.w.k / blk) + k0 / blk) 0).toNat
  else .num false 1 0

/-- The sub-block length (R50). -/
def MmaWords.subLength (w : MmaWords) : Nat :=
  if w.sa && w.sb then Nat.min (blockLength w.ablk) (blockLength w.bblk)
  else if w.sa then blockLength w.ablk
  else if w.sb then blockLength w.bblk
  else 32

/-- The sub-blocks of K: the first depth and the length of each (R50). -/
def MmaWords.subBlocks (w : MmaWords) : List (Nat × Nat) :=
  let l := w.subLength
  (List.range ((w.k + l - 1) / l)).map fun j => (j * l, Nat.min l (w.k - j * l))

/-- The depths of a sub-block. -/
def depths (j : Nat × Nat) : List Nat := (List.range j.2).map fun i => j.1 + i

/-- The exact sum S of a sub-block (R51, R52). -/
def MatData.dot (x : MatData) (m n : Nat) (j : Nat × Nat) : FVal :=
  exactSum ((depths j).map fun k => exactMul (x.aVal m k) (x.bVal k n))

/-- The term t of a sub-block (R51). -/
def MatData.term (x : MatData) (m n : Nat) (j : Nat × Nat) : Nat :=
  let sa := x.aScale m j.1
  let sb := x.bScale n j.1
  if sa.isNan || sb.isNan then f32.nan
  else if sa.isZero || sb.isZero then 0
  else (f32.ofVal .rne (exactMul (exactMul (x.dot m n j) sa) sb)).1

/-- A write to an F32 accumulator under SAT (R53). -/
def satF32 (sat : Bool) (x : Nat) : Nat :=
  if sat && (f32.value x).isInf then f32.signed (f32.value x).neg f32.maxFinite else x

/-- An F32 element from the accumulator's prior value (R51). -/
def MatData.elementF (x : MatData) (old m n : Nat) : Nat :=
  (x.w.subBlocks.foldl (fun (st : Bool × Nat) j =>
    let t := x.term m n j
    let v := if st.1 && !x.w.acc then t else (f32.add .rne (f32.value st.2) (f32.value t)).1
    (false, satF32 x.w.sat v)) (true, if x.w.acc then old else 0)).2

/-- An addition to an I32 accumulator (R54). -/
def addI32 (sat : Bool) (acc s : Int) : Int :=
  if sat then (satSigned 32 (acc + s)).toInt else (BitVec.ofInt 32 (acc + s)).toInt

/-- An I32 element from the accumulator's prior value (R54). -/
def MatData.elementI (x : MatData) (old m n : Nat) : Nat :=
  (BitVec.ofInt 32 (x.w.subBlocks.foldl (fun acc j => addI32 x.w.sat acc (intOf (x.dot m n j)))
    (if x.w.acc then (half old).toInt else 0))).toNat

/-- An element of the tile (R310). -/
def MatData.element (x : MatData) (old m n : Nat) : Nat := if x.w.int then x.elementI old m n else x.elementF old m n

/-- The positions of the tile in the order of their addresses. -/
def MmaWords.cells (w : MmaWords) : List (Nat × Nat) :=
  (List.range w.m).flatMap fun m => (List.range w.n).map fun n => (m, n)

-- Checksums (R318, R319).

/-- A scaled element; a zero scale drops its term. -/
def scaled (scale v : FVal) : FVal :=
  if scale.isNan then .nan false else if scale.isZero then .num false 0 0 else exactMul scale v

/-- The exact T of a sub-block (R319). -/
def MatData.checkTerm (x : MatData) (j : Nat × Nat) : FVal :=
  exactSum ((depths j).map fun k =>
    exactMul (exactSum ((List.range x.w.m).map fun m => scaled (x.aScale m j.1) (x.aVal m k)))
      (exactSum ((List.range x.w.n).map fun n => scaled (x.bScale n j.1) (x.bVal k n))))

/-- The term of k3 for one element (R319). -/
def outTerm (int : Bool) (old new : Nat) : Word :=
  if int then (half new - half old).signExtend 64
  else word (f64.ofVal .rne (exactAdd (f32.value new) (f32.value old).negate)).1

/-- The contributions of a part to k2 and k3 (R319); a part without depth contributes zero to k3 (R310). -/
def MatData.checks (x : MatData) (olds news : List Nat) : KContrib where
  int := x.w.int
  t2 := x.w.subBlocks.map fun j =>
    if x.w.int then BitVec.ofInt 64 (intOf (x.checkTerm j)) else word (f64.ofVal .rne (x.checkTerm j)).1
  t3 := (olds.zip news).map fun p => if x.w.k == 0 then 0 else outTerm x.w.int (if x.w.acc then p.1 else 0) p.2

/-- A contribution added to a checksum register (R319). -/
def addCheck (int : Bool) (k : Word) (ts : List Word) : Word :=
  ts.foldl (fun k t =>
    if int then k + t else word (f64.add .rne (f64.value k.toNat) (f64.value t.toNat)).1) k

-- Completion (R311, R315, R316).

/-- `n` accumulator elements at a byte. -/
def Core.accWords (c : Core) (lo n : Nat) : List Nat := (List.range n).map fun i => leNat (memRead c.acc (lo + 4 * i) 4)

/-- The contributions, where a part has some, and the first error that a matrix operation meets (R374): a report and its
address. -/
structure MatEnd where
  contrib : Option KContrib
  error   : Option (Word × ErrorReport)

/-- An error in a word of a pool window. -/
def poolError (core base : Nat) (w : Option Nat) : Option (Word × ErrorReport) :=
  w.map fun x => (word (8 * x - base), poolReport core x)

/-- What a part reads of A and its scales, with the first pool word of them that holds an error (R304, R374). -/
def State.readA (s : State) (o : MatOp) (w : MmaWords) : List Byte × List Byte × Option Nat :=
  let c := s.core o.who.core
  let a := o.sxbase + 8 * w.aaddr
  let sc := o.sxbase + 8 * w.ascl
  (memRead c.scratch a w.aBytes, memRead c.scratch sc w.asclBytes,
    firstPoison c.poisonS a w.aBytes <|> firstPoison c.poisonS sc w.asclBytes)

/-- A part writes its tile (R310, R319). -/
def State.partResult (s : State) (o : MatOp) (w : MmaWords) (b bscl : List (List Byte)) (badReg badWord : Option Nat) :
    State × MatEnd :=
  let core := o.who.core
  let c := s.core core
  let (a, ascl, badA) := o.early.getD (s.readA o w)
  let t := o.accbase + 16 * w.accoff
  let x : MatData := ⟨w, a, ascl, b, bscl⟩
  let olds := c.accWords t (w.m * w.n)
  let news := (w.cells.zip olds).map fun p => x.element p.2 p.1.1 p.1.2
  let error := poolError core o.sxbase badA
    <|> badReg.map (fun r => (word r, registerReport core r))
    <|> poolError core o.sxbase badWord
    <|> poolError core o.accbase (if w.acc && w.k != 0 then firstPoison c.poisonA t w.tileBytes else none)
  (s.setCore core (c.writeAcc t (news.flatMap fun v => leBytes 4 v)),
    ⟨if w.cks then some (x.checks olds news) else none, error⟩)

/-- A value of a region of the accumulator, scaled (R316). -/
def convValue (how : Word) (x : Nat) : FVal :=
  let v := if how.getLsbD 9 then ofInteger (half x).toInt else f32.value x
  if how.getLsbD 8 then exactMul v (f32.value (bits how 63 32)) else v

/-- The bytes of a row of converted elements (R30, R316). -/
def convRow (how : Word) (row : List Nat) : List Byte :=
  let w := formatWidth (bits how 3 0)
  let x := (row.zip (List.range row.length)).foldl (fun n p =>
    n + (packDest (bits how 3 0) (rcOf (bits how 5 4)) (how.getLsbD 6) (convValue how p.1)).1 % 2 ^ w * 2 ^ (w * p.2)) 0
  leBytes (row.length * w / 8) x

/-- `accv` writes its destination (R316). -/
def State.convResult (s : State) (o : MatOp) (region dest how : Word) : State × MatEnd :=
  let core := o.who.core
  let c := s.core core
  let cols := bits region 32 23
  let rows := bits region 22 16
  let lo := o.accbase + 16 * bits region 15 0
  let s' := (List.range rows).foldl (fun (s : State) r =>
    s.writeScratch core (o.sxbase + bits dest 23 0 + r * bits dest 47 24) (convRow how (c.accWords (lo + 4 * r * cols) cols))) s
  (s'.signed s.order.count (o.who.engine o.uid) none [], ⟨none, poolError core o.accbase (firstPoison c.poisonA lo (4 * rows * cols))⟩)

/-- The effect of a matrix operation on its core. -/
def State.matResult (s : State) (o : MatOp) : State × MatEnd :=
  match o.kind with
  | .part _ count fb shape ow b bscl badReg badWord => s.partResult o (mmaWords count fb shape ow) b bscl badReg badWord
  | .zero lo len =>
    (s.setCore o.who.core ((s.core o.who.core).writeAcc (o.accbase + lo) (List.replicate len 0)), ⟨none, none⟩)
  | .conv region dest how => s.convResult o region dest how

/-- Whether an operation is a member's part of an `mma`. -/
def MatKind.isPart : MatKind → Bool
  | .part _ _ _ _ _ _ _ _ _ => true
  | _ => false

/-- Whether an operation stands before another: one of its group (R311), or for two parts one on the array of their partition (R298). -/
def MatOp.sharesOrder (p o : MatOp) : Bool :=
  p.who.g == o.who.g || (p.kind.isPart && o.kind.isPart && p.who.core == o.who.core && p.who.slot / 4 == o.who.slot / 4)

/-- A matrix operation may run: it is accepted, none before it is left, every access that precedes it in program order is performed
(R291), and the writes of its core's order stand in what it reads (R279). -/
def State.matReady (s : State) (o : MatOp) : Bool :=
  o.accepted && !((s.mats.takeWhile fun p => p.uid != o.uid).any fun p => p.accepted && p.sharesOrder o)
    && !s.earlierPending o.who.g o.seq
    && (o.early.isSome || !o.locks.any fun l => l.scratch false && (s.core o.who.core).writePending true l.lo l.size)

/-- The read locks of an operation released (R311, R334). -/
def Core.unlockReads (c : Core) (op : Nat) : Core := { c with locks := c.locks.filter fun l => l.op != op || l.write }

/-- A part reads A and its scales before it completes, and releases its locks on them (R311). -/
def State.readPart (s : State) (op : Nat) : State :=
  match s.mats.find? fun o => o.uid == op with
  | none => s
  | some o =>
    match o.kind with
    | .part _ count fb shape ow _ _ _ _ =>
      if !s.matReady o || o.early.isSome then s
      else
        let early := some (s.readA o (mmaWords count fb shape ow))
        let s := { s with mats := s.mats.map fun (x : MatOp) => if x.uid == op then { x with early := early } else x }
        s.setCore o.who.core ((s.core o.who.core).unlockReads op)
    | _ => s

/-- MMA_PART_COMPLETE (R311): a matrix operation takes effect and releases its entries. A member that read an error which cannot be
corrected is killed (R374). -/
def execMmaPartComplete (op : Nat) (s : State) : Out :=
  match s.mats.find? fun o => o.uid == op with
  | none => .next s
  | some o =>
    if !s.matReady o then .next s
    else
      let (s, e) := s.matResult o
      let s := s.setCore o.who.core ((s.core o.who.core).unlock op)
      let s := { s with mats := s.mats.filter (fun p => p.uid != op) }
      let s := match o.kind.event with
        | some (t, p) => s.emitO o.who 0x06 t p
        | none => s
      let s := match s.group? o.who.g, e.contrib with
        | some g, some k => s.setGroup { g with kacc := g.kacc ++ [k] }
        | _, _ => s
      match s.group? o.who.g, e.error with
      | some g, some (addr, r) => .next (s.kill g false o.who.pc addr r)
      | _, _ => .next s

-- `mwait` (R314, R318).

/-- The checksum contributions of completed parts are added to k2 and k3 (R318). -/
def Group.coverParts (g : Group) : Group :=
  let k := g.kacc.foldl (fun (k : Vector Word 4) c =>
    (k.set 2 (addCheck c.int k[2] c.t2)).set 3 (addCheck c.int k[3] c.t3)) g.k
  { g with k := k, kacc := [] }

/-- Completions of matrix operations observed (R291): what they wrote stands in the scratchpad before the group's later accesses. -/
def State.observeMats (s : State) (g : Group) : State := s.learnAt g false false [] []

/-- `mwait` (R314). -/
def execMwait (a : BitVec 6) (s : State) : Out :=
  scalarWord (.mwait a) false [sReg a]
    (fun s g h =>
      let limit := (g.getS a).toNat
      if s.matsOut g.uid ≤ limit then (s.observeMats g).retire g.coverParts h (g.sc.spc + 4) else s.park g h (.mwait limit)) s

/-- MWAIT_COMPLETE (R314, R318). -/
def execMwaitComplete (g : Nat) (s : State) : Out :=
  groupStep g (fun s g => g.life == .resident &&
      match g.sc.wait with | .mwait n => decide (s.matsOut g.uid ≤ n) | _ => false)
    (fun s g => (s.observeMats g).complete g.coverParts) s

-- The accumulator operations (R315, R316).

/-- A matrix operation of the group alone: accepted when it can take its entries, and until then the word waits (R315,
R316, R336). -/
def State.issueMat (s : State) (g : Group) (hold : Bool) (kind : MatKind) : State :=
  let (id, s') := s.fresh
  let o : MatOp := ⟨id, g.origin (s.worldOf g) false g.sc.spc, g.seq, g.place.team, g.place.sxbase.toNat,
    g.place.accbase.toNat, true, none, none, kind⟩
  if s'.mayAccept o && s'.lockTurn g.place.core g.place.slot (s.now + 1) then
    ({ s' with mats := s'.mats ++ [o] }.lockMat o).retire g.nextSeq hold (g.sc.spc + 4)
  else s.park g false (.stall .order)

/-- `accz` (R315). -/
def execAccz (a b : BitVec 6) (s : State) : Out :=
  scalarWord (.accz a b) false [sReg a, sReg b]
    (fun s g h =>
      let lo := 16 * bits (g.getS a) 15 0
      let len := (g.getS b).toNat
      if bits (g.getS a) 63 16 != 0 || len % 16 != 0 then s.trapScalar g 0x01 (illegalWord h (.accz a b))
      else if len == 0 then s.retire g h (g.sc.spc + 4)
      else
        match beyondWindow lo len g.place.accsize.toNat with
        | some v => s.trapScalar g 0x10 v
        | none => s.issueMat g h (.zero lo len)) s

/-- The fields of `accv` are legal (R316). -/
def convLegal (region dest how : Word) : Bool :=
  let cols := bits region 32 23
  let rows := bits region 22 16
  let fmt := bits how 3 0
  bits region 63 33 == 0 && 16 ≤ cols && cols ≤ 512 && cols % 16 == 0 && 1 ≤ rows && rows ≤ 64
    && bits dest 63 48 == 0 && cols * formatWidth fmt / 8 ≤ bits dest 47 24
    && bits how 31 10 == 0 && !how.getLsbD 7 && 1 ≤ fmt && fmt ≤ 9 && (!how.getLsbD 6 || fmt == 3 || fmt == 4)

/-- `accv` (R316). -/
def execAccv (d a b : BitVec 6) (s : State) : Out :=
  scalarWord (.accv d a b) false [sReg d, sReg a, sReg b]
    (fun s g h =>
      let region := g.getS a
      let dest := g.getS d
      let how := g.getS b
      let cols := bits region 32 23
      let rows := bits region 22 16
      let off := bits dest 23 0
      let stride := bits dest 47 24
      if !convLegal region dest how then s.trapScalar g 0x01 (illegalWord h (.accv d a b))
      else if off % 8 != 0 || stride % 8 != 0 then s.trapScalar g 0x05 (word off)
      else
        match beyondWindow (16 * bits region 15 0) (4 * rows * cols) g.place.accsize.toNat
          <|> beyondWindow off ((rows - 1) * stride + cols * formatWidth (bits how 3 0) / 8) g.place.sxsize.toNat with
        | some v => s.trapScalar g 0x10 v
        | none => s.issueMat g h (.conv region dest how)) s

-- The checksum registers (R320, R321).

/-- Register k[n]. -/
def Group.getK (g : Group) (n : BitVec 2) : Word := g.k[n.toNat]'n.isLt
/-- The group with k[n] written. -/
def Group.setK (g : Group) (n : BitVec 2) (x : Word) : Group := { g with k := g.k.set n.toNat x n.isLt }

/-- `ckclr` (R320). -/
def execCkclr (k : BitVec 2) (s : State) : Out :=
  scalarWord (.ckclr k) false [] (fun s g h => s.retire (g.setK k 0) h (g.sc.spc + 4)) s

/-- `ckrd` (R320). -/
def execCkrd (d : BitVec 6) (k : BitVec 2) (s : State) : Out :=
  scalarWord (.ckrd d k) false [sReg d] (fun s g h => s.writeLater g h (sReg d) (g.getK k)) s

/-- `ckadd` (R320). -/
def execCkadd (k : BitVec 2) (a : BitVec 6) (s : State) : Out :=
  scalarWord (.ckadd k a) false [sReg a] (fun s g h => s.retire (g.setK k (g.getK k + g.getS a)) h (g.sc.spc + 4)) s

/-- The tolerance word of `ckchk` is legal (R321). -/
def toleranceLegal (t : Word) : Bool :=
  bits t 63 16 == 0 && bits t 15 8 ≤ 60 && bits t 7 3 == 0 && (t.getLsbD 0 || !t.getLsbD 2)

/-- Whether two finite values lie within a tolerance of each other, exactly (R321). -/
def within (e : Nat) (a b : FVal) : Bool :=
  match a, b with
  | .num n1 m1 e1, .num n2 m2 e2 =>
    let q := if e1 < e2 then e1 else e2
    let x := signedAt n1 m1 e1 q
    let y := signedAt n2 m2 e2 q
    decide ((x - y).natAbs * 2 ^ e ≤ x.natAbs + y.natAbs)
  | _, _ => false

/-- The reason for which `ckchk` fails (R321). -/
def checkReason (t x y : Word) : Option Nat :=
  if t.getLsbD 0 then
    if t.getLsbD 2 then (if bits x 31 0 == bits y 31 0 then none else some 3)
    else if x = y then none else some 3
  else
    let a := f64.value x.toNat
    let b := f64.value y.toNat
    if a.isNan || a.isInf || b.isNan || b.isInf then some 2
    else if within (bits t 15 8) a b then none else some 1

/-- `ckchk` (R321). -/
def execCkchk (a : BitVec 6) (s : State) : Out :=
  scalarWord (.ckchk a) false [sReg a]
    (fun s g h =>
      let t := g.getS a
      if !toleranceLegal t then s.trapScalar g 0x01 (illegalWord h (.ckchk a))
      else
        match (if t.getLsbD 1 then checkReason t g.k[0] g.k[1] else checkReason t g.k[2] g.k[3]) with
        | some r => s.trapScalar g 0x08 (word r)
        | none => s.retire g h (g.sc.spc + 4)) s

end Sys2Proof.Machine
end

