-- ==== Sys2Proof/Machine/Record.lean ====
section
/-! DEFINITION. Records that a word of the scalar stream reads whole (R160, R327, R340, R421), and tensor handles and
entries (R416 to R418). -/

namespace Sys2Proof.Machine

open Sys2Proof

-- Records.

/-- A range cut at page boundaries: the address and length of each piece, for a range that lies on at most two pages. -/
def pagePieces (va : Word) (n : Nat) : List (Word × Nat) :=
  let k := min n (8192 - va.toNat % 8192)
  if n == 0 then [] else if k == n then [(va, n)] else [(va, k), (va + word k, n - k)]

/-- The leaves of a record's pieces, or the state after XLATE or at the start of the walk that the read meets (R23). -/
def State.recordLeaves (s : State) (g : Group) : List (Word × Nat) → Except State (List (Word × Nat × Leaf))
  | [] => .ok []
  | (va, k) :: r =>
    match s.xlate g.place.core g.place.ctx g.sc.walked va with
    | none => .error (s.park g false (.walk ⟨va, .walking, false⟩))
    | some (.fault _) => .error (s.trapScalar g 0x10 va)
    | some (.leaf l) => (s.recordLeaves g r).map fun t => (va, k, l) :: t

/-- The first page of a record that may not be read, and why. -/
def State.recordRefused (s : State) (g : Group) (ls : List (Word × Nat × Leaf)) : Option (Word × BitVec 8) :=
  ls.findSome? fun x => (x.2.2.check .load (s.worldOf g)).map fun c => (x.1, c)

/-- The physical pieces of a record, or the state after the trap or at the start of the walk that the read meets: the
translations of all its pages come before the permissions of any (R25 steps 5 and 6). -/
def State.recordPieces (s : State) (g : Group) (ps : List (Word × Nat)) : Except State (List (Nat × Nat)) :=
  match s.recordLeaves g ps with
  | .error s => .error s
  | .ok ls =>
    match s.recordRefused g ls with
    | some (va, c) => .error (s.trapScalar g c.toNat va)
    | none => .ok (ls.map fun x => (x.2.2.phys x.1, x.2.1))

/-- Whether a record can be read in program order: the scalar stream's accesses before it and the stores of its core to it are
performed (R25, R279). -/
def State.recordReady (s : State) (g : Group) (ps : List (Nat × Nat)) : Bool :=
  !(ps.any fun p => (s.core g.place.core).writePending false p.1 p.2) && !((g.sq ++ (s.core g.place.core).reqs).any fun r =>
    r.who.g == g.uid && !r.isMarker &&
      (!r.who.lane || (!r.scratch && r.writes && ps.any fun p => overlap r.addr r.bytes p.1 p.2)))

/-- An address lies on an SC page of a context. -/
def State.scPage (s : State) (ctx : Nat) (va : Word) : Bool :=
  match s.walk ctx va with
  | .leaf l => l.sc
  | _ => false

/-- The pieces of a record read by a group. A record in one piece is one read of its bytes after some prefix of the writes to them,
behind none that the group must see (R281); a record on two pages, one on an SC page (R288) and one stored under another key is
read as it stands (log entry 49). -/
def State.recordBytes (s : State) (g : Group) (sc : Bool) (ps : List (Nat × Nat)) : State × List Byte :=
  let now := ps.flatMap fun p => s.physRead (s.worldOf g) p.1 p.2
  match ps with
  | [(pa, n)] =>
    let ks := s.knownBy g false
    let grs := granulesAt pa n
    let bound := grs.foldl (fun m x => max m (s.order.bound g.uid g.place.core ks x)) 0
    let other := (linesAt pa n).any fun x => s.keyOf x != s.keyFor (s.worldOf g) x
    let (s, ws) := s.overlookAt pa n bound (sc || other)
    let left (x : Nat) : Nat := (ws.filter fun w => overlap w.loc w.len (8 * x) 8).length
    (s.learnSeen g false (grs.map fun x => (x, s.order.stampBefore x (left x)))
      (grs.flatMap fun x => s.order.saidBefore x (left x) (8 * x) 8), unseenBytes ws pa now)
  | _ => (s, now)

/-- A record of `n` bytes read as one indivisible act, with the checks of R25: the bytes, or the state that the read ends
or waits in, for an earlier access or the wake of a die (R412). Data that cannot be delivered kills the group (R374), as a refusal at a port does (R415); a tag that does not match poisons its line
and raises INTEG, before the word is tried again (R447, DEDUCED, log entry 26). -/
def State.readRecord (s : State) (g : Group) (va : Word) (n align : Nat) : Except State (State × List Byte) :=
  if va.toNat % align != 0 then .error (s.trapScalar g 0x05 va)
  else
    match s.recordPieces g (pagePieces va n) with
    | .error s => .error s
    | .ok ps =>
      if !s.recordReady g ps || ps.any (fun p => s.asleepAt p.1) then .error (s.park g false (.stall .order))
      else
        if ps.any fun p => s.portRefuses g.die (s.worldOf g) p.1 then .error (s.killFor g false g.sc.spc va 0x12)
        else match ps.findSome? fun p => s.badIn p.1 p.2 with
        | some a =>
          if s.mem.poison.contains (a / 128) then .error (s.kill g false g.sc.spc va (sectorReport a))
          else
            .error ((s.poisonLines [a / 128]).park (g.addAsync ⟨0x13, false, word (128 * (a / 128)), 0, 0, false⟩) false (.stall .order))
        | none => .ok ((s.nextFree).2.recordBytes g (s.scPage g.place.ctx va) ps)

-- Handles (R418).

/-- The fields of a handle. -/
def handleGen (h : Word) : Nat := bits h 62 47
def handleInd (h : Word) : Bool := h.getLsbD 46
def handleE (h : Word) : Nat := bits h 45 40
def handleDie (h : Word) : Nat := bits h 39 36
def handleIndex (h : Word) : Nat := bits h 35 0
/-- The tensor ID. -/
def handleId (h : Word) : Nat := bits h 39 0
/-- A malformed handle. -/
def badHandle (h : Word) : Bool := h.getLsbD 63 || decide (62 < handleE h) || handleIndex h == 0
/-- A handle of its fields. -/
def makeHandle (gen : BitVec 16) (ind : Bool) (e die index : Nat) : Word :=
  word (gen.toNat * 2 ^ 47 + (if ind then 2 ^ 46 else 0) + e * 2 ^ 40 + die * 2 ^ 36 + index)
/-- A handle with another exponent. -/
def withE (h : Word) (e : Nat) : Word := word (h.toNat - handleE h * 2 ^ 40 + e * 2 ^ 40)

-- Entries (R416, R417).

/-- GEN of an index. -/
def Die.gen (d : Die) (index : Nat) : BitVec 16 := look 1 d.gens index

/-- The lowest FREE index of a die (R417), searched from `i` on; as many indices are searched as there are entries, plus
one. -/
def freeIndex (used : List Nat) : (fuel i : Nat) → Option Nat
  | 0, _ => none
  | fuel + 1, i => if used.contains i then freeIndex used fuel (i + 1) else if i < 2 ^ 36 then some i else none
def Die.lowestFree (d : Die) : Option Nat := freeIndex (d.tensors.map fun t => t.index) (d.tensors.length + 1) 1

/-- A die with an entry replaced, or added. -/
def Die.setTensor (d : Die) (t : Tensor) : Die :=
  { d with tensors := d.tensors.filter (fun x => x.index != t.index) ++ [t] }
def State.setTensor (s : State) (die : Nat) (t : Tensor) : State := s.setDie die ((s.die die).setTensor t)

/-- An entry becomes FREE: GEN rises, skipping 0, and its lines leave the range table (R416, R446). -/
def State.freeTensor (s : State) (die index : Nat) : State :=
  let d := s.die die
  let g := d.gen index + 1
  let g := if g = 0 then 1 else g
  let s := s.setDie die { d with
    tensors := d.tensors.filter (fun x => x.index != index), gens := put d.gens index g }
  { s with tramir := { s.tramir with ranges := s.tramir.ranges.filter (fun r => r.2.2.1 != die * 2 ^ 36 + index) } }

/-- The entry that a handle names for an agent of a context and world, through indirections where the handle says so, or the
reason of TENSOR (R420). `fuel` bounds the indirections by the number of entries. -/
def State.followHandle (s : State) (ctx : Nat) (world : BitVec 4) : (fuel : Nat) → (h : Word) → Except Nat (Nat × Tensor)
  | 0, _ => .error 2
  | fuel + 1, h =>
    match s.tensor? (handleDie h) (handleIndex h) with
    | none => .error 2
    | some t =>
      if t.ctx != ctx || t.world != world then .error 3
      else if ((s.die (handleDie h)).gen t.index).toNat != handleGen h then .error 2
      else if handleInd h && t.state == 4 then s.followHandle ctx world fuel t.parent
      else .ok (handleDie h, t)

/-- The tensor entries of the module. -/
def State.entryCount (s : State) : Nat := (s.dies.map fun d => d.2.tensors.length).foldl (· + ·) 0

/-- The entry that a handle names (R420), LIVE or not. -/
def State.entryOfHandle (s : State) (ctx : Nat) (world : BitVec 4) (h : Word) : Except Nat (Nat × Tensor) :=
  if badHandle h then .error 1 else s.followHandle ctx world (s.entryCount + 1) h

/-- The LIVE tensor that a handle names (R420, R332). -/
def State.liveTensor (s : State) (ctx : Nat) (world : BitVec 4) (h : Word) : Except Nat (Nat × Tensor) :=
  match s.entryOfHandle ctx world h with
  | .error r => .error r
  | .ok (d, t) => if t.state == 1 then .ok (d, t) else .error 2

end Sys2Proof.Machine
end

