-- ==== Sys2Proof/Machine/Copy.lean ====
section
/-! DEFINITION. The copy engines: copies, gathers and scatters, 2:4 expansion, handles and range locks (R322 to R337), `cpyw`
and `yieldc` (R338, R339) and collectives (R340 to R344). A copy moves the rest of its data in the step in which it completes; words of it may have
moved before, one by one and in any order (`State.moveWord`). -/

namespace Sys2Proof.Machine

open Sys2Proof

-- Records (R324 to R328).

/-- A copy record (R324). -/
def copyRec (b : List Byte) : CopyRec :=
  ⟨word (field b 0 8), word (field b 8 8), field b 0x10 4, field b 0x14 4, word (field b 0x18 8)⟩

/-- A shape record (R324). -/
def shapeRec (b : List Byte) : ShapeRec where
  base := word (field b 0 8)
  handle := word (field b 8 8)
  rank := field b 0x10 1
  efmt := field b 0x11 1
  dims := (List.range 5).map fun i => field b (0x14 + 4 * i) 4
  strides := (List.range 4).map fun i => word (field b (0x28 + 8 * i) 8)
  metaPtr := word (field b 0x48 8)
  fill := word (field b 0x50 8)

/-- The element width of EFMT in bits (R325). -/
def elementBits (e : Nat) : Nat := if e ≤ 9 then formatWidth e else 8 * 2 ^ (e - 10)
/-- The zero of EFMT (R325). -/
def elementZero (e : Nat) : Nat := if e == 7 then 0x77 else if e == 8 then 7 else 0

def ShapeRec.dim (p : ShapeRec) (i : Nat) : Nat := p.dims.getD i 0
/-- The byte stride of dimension `i`, 1 to 4 (R324). -/
def ShapeRec.stride (p : ShapeRec) (i : Nat) : Word := p.strides.getD (i - 1) 0
/-- Rows of the view (R326). -/
def ShapeRec.rows (p : ShapeRec) : Nat := ((p.dims.take p.rank).drop 1).foldl (· * ·) 1
/-- RB (R326). -/
def ShapeRec.rowBytes (p : ShapeRec) : Nat := p.dim 0 * elementBits p.efmt / 8
/-- Bytes of a source row (R326). -/
def ShapeRec.sourceBytes (p : ShapeRec) (x24 : Bool) : Nat := if x24 then p.rowBytes / 2 else p.rowBytes
/-- RS (R324). -/
def rowStep (r : CopyRec) (p : ShapeRec) : Nat := if r.xstride == 0 then p.rowBytes else r.xstride

/-- The index of row `r` in dimensions 1 to 4, and the address of the row from a base (R326). -/
def ShapeRec.rowAddr (p : ShapeRec) (base : Word) (r : Nat) : Word :=
  let (a, _) := [1, 2, 3, 4].foldl (fun (st : Word × Nat) i =>
    if i < p.rank then (st.1 + word (st.2 % p.dim i) * p.stride i, st.2 / p.dim i) else st) (base, r)
  a

/-- Rows that the copy moves on its other side (R329). -/
def copyRows (kind : Nat) (r : CopyRec) (p : ShapeRec) : Nat := if kind == 2 || kind == 3 then r.nidx else p.rows
/-- Bytes that the other side spans (R326). -/
def otherSpan (kind : Nat) (r : CopyRec) (p : ShapeRec) : Nat := (copyRows kind r p - 1) * rowStep r p + p.rowBytes

/-- The lowest scratch offset at or beyond a window's size among the bytes of `n` rows of `w` bytes at steps of `step`, none
where they lie inside (R327). -/
def rowsBeyond (lo step n w size : Nat) : Option Word :=
  let r := if size < lo + w then 0 else (size - lo - w) / step + 1
  if decide (r < n) && w != 0 then some (word (Nat.max (lo + r * step) size)) else none

/-- Whether the bytes of the records are reserved bytes that hold zero, and the dimensions and strides obey R324. -/
def copyReserved (rb pb : List Byte) (x24 hdl : Bool) (p : ShapeRec) : Bool :=
  field rb 0x20 32 == 0 && field pb 0x12 2 == 0 && field pb 0x58 40 == 0
    && (hdl || p.handle == 0) && (!hdl || p.base == 0) && (x24 || p.metaPtr == 0)
    && 1 ≤ p.rank && p.rank ≤ 5
    && ((List.range 5).all fun i => if i < p.rank then p.dim i != 0 else p.dim i == 0)
    && ([1, 2, 3, 4].all fun i => decide (i < p.rank) || p.stride i == 0)

/-- Valid (R328). -/
def copyValid (kind : Nat) (x24 hdl : Bool) (rb pb : List Byte) : Bool :=
  let r := copyRec rb
  let p := shapeRec pb
  let w := elementBits p.efmt
  let unit := if w == 4 then 1 else w / 8
  let step := if kind == 4 then unit else 8
  copyReserved rb pb x24 hdl p && p.efmt != 0 && p.efmt ≤ 13 && !(w == 4 && p.dim 0 % 2 == 1)
    && (w == 4 || (p.base.toNat % unit == 0 && p.strides.all fun x => x.toNat % unit == 0))
    && r.xaddr.toNat % step == 0
    && (r.xstride == 0 || (decide (p.rowBytes ≤ r.xstride) && r.xstride % step == 0))
    && decide (p.rows * p.rowBytes ≤ 2 ^ 32)
    && (!x24 || (p.dim 0 % 4 == 0 && w != 64))
    && (if kind == 2 || kind == 3 then p.rank == 2 && 1 ≤ r.nidx && r.nidx ≤ 65536 && r.idxp.toNat % 4 == 0
        else r.nidx == 0 && r.idxp == 0)

-- Handles (R332).

/-- The view's base, and the fault that a handle's resolution meets: its address value. -/
def State.resolveView (s : State) (o : EngOp) (hdl x24 : Bool) (p : ShapeRec) : Word × Option Word :=
  if !hdl then (p.base, none)
  else
    match s.liveTensor o.who.ctx o.who.world p.handle with
    | .error _ => (0, some p.handle)
    | .ok (_, t) =>
      let n := p.sourceBytes x24
      let inside (a : Word) : Bool := decide ((a - t.data).toNat < t.bytes.toNat)
      let first (a : Word) : Option Word :=
        ((List.range n).find? fun i => !inside (a + word i)).map fun i => a + word i
      (t.data, (List.range p.rows).findSome? fun r => first (p.rowAddr t.data r))

-- Range locks (R335, R336).

/-- The lowest address of a view and its span (R335). -/
def ShapeRec.extent (p : ShapeRec) (base : Word) (x24 : Bool) : Nat × Nat :=
  let (lo, hi) := [1, 2, 3, 4].foldl (fun (st : Int × Int) i =>
    if i < p.rank then
      let d := (p.stride i).toInt * ((p.dim i : Int) - 1)
      if d < 0 then (st.1 + d, st.2) else (st.1, st.2 + d)
    else st) ((0 : Int), (0 : Int))
  ((base + BitVec.ofInt 64 lo).toNat, (hi - lo).toNat + p.sourceBytes x24)

/-- The entries that a copy takes (R335). -/
def EngOp.locks (o : EngOp) : List RangeLock :=
  match o.kind with
  | .copy kind x24 _ true r p =>
    let (lo, n) := p.extent o.base x24
    let view (w : Bool) : RangeLock := lockOf o.uid 2 o.who.ctx lo n w
    let other (w : Bool) : RangeLock :=
      if kind == 4 then lockOf o.uid 2 o.who.ctx r.xaddr.toNat (otherSpan kind r p) w
      else lockOf o.uid 0 o.who.ctx (o.sxbase + r.xaddr.toNat) (otherSpan kind r p) w
    match kind with
    | 1 => [other false, view true]
    | 2 => [other true]
    | 3 => [other false]
    | _ => [view false, other true]
  | _ => []

-- Tokens (R322, R323).

/-- The tokens from one on, counting upward and from 0 after 15. -/
def tokensFrom (n : Nat) : List Nat := (List.range 16).map fun i => (n + i) % 16

/-- The next token of a group, none while all are outstanding (R322). -/
def Group.nextToken (g : Group) : Option Nat :=
  (tokensFrom (g.lastTok + 1)).find? fun t => match g.tokens[t]? with
    | some x => x.op.isNone
    | none => false

/-- COPY_START's payload (R380). -/
def EngKind.startPayload (k : EngKind) (base : Word) : Option Nat :=
  match k with
  | .copy kind _ _ _ r _ => some ((if kind == 1 || kind == 3 then base else r.xaddr).toNat % 2 ^ 32)
  | .coll _ _ _ _ => none

/-- An operation as an agent. -/
def EngOp.agent (o : EngOp) : Agent := o.who.engine o.uid

/-- An operation ends (R323, R334, R363): its locks are released, its token completes, or an exited group's fault is
logged. Its token carries what the operation has seen and written (R291). -/
def State.endEngine (s : State) (o : EngOp) : State :=
  let s := s.tell (.token o.who.g o.token) (s.told (.op o.uid) ++ [⟨o.agent, 5, s.order.viewOf fun a => a == o.agent⟩])
  let s := s.setCore o.who.core ((s.core o.who.core).unlock o.uid)
  let s := { s with engs := s.engs.filter (fun x => x.uid != o.uid) }
  let cause := match o.fault with
    | some f => f.cause.toNat
    | none => 0
  let s := match o.kind with
    | .copy _ _ _ _ _ _ => s.emitO o.who 0x02 o.token cause
    | .coll _ _ _ _ => s
  match s.group? o.who.g with
  | some g =>
    s.setGroup { g with tokens := g.tokens.set o.token ⟨none, o.wrote, o.fault⟩ }.wake
  | none =>
    match o.fault with
    | some f => s.log 1 f.cause.toNat 2 o.who f.pc f.value
    | none => s

/-- An operation with a fault. -/
def EngOp.failed (o : EngOp) (cause : Nat) (value : Word) : EngOp :=
  { o with fault := some ⟨BitVec.ofNat 8 cause, value, o.who.pc⟩ }

/-- A collective at scope sys opens with its first member, which fixes its link-key generation (R443). -/
def State.openColl (s : State) (o : EngOp) : State :=
  match o.kind with
  | .coll _ 5 _ r =>
    let f := s.fabric
    if f.opened.any fun x => x.1 == o.who.ctx && x.2.1 == r.cid then s
    else { s with fabric := { f with opened := f.opened ++ [(o.who.ctx, r.cid, f.keyGen)] } }
  | _ => s

/-- A collective at scope sys has completed, failed or timed out: its generation's key is kept no longer (R443). -/
def State.closeColl (s : State) (ctx : Nat) (cid : Word) : State :=
  { s with fabric := { s.fabric with opened := s.fabric.opened.filter fun x => !(x.1 == ctx && x.2.1 == cid) } }

/-- Whether the ports keep the key of a generation: the current one, one that is still in its grace, or one that an open collective
has fixed (R441, R443). -/
def State.keyKept (s : State) (n : Nat) : Bool :=
  decide (s.fabric.keyGen < n + 3) || s.fabric.opened.any fun x => x.2.2 == n

/-- The port seals a contribution under the current generation; the switch refuses it where another is fixed, and the port seals it
again under that one and resends it (R443). -/
def State.contribute (s : State) (cid : Word) (gen : Nat) : State :=
  let s := s.send (.contribution cid s.fabric.keyGen)
  if s.fabric.keyGen == gen || !s.keyKept gen then s else s.send (.contribution cid gen)

/-- The base of an operation's view, the fault that its handle meets, and the entries that it takes (R332, R335). -/
def State.engineLocks (s : State) (o : EngOp) : Word × Option Word × List RangeLock :=
  let (base, bad) := match o.kind with
    | .copy _ x24 hdl _ _ p => s.resolveView o hdl x24 p
    | .coll _ _ _ _ => (0, none)
  (base, bad, if bad.isSome then [] else { o with base := base }.locks)

/-- An operation's entries are free and conflict with none (R336). -/
def State.lockable (s : State) (o : EngOp) (locks : List RangeLock) : Bool := (s.core o.who.core).mayLock locks []

/-- An operation is accepted if it finds a token and, in its turn, its locks (R322, R327, R336); the group with its token taken, and the
operation. `since` is the clock since which it could be. A copy whose handle fails takes no lock and ends at once (R332). -/
def State.acceptEngine (s : State) (g : Group) (o : EngOp) (since : Nat) : Option (State × Group) :=
  match g.nextToken with
  | none => none
  | some t =>
    let (base, bad, locks) := s.engineLocks o
    let o := { o with token := t, base := base, started := some s.now, since := none }
    if !s.lockable o locks || !(locks.isEmpty || s.lockTurn g.place.core g.place.slot since) then none
    else
      let s := s.hush fun m => m == .token g.uid t
      let s := s.setCore g.place.core ((s.core g.place.core).lock locks)
      let g := { g with tokens := g.tokens.set t ⟨some o.uid, [], none⟩, lastTok := t }.deferValue o.dest (word t)
      let s := match o.kind.startPayload base with
        | some p => s.emitG g 0x01 t p
        | none => s
      match bad with
      | none => some ({ s.openColl o with engs := s.engs ++ [o] }, g)
      | some v =>
        let s := (s.setGroup g).endEngine (o.failed 0x15 v)
        (s.group? g.uid).map fun g => (s, g)

/-- An operation that a word issues: accepted, or waiting for a token or locks (R322, R327). -/
def State.issueEngine (s : State) (g : Group) (hold : Bool) (d : BitVec 6) (kind : EngKind) : State :=
  let (id, s) := s.fresh
  let o : EngOp := ⟨id, g.origin (s.worldOf g) false g.sc.spc, g.seq, g.sc.laneSeq, none, sReg d, 0, g.place.sxbase.toNat,
    g.place.sxsize.toNat, 0, none, none, false, none, none, [], [], [], kind⟩
  let g := g.nextSeq
  match s.acceptEngine g o (s.now + 1) with
  | some (s, g) => s.retire g hold (g.sc.spc + 4)
  | none => { s with engs := s.engs ++ [o] }.park g hold (.copyToken id)

/-- `cpy` of a kind (R327). -/
def cpyWord (i : Instr) (kind : Nat) (d a : BitVec 6) (hdl x24 lk : Bool) (s : State) : Out :=
  scalarWord i false [sReg d, sReg a]
    (fun s g h =>
      match s.readRecord g (g.getS a) 64 64 with
      | .error s => s
      | .ok (s, rb) =>
        let r := copyRec rb
        match s.readRecord g r.shapep 128 128 with
        | .error s => s
        | .ok (s, pb) =>
          let p := shapeRec pb
          if !copyValid kind x24 hdl rb pb then s.trapScalar g 0x01 (illegalWord h i)
          else
            match if kind == 4 then none
              else rowsBeyond r.xaddr.toNat (rowStep r p) (copyRows kind r p) p.rowBytes g.place.sxsize.toNat with
            | some v => s.trapScalar g 0x10 v
            | none => s.issueEngine g h d (.copy kind x24 hdl lk r p)) s

/-- `cpy.g2s` (R327). -/
def execCpyG2s (d a : BitVec 6) (u x l : Bool) (s : State) : Out := cpyWord (.cpyG2s d a u x l) 0 d a u x l s
/-- `cpy.s2g` (R327). -/
def execCpyS2g (d a : BitVec 6) (u x l : Bool) (s : State) : Out := cpyWord (.cpyS2g d a u x l) 1 d a u x l s
/-- `cpy.gth` (R327). -/
def execCpyGth (d a : BitVec 6) (u x l : Bool) (s : State) : Out := cpyWord (.cpyGth d a u x l) 2 d a u x l s
/-- `cpy.sct` (R327). -/
def execCpySct (d a : BitVec 6) (u x l : Bool) (s : State) : Out := cpyWord (.cpySct d a u x l) 3 d a u x l s
/-- `cpy.g2g` (R327). -/
def execCpyG2g (d a : BitVec 6) (u x l : Bool) (s : State) : Out := cpyWord (.cpyG2g d a u x l) 4 d a u x l s

/-- Whether a waiting operation's group stands at it. -/
def State.standsAt (s : State) (o : Origin) (w : ScalarWait) : Bool :=
  (s.group? o.g).any fun g => g.life == .resident && g.sc.wait == w

/-- Since which clock each waiting operation could be accepted, kept at every clock (R336). -/
def State.timeLocks (s : State) : State :=
  let since (holds : Bool) (n : Option Nat) : Option Nat := if holds then some (n.getD s.now) else none
  let eng (o : EngOp) : EngOp :=
    if o.started.isSome then o
    else
      let holds := s.standsAt o.who (.copyToken o.uid) && ((s.group? o.who.g).bind Group.nextToken).isSome
        && s.lockable o (s.engineLocks o).2.2
      { o with since := since holds o.since }
  let mat (o : MatOp) : MatOp :=
    if o.accepted then o else { o with since := since (s.standsAt o.who (.accept o.uid) && s.mayAccept o) o.since }
  { s with engs := s.engs.map eng, mats := s.mats.map mat }

/-- COPY_START (R327, R336): an operation that waited for a token or locks is accepted. -/
def execCopyStart (op : Nat) (s : State) : Out :=
  match s.engs.find? fun o => o.uid == op with
  | none => .next s
  | some o =>
    match s.group? o.who.g with
    | none => .next s
    | some g =>
      if o.started.isSome || g.sc.wait != .copyToken op || g.life != .resident then .next s
      else
        match { s with engs := s.engs.filter (fun x => x.uid != op) }.acceptEngine g o (o.since.getD (s.now + 1)) with
        | none => .next s
        | some (s, g) => .next (s.complete g)

-- Moving the data (R329 to R334).

/-- Why an engine's access is not made: it waits on a held PTE, or for the wake of a die or a write of its core, or it faults with a
cause and an address value. -/
inductive EngEnd where
  | held (va : Word)
  | waits
  | fault (cause : Nat) (va : Word)

/-- What an operation's issuer had learned by it (R291). -/
def State.engineKnown (s : State) (o : EngOp) : List Learned := s.order.knownAt o.who.g false o.seq o.after

/-- The reads of an operation, granule by granule, of locations whose present bytes are given: each returns what the granule held after
some prefix of its writes, behind none that the issuer or a load of its core must see (R271, R279, R291). The operation has seen the
writes that the values stem from. -/
def State.engineSees (s : State) (o : EngOp) (latest : Nat → Bool) (cells : List (Nat × Byte)) : State × List Byte :=
  let ks := s.engineKnown o
  let (s, tab, view) := (cells.map fun c => granule c.1).eraseDups.foldl
    (fun (acc : State × List (Nat × List PastWrite) × View) gr =>
      let (s, tab, view) := acc
      let bound := max ((slack ks).getD 0) (s.order.bound o.who.g o.who.core ks gr)
      let (s, ws) := s.overlook gr bound (latest gr)
      (s, (gr, ws) :: tab, (gr, s.order.stampBefore gr ws.length) :: view)) (s, [], [])
  let view := view.filter fun p => p.2 != 0
  let s := if view.isEmpty then s else s.tell (.op o.uid) [⟨o.agent, 5, view⟩]
  (s, cells.map fun c => byteBefore (look [] tab (granule c.1)) c.1 c.2)

/-- Whether a write of the core's order that is not applied touches some bytes of memory, which the operation reads as a load of the
core would (R279, R291). -/
def Core.writesAt (c : Core) (l : List Nat) : Bool :=
  c.reqs.any fun r => r.writes && !r.scratch && l.any fun a => decide (r.addr ≤ a) && decide (a < r.addr + r.bytes)

/-- Some of `n` bytes from `va` lies on an SC page. -/
def State.scRange (s : State) (ctx : Nat) (va : Word) (n : Nat) : Bool :=
  s.scPage ctx (va + word (n - 1)) || (List.range (n / 8192 + 1)).any fun i => s.scPage ctx (va + word (8192 * i))

/-- A granule of memory is read as it stands: it is behind a port, on an SC page (R288), or stored under another key. -/
def State.readsNow (s : State) (world : BitVec 4) (sc : Bool) (gr : Nat) : Bool :=
  sc || decide (0x40000000000 ≤ 8 * gr) || s.keyOf (gr / 16) != s.keyFor world (gr / 16)

/-- Bytes that an engine operation reads from global memory (R333). -/
def State.engineLoad (s : State) (o : EngOp) (va : Word) (n : Nat) : State × Except EngEnd (List Byte) :=
  match s.engineRange (dieOf o.who.core) o.who.ctx o.who.world .load (pagesOf n) va n with
  | (s, .error (.held, a)) => (s, .error (if o.timedOut then .fault 0x10 a else .held a))
  | (s, .error (.asleep, _)) => (s, .error .waits)
  | (s, .error (.fault c, a)) => (s, .error (.fault c.toNat a))
  | (s, .error (.ok _, a)) => (s, .error (.fault 0x10 a))
  | (s, .ok l) =>
    if (s.core o.who.core).writesAt l then (s, .error .waits)
    else match (l.zip (List.range n)).find? fun p => (s.badIn p.1 1).isSome with
    | some (pa, i) => (s.poisonTags l, .error (.fault (s.badCause pa).toNat (va + word i)))
    | none =>
      let (s, bs) := s.engineSees o (s.readsNow o.who.world (s.scRange o.who.ctx va n)) (l.map fun a => (a, s.physByte o.who.world a))
      (s, .ok bs)

/-- The physical addresses that an engine operation writes (R333). -/
def State.engineDest (s : State) (o : EngOp) (va : Word) (n : Nat) : State × Except EngEnd (List Nat) :=
  match s.engineRange (dieOf o.who.core) o.who.ctx o.who.world .store (pagesOf n) va n with
  | (s, .error (.held, a)) => (s, .error (if o.timedOut then .fault 0x10 a else .held a))
  | (s, .error (.asleep, _)) => (s, .error .waits)
  | (s, .error (.fault c, a)) => (s, .error (.fault c.toNat a))
  | (s, .error (.ok _, a)) => (s, .error (.fault 0x10 a))
  | (s, .ok l) => (s, .ok l)

/-- A row to be written: bytes at places of the core's scratchpad, or at physical addresses. -/
inductive CopyWrite where
  | scratch (cells : List (Nat × Byte))
  | global (va : Word) (cells : List (Nat × Byte))

/-- The bytes of a row with their places. -/
def CopyWrite.cells : CopyWrite → List (Nat × Byte)
  | .scratch l | .global _ l => l

/-- The same row with other bytes. -/
def CopyWrite.withCells (w : CopyWrite) (l : List (Nat × Byte)) : CopyWrite :=
  match w with
  | .scratch _ => .scratch l
  | .global va _ => .global va l

/-- Where a place of a row lies, as a location. -/
def CopyWrite.locOf (w : CopyWrite) (core a : Nat) : Nat :=
  match w with
  | .scratch _ => scratchLoc core a
  | .global _ _ => a

/-- The bytes of row `i` that neither have moved early nor have been replaced by a word of a higher row that has (R292, R330). -/
def EngOp.unmoved (o : EngOp) (i : Nat) (w : CopyWrite) : CopyWrite :=
  w.withCells (w.cells.filter fun c =>
    let loc := w.locOf o.who.core c.1
    !(o.moved.any fun m => decide (i ≤ m.1) && decide (m.2.1 ≤ loc) && decide (loc < m.2.1 + m.2.2)))

/-- The bytes of the packed elements of a width, the first in the lowest bits (R30). -/
def packElements (w : Nat) (xs : List Nat) : List Byte :=
  leBytes (xs.length * w / 8) ((xs.zip (List.range xs.length)).foldl (fun n p => n + p.1 % 2 ^ w * 2 ^ (w * p.2)) 0)

/-- Element `e` of packed elements of a width. -/
def elementAt (w : Nat) (bs : List Byte) (e : Nat) : Nat := leNat ((bs.drop (e * w / 8)).take ((w + 7) / 8)) / 2 ^ (e * w % 8) % 2 ^ w

/-- A dense row of a 2:4 source row and its nibbles, the first of which is nibble `first` of `meta_` (R331). -/
def expandRow (p : ShapeRec) (src meta_ : List Byte) (first : Nat) : List Byte :=
  let w := elementBits p.efmt
  packElements w ((List.range (p.dim 0 / 4)).flatMap fun q =>
    let nib := elementAt 4 meta_ (first + q)
    (List.range 4).map fun i =>
      if i == nib / 4 % 4 then elementAt w src (2 * q + 1)
      else if i == nib % 4 then elementAt w src (2 * q)
      else elementZero p.efmt)

/-- A source row of the view, dense (R326, R331). -/
def State.viewRow (s : State) (o : EngOp) (x24 : Bool) (p : ShapeRec) (r : Nat) : State × Except EngEnd (List Byte) :=
  match s.engineLoad o (p.rowAddr o.base r) (p.sourceBytes x24) with
  | (s, .error e) => (s, .error e)
  | (s, .ok src) =>
    if !x24 then (s, .ok src)
    else
      let n := p.dim 0 / 4
      let lo := r * n / 2
      match s.engineLoad o (p.metaPtr + word lo) ((r * n + n + 1) / 2 - lo) with
      | (s, .error e) => (s, .error e)
      | (s, .ok m) => (s, .ok (expandRow p src m (r * n - 2 * lo)))

/-- A row read from the scratchpad (R291, R374). -/
def State.scratchRow (s : State) (o : EngOp) (off n : Nat) : State × Except EngEnd (List Byte) :=
  let c := s.core o.who.core
  let a := o.sxbase + off
  if c.writePending true a n then (s, .error .waits)
  else match firstPoison c.poisonS a n with
  | some x => (s, .error (.fault 0x18 (word (8 * x - o.sxbase))))
  | none =>
    let cells := (List.range n).map fun i => (scratchLoc o.who.core (a + i), cellGet c.scratch (a + i))
    let (s, bs) := s.engineSees o (fun _ => (slack (s.engineKnown o)).isNone) cells
    (s, .ok bs)

/-- A row for global memory. -/
def State.globalRow (s : State) (o : EngOp) (va : Word) (bs : List Byte) : State × Except EngEnd CopyWrite :=
  match s.engineDest o va bs.length with
  | (s, .error e) => (s, .error e)
  | (s, .ok l) => (s, .ok (.global va (l.zip bs)))

/-- Index `i` of a gather or scatter, none when it is out of range (R330). -/
def State.copyIndex (s : State) (o : EngOp) (r : CopyRec) (p : ShapeRec) (i : Nat) : State × Except EngEnd (Option Nat) :=
  match s.engineLoad o (r.idxp + word (4 * i)) 4 with
  | (s, .error e) => (s, .error e)
  | (s, .ok b) => let j := leNat b; (s, .ok (if j < 2 ^ 31 && j < p.dim 1 then some j else none))

/-- Row `i` of a copy: what it writes, none where a scatter drops it (R329, R330). -/
def State.copyRow (s : State) (o : EngOp) (kind : Nat) (x24 : Bool) (r : CopyRec) (p : ShapeRec) (i : Nat) :
    State × Except EngEnd (Option CopyWrite) :=
  let off := r.xaddr.toNat + i * rowStep r p
  let toScratch (bs : List Byte) : Option CopyWrite := some (.scratch (((List.range bs.length).map fun k => o.sxbase + off + k).zip bs))
  match kind with
  | 0 =>
    match s.viewRow o x24 p i with
    | (s, .error e) => (s, .error e)
    | (s, .ok bs) => (s, .ok (toScratch bs))
  | 2 =>
    match s.copyIndex o r p i with
    | (s, .error e) => (s, .error e)
    | (s, .ok none) => (s, .ok (toScratch (packElements (elementBits p.efmt) (List.replicate (p.dim 0) p.fill.toNat))))
    | (s, .ok (some j)) =>
      match s.viewRow o false p j with
      | (s, .error e) => (s, .error e)
      | (s, .ok bs) => (s, .ok (toScratch bs))
  | 4 =>
    match s.viewRow o false p i with
    | (s, .error e) => (s, .error e)
    | (s, .ok bs) =>
      match s.globalRow o (r.xaddr + word (i * rowStep r p)) bs with
      | (s, .error e) => (s, .error e)
      | (s, .ok w) => (s, .ok (some w))
  | _ =>
    let send (s : State) (j : Nat) : State × Except EngEnd (Option CopyWrite) :=
      match s.scratchRow o off p.rowBytes with
      | (s, .error e) => (s, .error e)
      | (s, .ok bs) =>
        match s.globalRow o (p.rowAddr o.base j) bs with
        | (s, .error e) => (s, .error e)
        | (s, .ok w) => (s, .ok (some w))
    if kind == 1 then send s i
    else
      match s.copyIndex o r p i with
      | (s, .error e) => (s, .error e)
      | (s, .ok none) => (s, .ok none)
      | (s, .ok (some j)) => send s j

/-- The rows of a copy from row `i` on, up to the first that faults: what they write, and how the last ended. -/
def State.copyPlan (s : State) (o : EngOp) (kind : Nat) (x24 : Bool) (r : CopyRec) (p : ShapeRec) :
    (n i : Nat) → State × List CopyWrite × Option EngEnd
  | 0, _ => (s, [], none)
  | n + 1, i =>
    match s.copyRow o kind x24 r p i with
    | (s, .error e) => (s, [], some e)
    | (s, .ok w) =>
      match s.copyPlan o kind x24 r p n (i + 1) with
      | (s, ws, e) => (s, (w.toList.map (o.unmoved i)) ++ ws, e)

/-- The lines of physical addresses. -/
def linesOf (l : List (Nat × Byte)) : List Nat := (l.map fun p => p.1 / 128).eraseDups

/-- Bytes of an operation's row written (R219): the operation with the lines and the outbound writes. -/
def State.engineStore (s : State) (o : EngOp) (w : CopyWrite) : State × EngOp :=
  let n := s.order.count
  let (s, o) : State × EngOp := match w with
    | .scratch l => ((runsOf l).foldl (fun s r => s.writeScratch o.who.core r.1 r.2) s, o)
    | .global va l =>
      let lines := linesOf l
      let c := s.core o.who.core
      let s := s.setCore o.who.core { c with near := c.near.filter (fun n => !lines.contains n.1) }
      let (s, ids) := s.physStore (some o.who) o.who.ctx o.who.world va l
      (s, { o with wrote := (o.wrote ++ lines).eraseDups, sent := o.sent ++ ids })
  (s.signed n o.agent none [], o)

/-- Rows written in their order; after a fault each row was moved or not (R292, R333; log entry 3). -/
def State.engineStores (s : State) (o : EngOp) (faulted : Bool) : List CopyWrite → State × EngOp
  | [] => (s, o)
  | w :: r =>
    let (n, s') := s.nextFree
    let (s, o) := if faulted && Config.freeBool n then (s', o) else s.engineStore o w
    s.engineStores o faulted r

/-- An operation whose data has moved: it ends once its outbound writes are acknowledged (R292), and until then it holds no read
lock (R334). -/
def State.settleEngine (s : State) (o : EngOp) : State :=
  match (o.acks.getD o.sent).filter fun id => s.outb.any fun b => b.id == id with
  | [] => s.endEngine o
  | ids =>
    (s.setCore o.who.core ((s.core o.who.core).unlockReads o.uid)).setEngine { o with acks := some ids }

/-- An operation waits on a held PTE (R246). -/
def State.holdEngine (s : State) (o : EngOp) (va : Word) : State :=
  let since := match o.held with
    | some h => if h.va = va then h.since else s.now
    | none => s.now
  s.setEngine { o with held := some ⟨va, since, s.now, true⟩ }

/-- An operation may act: it is accepted, everything that precedes it in its group's program order is performed (R291), and
it does not wait for the next read of a held PTE. -/
def State.engineReady (s : State) (o : EngOp) : Bool :=
  o.started.isSome && !s.earlierPending o.who.g o.seq &&
    match o.held with
    | some h => !h.asleep
    | none => true

/-- The tensor of a copy by handle is still live (R332). -/
def State.copyLive (s : State) (o : EngOp) (hdl : Bool) (p : ShapeRec) : Bool :=
  !hdl || (s.liveTensor o.who.ctx o.who.world p.handle).toOption.isSome

/-- The rest of a copy's data moves (R329 to R333). A tensor that is no longer live faults (R332), and a copy that has a fault moves
nothing more (R333). -/
def State.runCopy (s : State) (o : EngOp) (kind : Nat) (x24 hdl : Bool) (r : CopyRec) (p : ShapeRec) : State :=
  if o.fault.isSome then s.settleEngine o
  else if !s.copyLive o hdl p then s.settleEngine (o.failed 0x15 p.handle)
  else
    match s.copyPlan o kind x24 r p (copyRows kind r p) 0 with
    | (s, _, some (.held va)) => s.holdEngine o va
    | (s, _, some .waits) => s
    | (s, ws, some (.fault c va)) =>
      let (s, o) := s.engineStores o true ws
      s.settleEngine (o.failed c va)
    | (s, ws, none) =>
      let (s, o) := s.engineStores o false ws
      s.settleEngine o

/-- The bytes of the `k`-th 8-byte word that a row writes. -/
def CopyWrite.granuleOf (w : CopyWrite) (k : Nat) : List (Nat × Byte) :=
  match (w.cells.map fun c => granule c.1).eraseDups[k]? with
  | some x => w.cells.filter fun c => granule c.1 == x
  | none => []

/-- A word of an accepted copy moves before the copy is done: the `k`-th word of a row is read and written, as an event of its own
(R271, R292, R329, R334). One that waits or faults does so once the copy is done. -/
def State.moveWord (s : State) (op row k : Nat) : State :=
  match s.engs.find? fun o => o.uid == op with
  | none => s
  | some o =>
    match o.kind with
    | .coll _ _ _ _ => s
    | .copy kind x24 hdl _ r p =>
      if !s.engineReady o || o.acks.isSome || o.fault.isSome || !s.copyLive o hdl p || copyRows kind r p ≤ row then s
      else
        match s.copyRow o kind x24 r p row with
        | (s', .ok (some w)) =>
          let w := o.unmoved row (w.withCells (w.granuleOf k))
          match w.cells with
          | [] => s
          | l =>
            let (s, o) := s'.engineStore o w
            s.setEngine { o with moved := l.map (fun c => (row, w.locOf o.who.core c.1, 1)) ++ o.moved }
        | _ => s

/-- COPY_DONE (R334). -/
def execCopyDone (op : Nat) (s : State) : Out :=
  match s.engs.find? fun o => o.uid == op with
  | none => .next s
  | some o =>
    match o.kind with
    | .coll _ _ _ _ => .next s
    | .copy kind x24 hdl _ r p =>
      if !s.engineReady o then .next s
      else if o.acks.isSome then .next (s.settleEngine o)
      else .next (s.runCopy o kind x24 hdl r p)

-- `cpyw` and `yieldc` (R338, R339).

/-- The tokens of a mask. -/
def maskTokens (m : Word) : List Nat := (List.range 16).filter fun t => m.getLsbD t
/-- A token of a group. -/
def Group.token (g : Group) (t : Nat) : Token := g.tokens.getD t ⟨none, [], none⟩
/-- No token of a mask is outstanding. -/
def Group.tokensDone (g : Group) (m : Word) : Bool := (maskTokens m).all fun t => (g.token t).op.isNone
/-- The mask of the tokens that are not outstanding. -/
def Group.doneMask (g : Group) (m : Word) : Word :=
  word ((maskTokens m).foldl (fun n t => if (g.token t).op.isNone then n + 2 ^ t else n) 0)

/-- The lowest token of a mask with an unreported fault record (R338). -/
def Group.tokenFault (g : Group) (m : Word) : Option (Nat × TokenFault) :=
  (maskTokens m).findSome? fun t =>
    if (g.token t).op.isNone then (g.token t).fault.map fun f => (t, f) else none

/-- Completions observed (R219, R291): the lines that the operations wrote leave the near cache, and the group's later accesses see what
the operations have seen and written. -/
def State.observeTokens (s : State) (g : Group) (m : Word) : State × Group :=
  let done := (maskTokens m).filter fun t => (g.token t).op.isNone
  let lines := done.flatMap fun t => (g.token t).wrote
  let c := s.core g.place.core
  let s := s.setCore g.place.core { c with near := c.near.filter (fun n => !lines.contains n.1) }
  let s := s.learnAt g false false (joinAll (done.flatMap fun t => (s.told (.token g.uid t)).map fun r => r.view)) []
  (s, { g with tokens := done.foldl (fun l t => l.set t { g.token t with wrote := [] }) g.tokens })

/-- A recorded fault is raised and its record cleared (R338). -/
def State.raiseToken (s : State) (g : Group) (t : Nat) (f : TokenFault) : State :=
  s.trapScalar { g with tokens := g.tokens.set t { g.token t with fault := none } } f.cause.toNat f.value

/-- `cpyw` ends: with a recorded fault, or with its result (R338). -/
def State.finishCpyw (s : State) (g : Group) (hold : Bool) (d : Nat) (m : Word) : State :=
  match g.tokenFault m with
  | some (t, f) => s.raiseToken g t f
  | none =>
    let (s, g) := s.observeTokens g m
    (s.retire (g.deferValue d (g.doneMask m)) hold (g.sc.spc + 4)).settle g.uid

/-- `cpyw` and `cpyw.poll` (R338). -/
def cpywWord (i : Instr) (poll : Bool) (d a : BitVec 6) (s : State) : Out :=
  scalarWord i false [sReg d, sReg a]
    (fun s g h =>
      let m := g.getS a
      if bits m 63 16 != 0 then s.trapScalar g 0x01 (illegalWord h i)
      else if poll || g.tokensDone m then s.finishCpyw g h (sReg d) m
      else s.park g h (.cpyw (sReg d) m)) s

/-- `cpyw` (R338). -/
def execCpyw (d a : BitVec 6) (s : State) : Out := cpywWord (.cpyw d a) false d a s
/-- `cpyw.poll` (R338). -/
def execCpywPoll (d a : BitVec 6) (s : State) : Out := cpywWord (.cpywPoll d a) true d a s

/-- CPYW_COMPLETE (R338). -/
def execCpywComplete (g : Nat) (s : State) : Out :=
  groupStep g (fun _ g => g.life == .resident && g.sc.entry.isNone)
    (fun s g =>
      match g.sc.wait with
      | .cpyw d m => if g.tokensDone m then s.finishCpyw g g.sc.hold d m else s
      | _ => s) s

/-- The waits of `yieldc` are over (R339). -/
def Group.yieldReady (g : Group) (m : Word) : Bool := g.sc.outst.isEmpty && g.tokensDone m

/-- `yieldc` ends: with a recorded fault, or at its continuation with nothing pending (R339). -/
def State.finishYield (s : State) (g : Group) (hold : Bool) (m target : Word) : State :=
  match g.tokenFault m with
  | some (t, f) => s.raiseToken g t f
  | none =>
    let (s, g) := s.observeTokens g m
    let g := { g with sc := { g.sc with pend := 0, last := none } }
    (s.retire g hold target).settle g.uid

/-- `yieldc` (R339). -/
def execYieldc (a : BitVec 6) (i : BitVec 13) (s : State) : Out :=
  scalarWord (.yieldc a i) false [sReg a]
    (fun s g h =>
      let m := g.getS a
      let target := g.sc.spc + i.signExtend 64 <<< 2
      if bits m 63 16 != 0 then s.trapScalar g 0x01 (illegalWord h (.yieldc a i))
      else if g.yieldReady m then s.finishYield g h m target
      else s.park g h (.yieldc m target)) s

/-- YIELDC_CONTINUATION (R339). -/
def execYieldcContinuation (g : Nat) (s : State) : Out :=
  groupStep g (fun _ g => g.life == .resident && g.sc.entry.isNone)
    (fun s g =>
      match g.sc.wait with
      | .yieldc m target => if g.yieldReady m then s.finishYield g g.sc.hold m target else s
      | _ => s) s

-- Collectives (R340 to R344).

/-- A collective record (R340). -/
def collRec (b : List Byte) : CollRec :=
  ⟨word (field b 0 8), word (field b 8 8), field b 0x10 4, field b 0x14 2, field b 0x16 2, word (field b 0x18 8),
    field b 0x20 2⟩

/-- A record obeys the table of R340. -/
def collValid (op : Nat) (b : List Byte) : Bool :=
  let r := collRec b
  field b 0x22 30 == 0 && r.src.toNat % 4 == 0 && r.dst.toNat % 4 == 0 && 1 ≤ r.count && r.count ≤ 2 ^ 20 && 1 ≤ r.nmem
    && r.rank < r.nmem && (if op == 4 then r.root < r.nmem else r.root == 0)

/-- `coll` of an operation: 0 sum, 1 max, 2 min, 3 gather, 4 bcast (R340, R341). -/
def collWord (i : Instr) (op : Nat) (d a : BitVec 6) (int : Bool) (scope : BitVec 3) (s : State) : Out :=
  scalarWord i false [sReg d, sReg a]
    (fun s g h =>
      match s.readRecord g (g.getS a) 64 64 with
      | .error s => s
      | .ok (s, b) =>
        if !collValid op b then s.trapScalar g 0x01 (illegalWord h i)
        else if g.idem then s.trapScalar g 0x0B 0
        else s.issueEngine { g with used := true } h d (.coll op scope.toNat (!int) (collRec b))) s

/-- `coll.sum` (R340). -/
def execCollSum (d a : BitVec 6) (t : Bool) (sc : BitVec 3) (s : State) : Out :=
  collWord (.collSum d a t sc) 0 d a t sc s
/-- `coll.max` (R340). -/
def execCollMax (d a : BitVec 6) (t : Bool) (sc : BitVec 3) (s : State) : Out :=
  collWord (.collMax d a t sc) 1 d a t sc s
/-- `coll.min` (R340). -/
def execCollMin (d a : BitVec 6) (t : Bool) (sc : BitVec 3) (s : State) : Out :=
  collWord (.collMin d a t sc) 2 d a t sc s
/-- `coll.gather` (R340). -/
def execCollGather (d a : BitVec 6) (t : Bool) (sc : BitVec 3) (s : State) : Out :=
  collWord (.collGather d a t sc) 3 d a t sc s
/-- `coll.bcast` (R340). -/
def execCollBcast (d a : BitVec 6) (t : Bool) (sc : BitVec 3) (s : State) : Out :=
  collWord (.collBcast d a t sc) 4 d a t sc s

/-- A member of a collective: its operation and the fields of its word and record. -/
structure CollMember where
  o     : EngOp
  op    : Nat
  scope : Nat
  f32   : Bool
  r     : CollRec

/-- An operation as a member of a collective, while its data has not moved. -/
def EngOp.member (o : EngOp) : Option CollMember :=
  match o.kind with
  | .coll op scope f r => if o.started.isSome && o.acks.isNone then some ⟨o, op, scope, f, r⟩ else none
  | _ => none

/-- The members that have issued with the CID and context of one (R342). -/
def State.collMembers (s : State) (m : CollMember) : List CollMember :=
  (s.engs.filterMap EngOp.member).filter fun x => x.r.cid == m.r.cid && x.o.who.ctx == m.o.who.ctx

/-- The reason for which a collective fails at once (R342). -/
def collReason (ms : List CollMember) : Option Nat :=
  match ms with
  | [] => none
  | m :: r =>
    if r.any fun x => x.op != m.op || x.f32 != m.f32 || x.scope != m.scope || x.r.count != m.r.count || x.r.nmem != m.r.nmem then
      some 1
    else if !decide (ms.map fun x => x.r.rank).Nodup then some 3
    else if r.any fun x => m.scope < 4 && decide (m.scope < scopeBetween x.o.who.core m.o.who.core) then some 4
    else none

/-- Every arrived member's token completes with GANGMIS (R342). -/
def State.failColl (s : State) (ms : List CollMember) (reason : Nat) : State :=
  ms.foldl (fun s m => (s.endEngine (m.o.failed 0x07 (word reason))).closeColl m.o.who.ctx m.r.cid) s

/-- Members in rank order. -/
def byRank (ms : List CollMember) : List CollMember :=
  match ms with
  | [] => []
  | m :: r =>
    let t := byRank r
    t.takeWhile (fun x => x.r.rank < m.r.rank) ++ m :: t.dropWhile (fun x => x.r.rank < m.r.rank)

/-- The elements of bytes. -/
def elements32 (b : List Byte) : List Nat := (List.range (b.length / 4)).map fun i => field b (4 * i) 4

/-- One step of a fold (R343). -/
def collStep (op : Nat) (f : Bool) (x y : Nat) : Nat :=
  match op with
  | 0 => combValue (if f then 9 else 0) 4 x y
  | 1 => if f then (f32.minMax true x y).1 else combValue 5 4 x y
  | _ => if f then (f32.minMax false x y).1 else combValue 4 4 x y

/-- A NaN is canonical (R36). -/
def canonicalF32 (f : Bool) (x : Nat) : Nat := if f && (f32.value x).isNan then f32.nan else x

/-- The elementwise fold of contributions in rank order (R343). -/
def collFold (op : Nat) (f : Bool) (cs : List (List Nat)) : List Nat :=
  match cs with
  | [] => []
  | c :: r => (r.foldl (fun acc c => List.zipWith (collStep op f) acc c) c).map (canonicalF32 f)

/-- `n` free elements: what other modules contribute (log entry 3). -/
def freeElements (base n : Nat) : List Nat := (List.range n).map fun i => (Config.freeWord (base + i)).toNat % 2 ^ 32

/-- The contributions read, or the first member whose read waits or faults; ROOT's alone for `.bcast` (R343). -/
def State.collRead (s : State) : List CollMember → State × Except (CollMember × EngEnd) (List (Nat × List Nat))
  | [] => (s, .ok [])
  | m :: r =>
    if m.op == 4 && m.r.rank != m.r.root then s.collRead r
    else
      match s.engineLoad m.o m.r.src (4 * m.r.count) with
      | (s, .error e) => (s, .error (m, e))
      | (s, .ok b) =>
        match s.collRead r with
        | (s, .error e) => (s, .error e)
        | (s, .ok cs) => (s, .ok ((m.r.rank, elements32 b) :: cs))

/-- The result of a collective whose members on this module contributed `cs`; at scope sys what other modules contribute
comes from outside, in their places of the fold (R343): the fold of the modules below this one, free as a whole, and the partial of each
module above it, their number a free value too. -/
def collResult (m : CollMember) (away : Bool) (free : Nat) (cs : List (Nat × List Nat)) : List Nat :=
  let n := m.r.count
  let here (r : Nat) : List Nat :=
    match cs.find? fun c => c.1 == r with
    | some c => c.2
    | none => freeElements (free + 2 * n + r * n) n
  match m.op with
  | 3 => (List.range m.r.nmem).flatMap here
  | 4 => here m.r.root
  | op =>
    let mine := collFold op m.f32 (cs.map fun c => c.2)
    let above := (Config.freeWord (free + 1)).toNat % (m.r.nmem - cs.length + 1)
    let parts := if away then
        (if Config.freeBool free then [freeElements free n] else []) ++ [mine]
          ++ (List.range above).map fun i => freeElements (free + 2 * n + i * n) n
      else [mine]
    collFold op m.f32 parts

/-- A member's result is written (R343), or its write waits or faults. -/
def State.collWrite (s : State) (m : CollMember) (res : List Nat) : State × Except EngEnd CopyWrite :=
  let bs := res.flatMap fun x => leBytes 4 x
  match s.engineDest m.o m.r.dst bs.length with
  | (s, .error e) => (s, .error e)
  | (s, .ok l) => (s, .ok (.global m.r.dst (l.zip bs)))

/-- The writes of every member, or the first that waits. -/
def State.collWrites (s : State) (res : List Nat) : List CollMember →
    State × Except (CollMember × EngEnd) (List (CollMember × Except (Nat × Word) CopyWrite))
  | [] => (s, .ok [])
  | m :: r =>
    let go (s : State) (x : Except (Nat × Word) CopyWrite) :
        State × Except (CollMember × EngEnd) (List (CollMember × Except (Nat × Word) CopyWrite)) :=
      match s.collWrites res r with
      | (s, .error e) => (s, .error e)
      | (s, .ok t) => (s, .ok ((m, x) :: t))
    match s.collWrite m res with
    | (s, .ok w) => go s (.ok w)
    | (s, .error (.fault c va)) => go s (.error (c, va))
    | (s, .error e) => (s, .error (m, e))

/-- A member of a collective waits: on a held PTE (R246), or for what a later step ends. -/
def State.holdColl (s : State) (o : EngOp) : EngEnd → State
  | .held va => s.holdEngine o va
  | _ => s

/-- The generation that an open collective at scope sys has fixed (R443). -/
def State.collGen (s : State) (ctx : Nat) (cid : Word) : Nat :=
  match s.fabric.opened.find? fun x => x.1 == ctx && x.2.1 == cid with
  | some x => x.2.2
  | none => s.fabric.keyGen

/-- A collective whose members have all issued (R342, R343): the contributions are read, and every member's result is
written. A member whose own access faults completes with that fault; where it is a read, the others go on waiting. -/
def State.runColl (s : State) (m : CollMember) (ms : List CollMember) (away : Bool) : State :=
  let ms := byRank ms
  match s.collRead ms with
  | (s, .error (x, .fault c va)) => s.endEngine (x.o.failed c va)
  | (s, .error (x, e)) => s.holdColl x.o e
  | (s, .ok cs) =>
    let n := s.sched.free
    let s := { s with sched := { s.sched with free := n + 2 * m.r.count + m.r.nmem * m.r.count + 2 } }
    match s.collWrites (collResult m away n cs) ms with
    | (s, .error (x, e)) => s.holdColl x.o e
    | (s, .ok ws) =>
      let s := if away then s.contribute m.r.cid (s.collGen m.o.who.ctx m.r.cid) else s
      let s := s.closeColl m.o.who.ctx m.r.cid
      ws.foldl (fun s w =>
        match w.2 with
        | .error (c, va) => s.endEngine (w.1.o.failed c va)
        | .ok w' =>
          let (s, o) := s.engineStore w.1.o w'
          s.settleEngine o) s

/-- COLLECTIVE_COMPLETE (R342): the collective of an operation completes or fails. At scope sys some members may be on
other modules: whether they have issued, and whether one of them differs from those here or gives a rank of theirs, is a free choice
(log entry 3). -/
def execCollectiveComplete (op : Nat) (s : State) : Out :=
  match s.engs.find? fun o => o.uid == op with
  | none => .next s
  | some o =>
    if o.acks.isSome then
      match o.kind with
      | .coll _ _ _ _ => .next (s.settleEngine o)
      | _ => .next s
    else
      match o.member with
      | none => .next s
      | some m =>
        let ms := s.collMembers m
        match collReason ms with
        | some r => .next (s.failColl ms r)
        | none =>
          let away := m.scope == 5 && decide (ms.length < m.r.nmem)
          let (n, s') := s.nextFree
          let pick := if away then (Config.freeWord n).toNat % 4 else 0
          if pick == 2 then .next (s'.failColl ms 1)
          else if pick == 3 then .next (s'.failColl ms 3)
          else if !(ms.all fun x => s.engineReady x.o) then .next s
          else if ms.length == m.r.nmem then .next (s.runColl m ms false)
          else if pick == 1 then .next (s'.runColl m ms true)
          else .next s'

/-- COLLECTIVE_TIMEOUT (R342): 2^24 clocks after the first member was accepted, some member has not issued. -/
def execCollectiveTimeout (op : Nat) (s : State) : Out :=
  match (s.engs.find? fun o => o.uid == op).bind EngOp.member with
  | none => .next s
  | some m =>
    let ms := s.collMembers m
    let first := ms.foldl (fun n x => min n (x.o.started.getD n)) s.now
    if first + 2 ^ 24 ≤ s.now && ms.length < m.r.nmem then .next (s.failColl ms 2) else .next s

end Sys2Proof.Machine
end

