-- ==== Sys2Proof/Machine/Sched.lean ====
section
/-! DEFINITION. Who issues (R149, R150, R159), fetching a word (R14, R23, R65, R72) and what a clock does (R9, R105,
R377). -/

namespace Sys2Proof.Machine

open Sys2Proof

-- Issue selection.

/-- Grids of a context that are not complete (R160). -/
def State.openGrids (s : State) (ctx : Nat) : Nat := (s.grids.filter fun t => t.ctx == ctx && t.status.isNone).length

/-- An async cause is due: it is taken at the first clock in user mode (R350), before the group issues again. A BKPT that an
automaton raises waits behind a stop that is on its way (R394). -/
def Group.asyncDue (g : Group) : Bool :=
  !g.sc.sup && match g.sc.async with
    | [] => false
    | r :: _ => g.coming.isNone || r.cause != 0x0A

/-- Least recently issued first, a group that has not issued before any other, and then the lower slot (R159). -/
def issuesBefore (a b : Option Nat × Nat) : Bool :=
  match a.1, b.1 with
  | none, none => a.2 < b.2
  | none, some _ => true
  | some _, none => false
  | some x, some y => x < y || (x == y && a.2 < b.2)

/-- R159: the group that a partition's selection takes. -/
def State.choose (s : State) (core part : Nat) (ready : Group → Bool) (last : Group → Option Nat) : Option Group :=
  let rs := s.groups.filter fun g => g.place.core == core && g.place.slot / 4 == part && ready g
  let top := rs.foldl (fun m g => Nat.max m g.role.prio) 0
  let rs := if s.now % 64 == 63 then rs else rs.filter fun g => g.role.prio == top
  rs.foldl (fun b g =>
    match b with
    | none => some g
    | some h => if issuesBefore (last g, g.place.slot) (last h, h.place.slot) then some g else some h) none

/-- Each partition makes one scalar and one lane choice a clock (R159): `k` is 2 × partition, plus 1 for lanes. -/
def State.mayIssue (s : State) (core k : Nat) : Bool := look 0 (s.core core).issued k != s.now + 1
/-- The choice of this clock is made. -/
def State.noteIssue (s : State) (core k : Nat) : State :=
  let c := s.core core
  s.setCore core { c with issued := put c.issued k (s.now + 1) }

/-- What an issue opportunity comes to: no word, or a word to execute. -/
inductive Issue where
  | idle (s : State)
  | word (i : Instr) (s : State)

-- Scalar fetch.

/-- R358: the fetch of a vector entry fails. The trap that was entered is fatal, and the group stops where the raising
instruction left it. -/
def State.vectorFault (s : State) (g : Group) (told : Bool) : State :=
  let lane := g.sr.tcause.getLsbD 9
  let s := s.tellFault g ⟨g.sr.tcause.setWidth 8, lane, g.sr.tval, 0, 0, told⟩
  let g := { g with sc := { g.sc with spc := g.sr.tpc, sup := g.sr.tcause.getLsbD 8, vector := none } }
  s.fatalFor g (g.sr.tcause.setWidth 8) (if lane then 1 else 0) (if lane then g.sr.tlpc else g.sr.tpc) g.sr.tval

/-- What the fetch of a scalar word comes to: a walk of its address, a cause, a refusal at a port (R415), a wait for the wake of
its home's die (R412), or the word. -/
inductive ScalarFetch where
  | miss
  | asleep
  | fault (cause : BitVec 8)
  | refused
  | word (w : W32)

/-- The values that the words of a granule have held since a grid's launch was accepted, but for the one that stands there now: the writes
that a fetch may not have seen, newest first. A line that is stored under another key has none. -/
def State.fetchable (s : State) (g : Group) (pa : Nat) : List PastWrite :=
  if s.keyOf (pa / 128) = s.keyFor (s.worldOf g) (pa / 128) then
    s.order.unseen (granule pa) (look 0 s.order.launched g.place.grid)
  else []

/-- The 32 bits that a group fetches at a physical address: the value that stood there at its grid's launch or one stored there since,
chosen for each word and each fetch (R15). -/
def State.fetchWord (s : State) (g : Group) (pa : Nat) : Nat :=
  let ws := s.fetchable g pa
  let ws := if ws.isEmpty then [] else ws.take (Config.freeFetch s.sched.turns pa % (ws.length + 1))
  leNat (unseenBytes ws pa (s.physRead (s.worldOf g) pa 4))

/-- The word at SPC (R14, R25 step 1), or the fetch's cause. -/
def State.fetchScalar (s : State) (g : Group) : ScalarFetch :=
  match s.xlate g.place.core g.place.ctx g.sc.walked g.sc.spc with
  | none => .miss
  | some (.fault _) => .fault 0x10
  | some (.leaf l) =>
    match l.check .fetch (s.worldOf g) with
    | some c => .fault c
    | none =>
      if s.asleepAt (l.phys g.sc.spc) then .asleep
      else if s.portRefuses g.die (s.worldOf g) (l.phys g.sc.spc) then .refused
      else .word (half (s.fetchWord g (l.phys g.sc.spc)))

/-- The fetch of a word ends with XLATE or PERM. -/
def ScalarFetch.failsVector (r : ScalarFetch) : Bool :=
  match r with
  | .fault c => c == 0x10 || c == 0x11
  | _ => false

/-- The TRAP event of an entry whose vector's fetch was open, once the fetch has not failed (R358, R380). -/
def State.vectorTold (s : State) (g : Group) (r : ScalarFetch) : State :=
  if g.sc.vector.any fun v => v.due && !r.failsVector then
    s.emitTrap g (bits g.sr.tcause 7 0) (g.sr.tcause.getLsbD 9) g.sr.tpc
  else s

/-- Whether a group's scalar or lane stream is stalled in a state. -/
def State.isStalled (s : State) (uid : Nat) (lane : Bool) : Bool :=
  match s.group? uid with
  | none => false
  | some g =>
    if lane then (match g.ln.wait with | .stall _ => true | _ => false)
    else (match g.sc.wait with | .stall _ => true | _ => false)

/-- Whether the word at a stalled scalar stream's SPC would stall again now: `run` executes a word (R89, R159, R160). -/
def State.scalarStays (s : State) (run : Instr → State → Out) (g : Group) : Bool :=
  match s.fetchScalar g with
  | .asleep => true
  | .word w =>
    match decodeScalar w with
    | .error _ => false
    | .ok i =>
      match run i { s with sched := { s.sched with cur := some ⟨g.uid, fH w, 0, 0, false⟩ } } with
      | .next t => t.isStalled g.uid false
      | _ => false
  | _ => false

/-- The home of the word at a scalar stream's SPC is on a die that sleeps. -/
def State.fetchAsleep (s : State) (g : Group) : Bool :=
  match s.fetchScalar g with
  | .asleep => true
  | _ => false

/-- A scalar stream is ready when it is not parked or stalled (R159), its fetch does not wait (R412) and no stop or eviction has
stopped its issue (R359, R367). -/
def State.scalarReady (s : State) (run : Instr → State → Out) (g : Group) : Bool :=
  g.life == .resident && g.evicting != some false && g.stop.isNone && g.sc.entry.isNone && !g.asyncDue &&
    match g.sc.wait with
    | .ready => !s.fetchAsleep g
    | .stall _ => !s.scalarStays run g
    | _ => false

/-- A scalar issue opportunity of a partition (R159): the chosen group's word, fetched and decoded. `run` executes a word, by
which a stalled stream is known to be ready. -/
def State.issueScalar (s : State) (run : Instr → State → Out) (core part : Nat) : Issue :=
  match s.choose core part (s.scalarReady run) (fun g => g.sc.last) with
  | none => .idle s
  | some g =>
    if !s.mayIssue core (2 * part) then .idle s
    else
      match s.fetchScalar g with
      | .miss => .idle (s.setGroup { g with sc := { g.sc with wait := .walk ⟨g.sc.spc, .walking, false⟩ } })
      | r =>
        let s := s.noteIssue core (2 * part)
        let g := { g with
          sc := { g.sc with wait := .ready, last := some s.now }
          evicting := if g.coming.isNone then g.evicting.map fun _ => false else g.evicting }
        let s := (s.setGroup g).vectorTold g r
        match r with
        | .miss | .asleep => .idle s
        | .refused => .idle (s.killFor g false g.sc.spc g.sc.spc 0x12)
        | .fault c =>
          match g.sc.vector with
          | some v => .idle (if r.failsVector then s.vectorFault g v.told else s.trapScalar g c.toNat g.sc.spc)
          | none => .idle (s.trapScalar g c.toNat g.sc.spc)
        | .word w =>
          match decodeScalar w with
          | .error _ => .idle (s.trapScalar g 0x01 (w.setWidth 64))
          | .ok i =>
            let s := s.setGroup (g.noteWord false (s.meridian g.die).toNat s.now)
            .word i { s with sched := { s.sched with cur := some ⟨g.uid, fH w, 0, 0, false⟩ } }

-- Gangs.

/-- Fragments of one slice that stand ready at one LPC in one mode become one (R149). It has waited as long as the one of them that
waited longer (DESIGN CHOICE, log entry 48). -/
def mergeFrags : List Frag → List Frag
  | [] => []
  | f :: r =>
    let r := mergeFrags r
    if !f.ready then f :: r
    else
      match r.find? (fun h => h.ready && h.slice == f.slice && h.lpc == f.lpc && h.sup == f.sup) with
      | none => f :: r
      | some h =>
        { f with lanes := f.lanes ||| h.lanes, waited := Nat.max f.waited h.waited, faults := f.faults ++ h.faults }
          :: r.filter (fun x => x != h)

/-- The mode and LPC that the group issues at (R150). -/
def chooseLpc (fs : List Frag) : Option (Bool × BitVec 32) :=
  let rs := fs.filter Frag.ready
  let least (l : List Frag) : Option (Bool × BitVec 32) :=
    (l.foldl (fun b f =>
      match b with
      | none => some f
      | some h => if f.lpc.toNat < h.lpc.toNat then some f else some h) none).map fun f => (f.sup, f.lpc)
  let starved := rs.foldl (fun b f =>
    if f.waited < 1023 then b
    else match b with
      | none => some f
      | some h => if h.waited < f.waited || (h.waited == f.waited && f.slice < h.slice) then some f else some h) none
  match starved with
  | some f => some (f.sup, f.lpc)
  | none => if rs.any (fun f => f.sup) then least (rs.filter fun f => f.sup) else least rs

/-- The address of a lane word (R65, R354). -/
def Group.laneAddr (g : Group) (sup : Bool) (lpc : BitVec 32) : Word :=
  (if sup then g.sr.lsv else g.place.lcb) + word (12 * lpc.toNat)

/-- What the fetch of a lane word comes to: a walk of an address, a cause at an address, a refusal at a port (R415), a wait for
the wake of a home's die (R412), or the word. -/
inductive LaneFetch where
  | miss (va : Word)
  | asleep
  | fault (cause : BitVec 8) (va : Word)
  | refused (va : Word)
  | word (w : BitVec 96)

/-- The parcel at an address. -/
def State.parcel (s : State) (g : Group) (va : Word) : LaneFetch :=
  match s.xlate g.place.core g.place.ctx g.ln.walked va with
  | none => .miss va
  | some (.fault _) => .fault 0x10 va
  | some (.leaf l) =>
    match l.check .fetch (s.worldOf g) with
    | some c => .fault c va
    | none =>
      if s.asleepAt (l.phys va) then .asleep
      else if s.portRefuses g.die (s.worldOf g) (l.phys va) then .refused va
      else .word (BitVec.ofNat 96 (s.fetchWord g (l.phys va)))

/-- The three parcels of the word at an address, the first failing one first (R72 step 1). -/
def State.fetchLane (s : State) (g : Group) (va : Word) : LaneFetch :=
  match s.parcel g va with
  | .word a =>
    match s.parcel g (va + 4) with
    | .word b =>
      match s.parcel g (va + 8) with
      | .word c => .word (a ||| b <<< 32 ||| c <<< 64)
      | r => r
    | r => r
  | r => r

/-- The lanes of the fragments at an LPC in a mode. -/
def gangOf (frags : List Frag) (sup : Bool) (lpc : BitVec 32) : BitVec 32 :=
  (frags.filter fun f => f.inGang sup lpc).foldl (fun m f => m ||| f.lanes) 0

/-- Whether the word of a stalled lane stream's next gang would stall again now. -/
def State.laneStays (s : State) (run : Instr → State → Out) (g : Group) : Bool :=
  let frags := mergeFrags g.ln.frags
  match chooseLpc frags with
  | none => false
  | some (sup, lpc) =>
    match s.fetchLane g (g.laneAddr sup lpc) with
    | .asleep => true
    | .word w =>
      match decodeLane w with
      | .error _ => false
      | .ok i =>
        match run i { s with sched := { s.sched with cur := some ⟨g.uid, laneHold w, gangOf frags sup lpc, lpc, sup⟩ } } with
        | .next t => t.isStalled g.uid true
        | _ => false
    | _ => false

/-- The home of the word of a lane stream's next gang is on a die that sleeps. -/
def State.laneAsleep (s : State) (g : Group) : Bool :=
  match chooseLpc (mergeFrags g.ln.frags) with
  | none => false
  | some (sup, lpc) =>
    match s.fetchLane g (g.laneAddr sup lpc) with
    | .asleep => true
    | _ => false

/-- A lane stream is ready when its current block has a ready fragment, it is not frozen or waiting (R159, R412) and no stop or
eviction has stopped its issue (R359, R367). -/
def State.laneReady (s : State) (run : Instr → State → Out) (g : Group) : Bool :=
  g.life == .resident && g.evicting != some false && g.stop.isNone && !g.asyncDue && !g.ln.frozen && g.ln.cur.isSome
    && g.ln.frags.any Frag.ready &&
    match g.ln.wait with
    | .ready => !s.laneAsleep g
    | .stall _ => !s.laneStays run g
    | _ => false

/-- A group is the partition's scalar choice of this clock, and its word is still to issue: of one clock's two words the scalar
one comes first, so that its cause is the one taken, and the lane word has no effect (R352). -/
def State.scalarFirst (s : State) (run : Instr → State → Out) (core part : Nat) (g : Group) : Bool :=
  s.mayIssue core (2 * part)
    && (s.choose core part (s.scalarReady run) (fun g => g.sc.last)).any fun h => h.uid == g.uid

/-- A lane-issue opportunity of a partition (R150, R159): the chosen gang's word, fetched and decoded. -/
def State.issueLane (s : State) (run : Instr → State → Out) (core part : Nat) : Issue :=
  match s.choose core part (s.laneReady run) (fun g => g.ln.last) with
  | none => .idle s
  | some g =>
    if !s.mayIssue core (2 * part + 1) || s.scalarFirst run core part g then .idle s
    else
      let frags := mergeFrags g.ln.frags
      match chooseLpc frags with
      | none => .idle s
      | some (sup, lpc) =>
        match s.fetchLane g (g.laneAddr sup lpc) with
        | .miss va => .idle (s.setGroup { g with ln := { g.ln with wait := .walk ⟨va, .walking, false⟩ } })
        | r =>
          let s := s.noteIssue core (2 * part + 1)
          let lanes := gangOf frags sup lpc
          let age (f : Frag) : Frag :=
            if f.inGang sup lpc then { f with waited := 0, prior := f.waited + 1 }
            else if f.ready then { f with waited := f.waited + 1 } else f
          let g := { g with ln := { g.ln with frags := frags.map age, wait := .ready, last := some s.now } }
          let s := s.setGroup g
          match r with
          | .fault c va => .idle (s.trapLane g c.toNat va lanes lpc)
          | .refused va => .idle (s.killFor g true (lpc.setWidth 64) va 0x12)
          | .miss _ | .asleep => .idle s
          | .word w =>
            match decodeLane w with
            | .error _ => .idle (s.trapLane { g with cnt := { g.cnt with lcnt := g.cnt.lcnt + 1 } } 0x01 ((w >>> 32).setWidth 64) lanes lpc)
            | .ok i =>
              let s := s.setGroup (g.noteWord true (s.meridian g.die).toNat s.now)
              .word i { s with sched := { s.sched with cur := some ⟨g.uid, laneHold w, lanes, lpc, sup⟩ } }

-- Steps that are not words.

/-- Whether the module issues: a fatal module error stops all issue until module reset (R376). -/
def State.issues (s : State) : Bool := !s.clk.fenced

/-- A row of the table with no word of its own. -/
def isStep (i : Instr) : Bool := !encode.encodable i

/-- The steps that a fenced module still takes: module reset and Tramir's management path (R376, R460). -/
def whileFenced : Instr → Bool
  | .moduleReset | .dumpRead _ | .spdmRequest _ => true
  | _ => false

-- The control-core hart.

/-- The word at the hart's pc, which names a physical address (log entry 9). -/
def State.fetchHart (s : State) : W32 := half (leNat (s.physRead 0 s.hart.pc.toNat 4))

-- Clocks.

/-- PARKC counts a clock parked by a hold, `lwait`, `sleep` or a fence (R105). -/
def ScalarWait.parks : ScalarWait → Bool
  | .hold | .lwait _ | .sleep _ | .fence _ _ _ => true
  | _ => false

/-- STALLC counts a clock that a walk, a full lane-block queue or a full store queue keeps the stream from issuing
(R105). -/
def Group.stalls (g : Group) : Bool :=
  match g.sc.wait with
  | .walk _ => true
  | .lrun _ => g.ln.queue.length + (if g.ln.cur.isSome then 1 else 0) == 8
  | .stall .storeQueue => 64 ≤ g.sqUsed
  | _ => false

/-- A sleep that has lasted 4,096 clocks at the end of clock `now` ends (R116). -/
def Group.sleepClock (g : Group) (now : Nat) : Group :=
  match g.sc.wait with
  | .sleep since => if since + 4096 ≤ now then g.wake else g
  | _ => g

/-- A group over one clock: its counters (R105), and the longest sleep (R116). -/
def Group.clock (g : Group) (now : Nat) : Group :=
  if g.life != .resident then g
  else
    let g :=
      if g.sc.wait.parks then { g with cnt := { g.cnt with parkc := g.cnt.parkc + 1 } }
      else if g.stalls then { g with cnt := { g.cnt with stallc := g.cnt.stallc + 1 } }
      else g
    g.sleepClock now

/-- A die's Meridian counter at a tick: a correction holds it or advances it by 2 (R377). -/
def Die.tick (d : Die) (tick : Nat) : Die :=
  if d.corr == 1 then { d with offset := d.offset - 1, corr := 0, lastCorr := tick }
  else if d.corr == 2 then { d with offset := d.offset + 1, corr := 0, lastCorr := tick }
  else d

/-- A die's offset after the correction that it has begun (R377). -/
def Die.nextOffset (d : Die) : Word :=
  if d.corr == 1 then d.offset - 1 else if d.corr == 2 then d.offset + 1 else d.offset

/-- Two counters differ by at most 2 ticks (R377). -/
def within2 (a b : Word) : Bool := decide ((a - b).toNat ≤ 2) || decide ((b - a).toNat ≤ 2)

/-- How far an offset lies from 0. -/
def distance (x : Word) : Nat := min x.toNat (-x).toNat

/-- Any two counters of the package differ by at most 2 ticks (R377). -/
def State.disciplined (s : State) : Bool :=
  s.dies.all fun (d : Nat × Die) => within2 d.2.offset 0 && s.dies.all fun (e : Nat × Die) => within2 d.2.offset e.2.offset

/-- Ticks in a millisecond. -/
def millisecond : Nat := 1125000

/-- The counters are back within their bound 1 ms after the reference returned (R456): the clock does not pass it. -/
def State.disciplineDue (s : State) : Bool :=
  (s.clk.back.any fun t => decide (t + millisecond ≤ s.clk.tick)) && !s.disciplined

/-- Once they are, the return is over. -/
def State.settleBack (s : State) : State :=
  if s.disciplined then { s with clk := { s.clk with back := none } } else s

/-- A stamp extended against a counter (R378). -/
def extendStamp (now : Nat) (stamp : BitVec 32) : Nat :=
  let d := (stamp.toNat + 2 ^ 32 - now % 2 ^ 32) % 2 ^ 32
  if d < 2 ^ 31 then now + d else now + d - 2 ^ 32

/-- The dies that a trigger unit listens to. -/
def listened (unit : Nat) : List Nat := if unit == 16 then List.range 17 else [unit]

/-- The ticks after its stamp within which a unit steps an event (R384). -/
def settleWindow (unit : Nat) : Nat := if unit == 16 then 40 else 12

/-- An event of some unit has reached the end of its settle window, and the sources can all promise no earlier one: the clock does
not pass it (R384). In holdover, where counters may stand apart, the window is not kept. -/
def State.stepDue (s : State) : Bool :=
  s.clk.lost.isNone && !s.clk.fenced && s.units.any fun u =>
    let now := (s.meridian u.1).toNat
    let due (t : Nat) : Bool := decide (t + settleWindow u.1 ≤ now) && (listened u.1).all fun d =>
      (d != 16 && !(s.die d).awake) || decide (t < (s.meridian d).toNat)
    (u.2.queue.any fun e => due (extendStamp now e.stamp)) || u.2.autos.any fun a =>
      a.any fun a => a.tm.any fun t => t.any due

/-- A slot of the current tick, or an earlier one, is still to be sent on a stack's Plumb channel: one slot runs in each
tick (R402), and the clock does not pass it. A module that is fenced sends none. -/
def State.slotDue (s : State) : Bool :=
  !s.clk.fenced && [0, 1].any fun k => decide ((s.stack k).slot ≤ s.clk.tick)

/-- A stop has reached the end of the time within which it reaches its group: the clock does not pass it (R359, R394). -/
def State.stopDue (s : State) : Bool :=
  s.groups.any fun g => g.coming.any fun c =>
    match c.wait.since with
    | .clock n => decide (n + c.within ≤ s.now)
    | .stamp t => decide (t + c.within ≤ (s.meridian g.die).toNat)

/-- One arithmetic clock (R9, R377): two clocks are one tick, and one in reduced service (R458). -/
def State.clockTick (s : State) : State :=
  let c := s.clk
  let ticks := c.half || c.phase == 2
  if (s.issues && s.stopDue) || (ticks && (s.slotDue || s.disciplineDue || s.stepDue)) then s else
  let tick := if ticks then c.tick + 1 else c.tick
  let s := { s with
    clk := { c with clock := c.clock + 1, half := !ticks, tick := tick }
    groups := s.groups.map fun g => g.clock (c.clock + 1) }
  let dies : List (Nat × Die) := s.dies.map fun d => (d.1, d.2.tick tick)
  if ticks then ({ s with dies := dies }).settleBack else s

/-- The replacement of an entry of a die's last-level TLB (R233). -/
def State.replaceDieTlb (s : State) (die : Nat) (big : Bool) (k : Nat) : State :=
  let d := s.die die
  s.setDie die (if big then { d with tlbBig := d.tlbBig.eraseIdx k } else { d with tlb := d.tlb.eraseIdx k })

/-- The replacement of an entry of a core's TLB (R233). -/
def State.replaceTlb (s : State) (core k : Nat) : State :=
  let c := s.core core
  s.setCore core { c with tlb := c.tlb.eraseIdx k }

end Sys2Proof.Machine
end

