-- ==== Sys2Proof/Machine/Grid.lean ====
section
/-! DEFINITION. Grids: launch records and their checks (R157 to R162), admission and placement (R144, R145, R166 to R170),
completion (R163, R165) and the words of the grid and role families (R155, R156, R160, R163, R164). -/

namespace Sys2Proof.Machine

open Sys2Proof

-- Launch records (R157, R158).

/-- The role of a role word (R158). -/
def roleOfWord (w : Word) : RoleRec := ⟨bits w 31 0, bits w 36 32, 8 * bits w 45 40, bits w 47 46, w.getLsbD 48⟩

/-- The role words of a launch record. -/
def roleWords (b : List Byte) : List Word := (List.range 4).map fun i => word (field b (0x18 + 8 * i) 8)

/-- The fields of a launch record (R157). -/
def launchRec (b : List Byte) : LaunchRec where
  entry := word (field b 0 8)
  lcb := word (field b 8 8)
  gx := field b 0x10 2
  gy := field b 0x12 2
  gz := field b 0x14 2
  roles := (roleWords b).map roleOfWord
  sxbytes := field b 0x38 4
  accbytes := field b 0x3C 4
  partw := BitVec.ofNat 8 (field b 0x40 1)
  eclass := field b 0x41 1 % 8
  prio := field b 0x42 1 % 4
  flags := BitVec.ofNat 4 (field b 0x43 1)
  plumb := field b 0x44 1
  ndep := field b 0x46 1
  argp := word (field b 0x48 8)
  deps := (List.range (min (field b 0x46 1) 4)).map fun i => word (field b (0x58 + 8 * i) 8)

/-- NCHAN and CHANP of a launch record. -/
def recNchan (b : List Byte) : Nat := field b 0x45 1
def recChanp (b : List Byte) : Word := word (field b 0x50 8)

/-- Groups of a team. -/
def LaunchRec.groups (r : LaunchRec) : Nat := (r.roles.map fun x => x.count).foldl (· + ·) 0
/-- Teams of a grid. -/
def LaunchRec.teams (r : LaunchRec) : Nat := r.gx * r.gy * r.gz
/-- A role of a record, absent when it has no groups. -/
def LaunchRec.role (r : LaunchRec) (n : Nat) : RoleRec := r.roles.getD n ⟨0, 0, 0, 0, false⟩

/-- The channel declarations, 16 bytes each (R158). -/
def chanBytes (c : List Byte) : List (List Byte) := (List.range (c.length / 16)).map fun i => (c.drop (16 * i)).take 16

/-- A channel of its declaration (R158). -/
def channelOfBytes (c : List Byte) : Channel :=
  let p := field c 0 2
  let q := field c 2 2
  ⟨p / 2 ^ 14, p % 16, q / 2 ^ 14, q % 16, field c 4 1, field c 5 1 == 1, field c 8 4, 0, 0, false, false, []⟩

-- Sizes (R154, R208 to R210) and weights (R168).

/-- Units of a group of an energy class (R168). -/
def energyUnits (c : Nat) : Nat := [1, 2, 4, 6, 8, 12, 16, 24].getD c 24
/-- Scratchpad capacity of a partition word (R210). -/
def scratchBytes (p : BitVec 8) : Nat := 37 * 8 * [0, 1024, 2048, 4096].getD (bits p 1 0) 0
/-- Accumulator size of a partition word (R209). -/
def accBytes (p : BitVec 8) : Nat := 32768 * bits p 6 2
/-- Register region of a partition word (R210). -/
def registerBytes (p : BitVec 8) : Nat := 37 * 8192 * 8 - scratchBytes p - accBytes p

/-- A team's register need without mirroring (R154). -/
def LaunchRec.need (r : LaunchRec) : Nat := (r.roles.map fun x => x.count * x.vregs * 128).foldl (· + ·) 0

/-- Whether mirroring applies to a grid's teams under a partition word (R373). -/
def LaunchRec.mirrored (r : LaunchRec) (p : BitVec 8) : Bool := r.flags.getLsbD 2 && p.getLsbD 7

-- Validate (R162).

/-- Reason 1: a reserved byte or field is not zero. A dependence entry from NDEP on that is not zero gives this reason too: R157 says that
it must be 0, and R162 names no reason (DESIGN CHOICE, log entry 48). -/
def reservedSet (b c : List Byte) : Bool :=
  field b 0x16 2 != 0 || field b 0x47 1 != 0 || field b 0x78 8 != 0 || 8 ≤ field b 0x41 1 || 4 ≤ field b 0x42 1
    || 16 ≤ field b 0x43 1 || ((roleWords b).any fun w => bits w 63 49 != 0 || bits w 39 37 != 0)
    || ((List.range 4).any fun i => decide (field b 0x46 1 ≤ i) && field b (0x58 + 8 * i) 8 != 0)
    || ((chanBytes c).any fun x =>
      field x 6 2 != 0 || field x 12 4 != 0 || bits (word (field x 0 2)) 13 4 != 0 || bits (word (field x 2 2)) 13 4 != 0)

/-- Role words break R158: role 0 is absent, an absent role has a bit set, or a role follows an absent one. -/
def rolesBreak : List Word → Bool
  | [] => false
  | w :: r =>
    if bits w 36 32 == 0 then w != 0 || r.any (fun x => x != 0) else rolesBreak r

/-- Reason 9: a channel declaration that names what is not there, or whose buffer does not fit (R158, R226). -/
def chanBreaks (r : LaunchRec) (before : List Channel) (c : List Byte) : Bool :=
  let x := channelOfBytes c
  let lo (y : Channel) : Nat := y.buffer / 8 * 8
  let n (y : Channel) : Nat := y.slots * if y.wide then 512 else 128
  (r.role x.prodRole).count ≤ x.prodGrp || (r.role x.consRole).count ≤ x.consGrp || x.slots == 0 || 64 < x.slots
    || 1 < field c 5 1 || r.sxbytes < lo x + n x || before.any fun y => overlap (lo x) (n x) (lo y) (n y)

/-- Whether some declaration breaks reason 9. -/
def chansBreak (r : LaunchRec) : (before : List Channel) → List (List Byte) → Bool
  | _, [] => false
  | before, c :: t => chanBreaks r before c || chansBreak r (before ++ [channelOfBytes c]) t

/-- Validate: the first check that fails, in order (R162). `serial` is the handle's own serial. Two points that R158, R162 and R166 leave
open (DESIGN CHOICE, log entry 48): a role word whose COUNT is 17 to 31 gives reason 4, by the sum of the counts, and not reason 2; and
a dependence of this context whose handle names no grid passes, so that the grid waits for ever. -/
def validate (ctx serial : Nat) (conductor : Bool) (b c : List Byte) : Option Nat :=
  let r := launchRec b
  let groups := r.groups
  if reservedSet b c then some 1
  else if rolesBreak (roleWords b) || (r.role 0).count == 0 || bits r.entry 1 0 != 0 || bits r.lcb 1 0 != 0
    || (r.roles.any fun x => x.entryOff % 4 != 0) then some 2
  else if r.gx == 0 || r.gy == 0 || r.gz == 0 then some 3
  else if groups == 0 || 16 < groups || (r.roles.any fun x => x.count != 0 && (x.vregs == 0 || 256 < x.vregs)) then some 4
  else if 64 < groups * energyUnits r.eclass then some 5
  else if 20 < bits r.partw 6 2 || r.sxbytes % 8 != 0 || r.accbytes % 16 != 0 || scratchBytes r.partw < r.sxbytes
    || accBytes r.partw < r.accbytes then some 6
  else if registerBytes r.partw / (if r.mirrored r.partw then 2 else 1) < r.need then some 7
  else if 32 < r.plumb || 16 < recNchan b || 4 < r.ndep then some 8
  else if chansBreak r [] (chanBytes c) then some 9
  else if r.deps.any fun h => h = 0 || bits h 63 32 != ctx || serial ≤ bits h 31 0 then some 10
  else if conductor && (r.teams != 1 || groups != 1) then some 11
  else none

-- New grids (R160, R161).

/-- A grid that is accepted and not yet read. -/
def Grid.open (uid : Nat) (handle : Word) (ctx : Nat) (conductor : Bool) (finaliser : Option Word)
    (reading : Option (Word × Nat × Option Nat)) (release : Option Nat) : Grid where
  uid := uid
  handle := handle
  ctx := ctx
  reading := reading
  lrec := launchRec []
  chans := []
  conductor := conductor
  finaliser := finaliser
  release := release
  placed := 0
  dropped := false
  since := none
  expired := false
  fatal := none
  killed := false
  deferred := false
  nlog := 0
  status := none

/-- A new grid of a context, with the next handle (R161); the writes stamped so far are those before its launch (R15). -/
def State.newGrid (s : State) (c : Context) (conductor : Bool) (finaliser : Option Word)
    (reading : Option (Word × Nat × Option Nat)) (release : Option Nat) : Grid × State :=
  let (u, s) := s.fresh
  let n := c.serial + 1
  let t := Grid.open u (word (c.spec.number % 2 ^ 16 * 2 ^ 32 + n.toNat)) c.spec.number conductor finaliser reading release
  let o := { s.order with launched := (u, s.order.count) :: s.order.launched }
  (t, ({ s with grids := s.grids ++ [t], order := o }).setCtx { c with serial := n })

/-- The status of a dependence, none while it runs (R166). -/
def State.depStatus (s : State) (t : Grid) (h : Word) : Option Word := (s.gridOf t.ctx h).bind fun x => x.status

/-- The dependences of a grid have all completed. -/
def State.depsDone (s : State) (t : Grid) : Bool := t.lrec.deps.all fun h => (s.depStatus t h).isSome

/-- Some dependence completed with a code other than OK. -/
def State.depFails (s : State) (t : Grid) : Bool := t.lrec.deps.any fun h =>
  match s.depStatus t h with
  | some x => bits x 7 0 != 0
  | none => false

/-- A grid has become placeable in the sense of R170: its launch is accepted and its dependences have completed with OK. -/
def State.clockRuns (s : State) (t : Grid) : Bool := t.status.isNone && t.reading.isNone && s.depsDone t && !s.depFails t

/-- The wait clocks of grids that have become placeable start (R170). -/
def State.startClocks (s : State) : State :=
  { s with grids := s.grids.map fun t =>
    if t.since.isNone && s.clockRuns t then { t with since := some s.clk.tick } else t }

/-- A finaliser's tensor becomes FREE when its grid completes (R417, R423). -/
def State.finaliserDone (s : State) (t : Grid) : State :=
  match t.finaliser with
  | none => s
  | some h =>
    match s.tensor? (handleDie h) (handleIndex h) with
    | some x => if x.state == 2 && x.fingrid == t.handle then s.freeTensor (handleDie h) x.index else s
    | none => s

/-- What a `gwait` of a grid acquires beside what the ends of its groups carry: the writes of the grid's agents (R163). -/
def State.gridSays (s : State) (t : Grid) : List Release :=
  [⟨.control, 4, s.order.viewOf fun a => a.grid? == some t.uid⟩]

/-- A grid completes with a status (R165), which its dependents may have waited for (R170). -/
def State.finishGrid (s : State) (t : Grid) (code reason : Nat) : State :=
  let s := s.tell (.grid t.uid) (s.gridSays t)
  ((s.setGrid { t with status := some (statusWord code reason t.nlog), reading := none }).finaliserDone t).startClocks

/-- The record of an accepted grid is checked: the grid completes with REJECTED or waits at the distributor (R160, R162). -/
def State.acceptRecord (s : State) (t : Grid) (b c : List Byte) : State :=
  match validate t.ctx (bits t.handle 31 0) t.conductor b c with
  | some r => s.finishGrid t 5 r
  | none => (s.setGrid { t with lrec := launchRec b, chans := (chanBytes c).map channelOfBytes, reading := none }).startClocks

/-- `launch` (R160). -/
def execLaunch (d a : BitVec 6) (s : State) : Out :=
  scalarWord (.launch d a) false [sReg d, sReg a]
    (fun s g h =>
      let x := g.getS a
      match s.readRecord g x 128 128 with
      | .error s => s
      | .ok (s, b) =>
        let conductor := match s.grid? g.place.grid with
          | some t => t.conductor
          | none => false
        let right := match s.grid? g.place.grid with
          | some t => (t.lrec.role g.role.role).right
          | none => false
        if g.idem then s.trapScalar g 0x0B 0
        else if !right && !conductor then s.trapScalar g 0x11 x
        else
          match s.readRecord g (recChanp b) (if recNchan b == 0 then 0 else 16 * recNchan b)
            (if recNchan b == 0 then 1 else 16) with
          | .error s => s
          | .ok (s, c) =>
            match s.ctx? g.place.ctx with
            | none => s
            | some x =>
              if 4096 ≤ s.openGrids g.place.ctx || x.ending then s.park g false (.stall .gridTable)
              else
                let (m, s) := s.release { g with used := true } false 4
                let g := (s.group? g.uid).getD g
                let (t, s) := s.newGrid x false none none (some m)
                (s.acceptRecord t b c).writeLater g h (sReg d) t.handle) s

-- Completion (R163, R165, R166).

/-- A Plumb request of a grid is queued, or waits in a replica that resyncs (R163). -/
def State.plumbPending (s : State) (p : Origin → Bool) : Bool :=
  let mine (r : PlumbReq) : Bool := match r.who with
    | some o => p o
    | none => false
  s.dies.any fun d => d.2.port.any mine || d.2.portWait.any mine ||
    match d.2.resync with
    | some x => x.buffer.any fun e => mine e.2
    | none => false

/-- Everything a grid's groups issued has finished (R163). An outbound access is waited for until its acknowledgement, and a
fault until it is logged, since `gwait` returns the faults that are reported after an exit (R115, R363). -/
def State.gridQuiet (s : State) (t : Grid) : Bool :=
  let mine (o : Origin) : Bool := o.grid == t.uid
  !(s.teams.any fun x => x.grid == t.uid) && !(s.groups.any fun g => g.place.grid == t.uid)
    && !(s.mats.any fun o => mine o.who) && !(s.engs.any fun o => mine o.who) && !(s.allReqs.any fun r => mine r.who)
    && !(s.arrivals.any fun r => mine r.who) && !s.plumbPending mine && !(s.returns.any fun r => !r.posted && mine r.who)
    && !(s.reports.any fun r => mine r.who) && !(s.outb.any fun o => o.who.any mine)

/-- The code and reason of a grid that has finished (R165). -/
def Grid.result (t : Grid) : Nat × Nat :=
  match t.fatal with
  | some c => (2, c.toNat)
  | none => if t.killed then (3, 0) else if t.deferred then (1, 0) else (0, 0)

/-- GRID_COMPLETE (R163, R165, R166). -/
def execGridComplete (grid : Nat) (s : State) : Out :=
  match s.grid? grid with
  | none => .next s
  | some t =>
    if t.status.isSome || t.reading.isSome then .next s
    else if t.placed == 0 && s.depsDone t && s.depFails t then .next (s.finishGrid t 4 0)
    else if (t.placed == t.lrec.teams || t.dropped) && s.gridQuiet t then
      .next (s.finishGrid t t.result.1 t.result.2)
    else .next s

/-- The status that `gwait` and `gquery` find at once: INVALID for a handle that names no grid of the context, or the
issuer's own (R163). -/
def State.gridStatus (s : State) (g : Group) (h : Word) : Except Word Grid :=
  match s.gridOf g.place.ctx h with
  | none => .error 0xFE
  | some t => if t.uid == g.place.grid then .error 0xFE else .ok t

/-- The acquire at pkg of a `gwait` or `gquery` of a grid that has completed (R163, R164). -/
def State.gridAcquire (s : State) (g : Group) (t : Nat) : State :=
  (s.acquireAt g.place.core 4).acquires g false 4 (s.told (.grid t))

/-- `gwait` (R163). -/
def execGwait (d a : BitVec 6) (s : State) : Out :=
  scalarWord (.gwait d a) false [sReg d, sReg a]
    (fun s g h =>
      match s.gridStatus g (g.getS a) with
      | .error x => s.writeLater g h (sReg d) x
      | .ok t =>
        match t.status with
        | some x => (s.gridAcquire g t.uid).writeLater g h (sReg d) x
        | none => s.park g h (.gwait (sReg d) t.uid)) s

/-- GWAIT_COMPLETE (R163). -/
def execGwaitComplete (g : Nat) (s : State) : Out :=
  groupStep g (fun _ g => g.life == .resident)
    (fun s g =>
      match g.sc.wait with
      | .gwait d t =>
        match (s.grid? t).bind fun t => t.status with
        | some x => (s.gridAcquire g t).complete (g.deferValue d x)
        | none => s
      | _ => s) s

/-- `gquery` (R164). -/
def execGquery (d a : BitVec 6) (s : State) : Out :=
  scalarWord (.gquery d a) false [sReg d, sReg a]
    (fun s g h =>
      match s.gridStatus g (g.getS a) with
      | .error x => s.writeLater g h (sReg d) x
      | .ok t =>
        match t.status with
        | some x => (s.gridAcquire g t.uid).writeLater g h (sReg d) x
        | none => s.writeLater g h (sReg d) 0xFF) s

-- Roles (R153 to R156).

/-- The role that a group's launch record gives a number. -/
def State.roleOf (s : State) (g : Group) (n : Nat) : RoleRec :=
  match s.grid? g.place.grid with
  | some t => t.lrec.role n
  | none => ⟨0, 0, 0, 0, false⟩

/-- Groups resident on a core. -/
def Group.isResident (g : Group) : Bool := g.life != .evicted && g.life != .restart
def State.residents (s : State) (core : Nat) : List Group :=
  s.groups.filter fun g => g.place.core == core && g.isResident

/-- Copies of a group's registers (R373). -/
def State.copies (s : State) (g : Group) : Nat :=
  match s.team? g.place.team with
  | some t => if t.mirror then 2 else 1
  | none => 1

/-- Register bytes that a group takes (R154, R373). -/
def State.groupRegs (s : State) (g : Group) : Nat := g.role.vregs * 128 * s.copies g

/-- Free bytes of a core's register region (R169). -/
def State.freeRegs (s : State) (core : Nat) : Nat :=
  registerBytes (s.core core).part - ((s.residents core).map s.groupRegs).foldl (· + ·) 0

/-- The waits of `rolesw` are over (R155). -/
def State.roleReady (s : State) (g : Group) (n : Nat) : Bool :=
  let new := (s.roleOf g n).vregs
  g.blocks == 0 && g.sc.outst.isEmpty &&
    (new ≤ g.role.vregs || (new - g.role.vregs) * 128 * s.copies g ≤ s.freeRegs g.place.core)

/-- A register file without the registers from `n` up. -/
def keepRegs (v : LaneFile) (n : Nat) : LaneFile := v.filter fun c => decide (c.1 < 32 * n)

/-- A group in its new role (R155). -/
def Group.inRole (g : Group) (n : Nat) (r : RoleRec) : Group :=
  let kept := min g.role.vregs r.vregs
  { g with
    role := ⟨n, r.vregs, r.prio⟩
    idem := false
    snap := none
    sc := { g.sc with pend := 0, last := none }
    ln := { g.ln with
      v := keepRegs g.ln.v kept
      bad := g.ln.bad.filter (fun k => k < 32 * kept || 32 * 256 ≤ k)
      badOne := g.ln.badOne.filter (fun k => k < 32 * kept || 32 * 256 ≤ k)
      pend := 0
      last := none } }

/-- The entry of a role (R155). -/
def State.roleEntry (s : State) (g : Group) (n : Nat) : Word :=
  match s.grid? g.place.grid with
  | some t => t.lrec.entry + word (t.lrec.role n).entryOff
  | none => 0

/-- `rolesw` takes effect (R155). -/
def State.switchRole (s : State) (g : Group) (hold : Bool) (n : Nat) : State :=
  (s.retire (g.inRole n (s.roleOf g n)) hold (s.roleEntry g n)).settle g.uid

/-- `rolesw` (R155). -/
def execRolesw (a : BitVec 6) (s : State) : Out :=
  scalarWord (.rolesw a) false [sReg a]
    (fun s g h =>
      let n := (g.getS a).toNat
      if 3 < n || (s.roleOf g n).count == 0 then s.trapScalar g 0x01 (illegalWord h (.rolesw a))
      else if s.roleReady g n then s.switchRole g h n
      else s.park g h (.rolesw n)) s

/-- ROLESW_COMPLETE (R155). -/
def execRoleswComplete (g : Nat) (s : State) : Out :=
  groupStep g (fun _ g => g.life == .resident)
    (fun s g =>
      match g.sc.wait with
      | .rolesw n => if s.roleReady g n then s.switchRole g g.sc.hold n else s
      | _ => s) s

/-- The word of `roleq` (R156). -/
def State.roleWord (s : State) (g : Group) (n : Nat) : Word :=
  let r := s.roleOf g n
  let now := (s.groups.filter fun h => h.place.team == g.place.team && h.role.role == n).length
  if 3 < n then 0
  else flagWord (r.count != 0) <<< 63 ||| word (now * 2 ^ 21 + r.count * 2 ^ 16 + r.prio * 2 ^ 12 + r.vregs)

/-- `roleq` (R156). -/
def execRoleq (d a : BitVec 6) (s : State) : Out :=
  scalarWord (.roleq d a) false [sReg d, sReg a]
    (fun s g h => s.writeLater g h (sReg d) (s.roleWord g (g.getS a).toNat)) s

-- Admission (R145, R169).

/-- Weight of the groups resident on a core (R168). -/
def State.coreWeight (s : State) (core : Nat) : Nat :=
  ((s.residents core).map fun g => energyUnits g.place.eclass.toNat).foldl (· + ·) 0

/-- The free budget of a core, negative when the budget was lowered below the resident weight (R168). -/
def State.freeBudget (s : State) (core : Nat) : Int := ((s.core core).budget : Int) - (s.coreWeight core : Int)

/-- The partition that takes the next group: the one with the fewest, the lower number on a tie (R145). -/
def bestPart (used : List Nat) : Nat :=
  let n (p : Nat) : Nat := (used.filter fun k => k / 4 == p).length
  [1, 2, 3].foldl (fun b p => if n p < n b then p else b) 0

/-- The slots of `n` groups on a core whose slots in `used` are taken, in group order; none where one has no place (R145). -/
def takeSlots : (n : Nat) → (used : List Nat) → Option (List Nat)
  | 0, _ => some []
  | n + 1, used =>
    let p := bestPart used
    match ([0, 1, 2, 3].map fun q => 4 * p + q).find? fun k => !used.contains k with
    | none => none
    | some k => (takeSlots n (used ++ [k])).map fun r => k :: r

/-- Slots of a core that resident groups hold. -/
def State.usedSlots (s : State) (core : Nat) : List Nat := (s.residents core).map fun g => g.place.slot

/-- The lowest base at which a window of `n` bytes fits below `cap` beside the windows in use (log entry 6). -/
def findWindow (used : List (Nat × Nat)) (cap n align : Nat) : Option Nat :=
  let up (x : Nat) : Nat := (x + align - 1) / align * align
  let bases := 0 :: (used.map fun w => up (w.1 + w.2))
  (bases.filter fun b => decide (b + n ≤ cap) && !(used.any fun w => overlap b n w.1 w.2)).foldl (fun m b =>
    match m with
    | none => some b
    | some x => some (min x b)) none

/-- Teams whose windows lie in a core's pool. -/
def State.windowTeams (s : State) (core : Nat) : List Team :=
  s.teams.filter fun t => t.core == core && t.saved.isNone

/-- Whether operations of groups that have left still use a core's pool. -/
def State.poolBusy (s : State) (core : Nat) : Bool :=
  let gone (o : Origin) : Bool := o.core == core && (s.group? o.g).isNone
  ((s.core core).reqs.any fun r => r.scratch && gone r.who) || (s.mats.any fun o => gone o.who)
    || (s.engs.any fun o => gone o.who)

/-- Where a team would lie on a core: its slots and its window bases; none where the core does not admit it (R169).
`part` is the partition word that the core would have. -/
def State.admitWith (s : State) (t : Grid) (core : Nat) (part : BitVec 8) : Option (List Nat × Nat × Nat) :=
  let r := t.lrec
  let need := r.need * if r.mirrored part then 2 else 1
  let ws := s.windowTeams core
  if s.freeBudget core < (r.groups * energyUnits r.eclass : Nat) || s.freeRegs core < need
    || (s.die (dieOf core)).world != (match s.ctx? t.ctx with | some c => c.spec.world | none => 0)
    || s.poolBusy core then none
  else
    match takeSlots r.groups (s.usedSlots core),
      findWindow (ws.map fun x => (x.sxbase, x.sxsize)) (scratchBytes part) r.sxbytes 8,
      findWindow (ws.map fun x => (x.accbase, x.accsize)) (accBytes part) r.accbytes 16 with
    | some k, some a, some b => some (k, a, b)
    | _, _, _ => none

/-- A core with no resident group, whose pool holds no team's windows, adopts a partition word (R169). -/
def State.mayAdopt (s : State) (core : Nat) : Bool := (s.residents core).isEmpty && (s.windowTeams core).isEmpty

/-- A context is on its way to another module, or has come from one and is not started (R448). -/
def State.migrating (s : State) (ctx : Nat) : Bool := s.tramir.moving.any (fun m => m.ctx == ctx) || s.tramir.arrived.contains ctx

/-- A grid whose next team may be placed: it is accepted, its launch's release is performed and its dependences completed
with OK (R160, R166), and its context does not migrate (R448). -/
def State.placeable (s : State) (t : Grid) : Bool :=
  t.status.isNone && t.reading.isNone && !t.dropped && decide (t.placed < t.lrec.teams) && s.releasedOpt t.release
    && s.depsDone t && !s.depFails t && !s.migrating t.ctx

/-- The grid that a time slice made room for still waits (R365). -/
def State.roomKept (s : State) (core : Nat) : Option Nat :=
  (s.core core).reserved.filter fun u =>
    match s.grid? u with
    | some t => s.placeable t
    | none => false

/-- Whether a core admits a grid's next team, and where (R169). A core that waits to restore an evicted group of the grid's
class or a higher one restores it first (R369), unless its time slice made the room for this grid (R365). -/
def State.admits (s : State) (t : Grid) (core : Nat) : Option (List Nat × Nat × Nat) :=
  let c := s.core core
  let waits := s.groups.any fun g => g.place.core == core && !g.isResident &&
    match s.grid? g.place.grid with
    | some x => decide (t.lrec.prio ≤ x.lrec.prio)
    | none => false
  let taken := match s.roomKept core with
    | some u => u != t.uid
    | none => waits
  if taken then none
  else if c.part == t.lrec.partw then s.admitWith t core t.lrec.partw
  else if s.mayAdopt core then
    ({ s with cores := put s.cores core { c with part := t.lrec.partw } }).admitWith t core t.lrec.partw
  else none

/-- Global core numbers. -/
def allCores : List Nat := List.range 2048

/-- The core with the greatest free budget of those that admit a grid's next team, the lowest number on a tie (R170). -/
def State.bestCore (s : State) (t : Grid) : Option Nat :=
  allCores.foldl (fun b c =>
    if (s.admits t c).isNone then b
    else match b with
      | none => some c
      | some x => if s.freeBudget x < s.freeBudget c then some c else some x) none

/-- A grid's wait clock runs: it has teams to place. -/
def State.waitRuns (s : State) (t : Grid) : Bool := s.clockRuns t && !t.dropped && decide (t.placed < t.lrec.teams)

/-- Grids in the order of the scan (R170): the highest class first, and a class in launch order. -/
def byClass (gs : List Grid) : List Grid := [3, 2, 1, 0].flatMap fun p => gs.filter fun t => t.lrec.prio == p

/-- The waiting grids in the order of the scan (R170). Beside one whose wait clock has passed 1 ms, only grids of higher class
are placed; of several such grids of one class it is the first in launch order that is placed (DESIGN CHOICE, log entry 48). -/
def State.scanOrder (s : State) : List Grid :=
  let gs := byClass (s.grids.filter s.placeable)
  match (byClass (s.grids.filter s.waitRuns)).find? fun t => t.expired with
  | none => gs
  | some e => gs.filter fun t => t.uid == e.uid || decide (e.lrec.prio < t.lrec.prio)

/-- The next placement: a grid and a core (R170). -/
def State.nextPlacement (s : State) : Option (Grid × Nat) :=
  s.scanOrder.findSome? fun t => (s.bestCore t).map fun c => (t, c)

-- Placement (R29, R105, R144, R211).

/-- A store without the cells of a range. -/
def clearRange (m : Mem) (lo n : Nat) : Mem := m.filter fun c => !(decide (lo ≤ c.1) && decide (c.1 < lo + n))

/-- Pool words whose errors a zeroed range replaces (R374). -/
def clearWords (p : List Nat) (lo n : Nat) : List Nat := p.filter fun x => !(decide (lo ≤ 8 * x) && decide (8 * x < lo + n))

/-- A core whose pool has a team's windows zeroed (R211). -/
def Core.zeroWindows (c : Core) (sx sxn acc accn : Nat) : Core :=
  { c with
    scratch := clearRange c.scratch sx sxn
    acc := clearRange c.acc acc accn
    poisonS := clearWords c.poisonS sx sxn
    poisonA := clearWords c.poisonA acc accn }

/-- The next instance serial of a context (R105). -/
def nextSerial (n : W32) : W32 := if n + 1 = 0 then 1 else n + 1

/-- The role of a group's index in a team (R144). -/
def LaunchRec.roleAt (r : LaunchRec) (gid : Nat) : Nat :=
  (([0, 1, 2, 3].find? fun n => decide (r.roleBase n ≤ gid) && decide (gid < r.roleBase n + (r.role n).count))).getD 0

/-- TIDX of the n-th team (R144). -/
def LaunchRec.tidx (r : LaunchRec) (n : Nat) : Word :=
  word (n % r.gx + n / r.gx % r.gy * 2 ^ 16 + n / (r.gx * r.gy) * 2 ^ 32)

/-- A group of a team in its start state (R29, R105). -/
def placeGroup (t : Grid) (c : Context) (team core uid gid slot sx acc : Nat) (gser : W32) : Group :=
  let r := t.lrec
  let n := r.roleAt gid
  let x := r.role n
  let p : Place := ⟨t.ctx, t.uid, team, core, slot, word gid, r.tidx t.placed, gser, word r.groups, r.lcb, r.argp, word sx,
    word r.sxbytes, word acc, word r.accbytes, word r.eclass⟩
  Group.start uid p ⟨n, x.vregs, x.prio⟩ (r.entry + word x.entryOff) c.spec.trapBase c.spec.laneEntry

/-- Free slots of a stack's grant pool, lowest first (R404). -/
def Stack.freeSlots (k : Stack) : List Nat :=
  ((List.range 32).map fun i => 32 + i).filter fun i => !(look (k.sat.getD i 0) k.satNew i).getLsbD 15

/-- The die gets up to PLUMB free slots of its stack's grant pool, when a grid's first team is placed on it (R404). The
entries take effect at the next frame boundary (R403). -/
def State.grantSlots (s : State) (t : Grid) (die : Nat) : State :=
  if s.teams.any fun x => x.grid == t.uid && dieOf x.core == die then s
  else
    let k := s.stack (stackOf die)
    let d := s.die die
    let slots := k.freeSlots.take t.lrec.plumb
    let entry := word (0x8000 + d.world.toNat * 256 + die % 8)
    let sat := slots.foldl (fun l n => put l n entry) k.satNew
    (s.setStack (stackOf die) { k with satNew := sat }).setDie die { d with
      granted := d.granted ++ slots.map (fun n => (n, t.uid)) }

/-- What the start of a grid's groups acquires at pkg: the release of its launch (R160); every return to the tensor that it finalises
(R423); and for a conductor what the host has written (DEDUCED, log entry 49). -/
def State.startReleases (s : State) (t : Grid) : List Release :=
  (match t.release with
    | some m => s.told (.marker m)
    | none => [])
    ++ (match t.finaliser with
      | some h => s.told (.tensor (handleId h))
      | none => [])
    ++ if t.conductor then [⟨.control, 4, s.order.viewOf fun a => a == .host⟩] else []

/-- A team is placed on a core (R29, R144, R145, R169, R211). The start of its groups is an acquire at pkg (R160). Its windows hold
nothing older than their zeros. -/
def State.placeTeam (s : State) (t : Grid) (c : Context) (core : Nat) (at_ : List Nat × Nat × Nat) : State :=
  let (slots, sx, acc) := at_
  let r := t.lrec
  let s := s.grantSlots t (dieOf core)
  let x := s.core core
  let x := { x with part := r.partw, near := [], reserved := none }.zeroWindows sx r.sxbytes acc r.accbytes
  let s := ((s.setCore core x).wall (scratchLoc core sx) r.sxbytes)
  let tells := s.startReleases t
  let (team, s) := s.fresh
  let (s, gser, gs) := slots.foldl (fun (st : State × W32 × List Group) slot =>
    let (s, gser, gs) := st
    let (u, s) := s.fresh
    let gser := nextSerial gser
    (s, gser, gs ++ [placeGroup t c team core u gs.length slot sx acc gser])) (s, c.gser, [])
  let born : Team := ⟨team, t.uid, core, t.placed, gs.map (fun g => g.uid), sx, r.sxbytes, acc, r.accbytes, 0, none, t.chans,
    [], team, none, r.mirrored r.partw⟩
  let s := { s with groups := s.groups ++ gs, teams := s.teams ++ [born] }
  let s := gs.foldl (fun s g => s.acquires g false 4 tells) s
  let s := s.setCtx { c with gser := gser }
  s.setGrid { t with placed := t.placed + 1, since := some s.clk.tick, expired := false }

/-- Budgets written since the last scan take effect (R454). -/
def State.applyBudgets (s : State) : State :=
  { s with cores := s.cores.map fun c =>
    match c.2.newBudget with
    | some b => (c.1, { c.2 with budget := b, newBudget := none })
    | none => c }

-- Records that the device reads itself (R167, R423).

/-- What the device's read of a record comes to. -/
inductive RecordRead where
  | held
  | asleep
  | failed
  | ok (b c : List Byte)

/-- The record at an address and its channel declarations, read as `launch` does under the context's world, for a die. -/
def State.deviceRecord (s : State) (t : Grid) (va : Word) (die : Nat) : State × RecordRead :=
  match s.ctx? t.ctx with
  | none => (s, .failed)
  | some c =>
    if va.toNat % 128 != 0 then (s, .failed)
    else
      match s.engineRead die t.ctx c.spec.world va 128 with
      | (s, .error (.held, _)) => (s, .held)
      | (s, .error (.asleep, _)) => (s, .asleep)
      | (s, .error _) => (s, .failed)
      | (s, .ok b) =>
        if recNchan b == 0 then (s, .ok b [])
        else if (recChanp b).toNat % 16 != 0 then (s, .failed)
        else
          match s.engineRead die t.ctx c.spec.world (recChanp b) (16 * recNchan b) with
          | (s, .error (.held, _)) => (s, .held)
          | (s, .error (.asleep, _)) => (s, .asleep)
          | (s, .error _) => (s, .failed)
          | (s, .ok c) => (s, .ok b c)

/-- A grid's record is read for the device, or waits, on a held PTE for at most 2^26 clocks (R246) or for the wake of a die
(R412); a read that fails gives
REJECTED with reason 12 (R162). -/
def State.readGrid (s : State) (t : Grid) (va : Word) (die : Nat) (since : Option Nat) : State :=
  match s.deviceRecord t va die with
  | (s, .ok b c) => s.acceptRecord t b c
  | (s, .failed) => s.finishGrid t 5 12
  | (s, .asleep) => s.setGrid { t with reading := some (va, die, since) }
  | (s, .held) =>
    match since with
    | none => s.setGrid { t with reading := some (va, die, some s.now) }
    | some n => if n + 2 ^ 26 ≤ s.now then s.finishGrid t 5 12 else s

/-- The first grid whose record the device still waits to read is read again. -/
def State.readWaiting (s : State) : State :=
  match s.grids.find? fun t => t.reading.isSome && t.status.isNone with
  | none => s
  | some t =>
    match t.reading with
    | some (va, die, since) => s.readGrid t va die since
    | none => s

/-- The finaliser of a FINAL tensor of a die is launched once its context has room for a grid and does not end (R423, R160, R372). -/
def State.launchFinaliser (s : State) (die : Nat) (t : Tensor) : State :=
  match s.ctx? t.ctx with
  | none => s
  | some c =>
    if decide (4096 ≤ s.openGrids t.ctx) || c.ending then s
    else
      let h := makeHandle ((s.die die).gen t.index) false 0 die t.index
      let (x, s) := s.newGrid c false (some h) (some (t.finrec, die, none)) none
      (s.setTensor die { t with fingrid := x.handle }).emit 0x16 (unitSource die 0 (t.index % 32)) 0 (handleId h % 2 ^ 32)
        t.ctx die

/-- The finalisers that waited for room in their context's grids are launched. -/
def State.launchWaiting (s : State) : State :=
  s.dies.foldl (fun s d =>
    (d.2.tensors.filter fun t => t.state == 2 && t.fingrid = 0).foldl (fun s t => s.launchFinaliser d.1 t) s) s

/-- TEAM_PLACEMENT (R170): the distributor's scan, which places a team on the named core when that is the core it chooses.
A sleeping die is woken first (R455). -/
def execTeamPlacement (core : Nat) (s : State) : Out :=
  let s := s.applyBudgets.launchWaiting.readWaiting
  match s.nextPlacement with
  | none => .next s
  | some (t, n) =>
    if n != core || !(s.die (dieOf core)).awake then .next s
    else
      match s.ctx? t.ctx, s.admits t core with
      | some c, some a => .next (s.placeTeam t c core a)
      | _, _ => .next s

/-- WAIT_CLOCK_EXPIRY (R170): a grid's wait clock has passed 1 ms, which is 1,125,000 ticks. -/
def execWaitClockExpiry (grid : Nat) (s : State) : Out :=
  match s.grid? grid with
  | none => .next s
  | some t =>
    match t.since with
    | none => .next s
    | some n =>
      if s.waitRuns t && n + 1125000 < s.clk.tick then .next (s.setGrid { t with expired := true }) else .next s

end Sys2Proof.Machine
end

