-- ==== Sys2Proof/Machine/Tensor.lean ====
section
/-! DEFINITION. Counted tensors: the th words, the tensor unit's answers and the application of returns (R416 to R424,
R446). -/

namespace Sys2Proof.Machine

open Sys2Proof

-- The answers of the tensor unit (R420, R421, R423, R424).

/-- Why a tensor's range has no entries: a page of it is held or its tables lie on a die that sleeps, or it is not mapped to HBM
or the table has no room. -/
inductive RangeEnd where
  | held
  | asleep
  | bad
  deriving DecidableEq, Repr

/-- Bytes of the frame of a leaf: a page of a contiguous group is a frame of its own (R232). -/
def Leaf.frameSize (l : Leaf) : Nat := if l.size == 2 ^ 18 then 2 ^ 13 else l.size

/-- The range-table entries of `n` bytes from `va` of a tensor, frame by frame: the first line, the lines, the tensor ID and
the first line's index (R446); `fuel` bounds the frames. -/
def State.tensorRange (s : State) (ctx id : Nat) : (fuel : Nat) → (va : Word) → (n line : Nat) →
    Except RangeEnd (List (Nat × Nat × Nat × Nat))
  | 0, _, n, _ => if n == 0 then .ok [] else .error .bad
  | fuel + 1, va, n, line =>
    if n == 0 then .ok []
    else if s.tablesAsleep ctx va then .error .asleep
    else
      match s.walk ctx va with
      | .leaf l =>
        let k := min n (l.frameSize - va.toNat % l.frameSize)
        if l.tier != 0 then .error .bad
        else
          (s.tensorRange ctx id fuel (va + word k) (n - k) (line + k / 128)).map fun r =>
            (l.phys va / 128, k / 128, id, line) :: r
      | .held => .error .held
      | _ => .error .bad

/-- Entries of a die's tensor range table that are taken (R446). -/
def State.rangesOf (s : State) (die : Nat) : Nat := (s.tramir.ranges.filter fun r => r.2.2.1 / 2 ^ 36 == die).length

/-- An entry of its fields, with WORLD and CTX of the issuer (R421). -/
def newTensor (index state enc : Nat) (world : BitVec 4) (ctx : Nat) (shapep data bytes tagp total parent : Word) : Tensor where
  index := index
  state := state
  world := world
  enc := enc
  ctx := ctx
  shapep := shapep
  data := data
  bytes := bytes
  version := if state == 1 then 1 else 0
  tagp := tagp
  returned := 0
  total := total
  finrec := 0
  parent := parent
  fingrid := 0

/-- What an answer comes to: the reason of TENSOR, or the state with the group's results. -/
abbrev TensorAnswer := Except Nat (State × List (Nat × Word))

/-- `thnew` (R421, R446). -/
def State.createTensor (s : State) (g : Group) (d e : Nat) (shapep data bytes tagp : Word) (enc : Nat) : TensorAnswer :=
  let die := g.die
  match (s.die die).lowestFree with
  | none => .error 4
  | some i =>
    let id := die * 2 ^ 36 + i
    let room := 4096 - s.rangesOf die
    match if enc == 0 then .ok [] else s.tensorRange g.place.ctx id room data bytes.toNat 0 with
    | .error _ => .error 6
    | .ok rs =>
      let s := { s with tramir := { s.tramir with ranges := s.tramir.ranges ++ rs } }.hush fun m => m == Mark.tensor id
      let t := newTensor i 1 enc (s.worldOf g) g.place.ctx shapep data bytes tagp (word (2 ^ e)) 0
      .ok (s.setTensor die t, [(d, makeHandle ((s.die die).gen i) false e die i)])

/-- `thcopy` at E = 0 (R421). -/
def State.splitTensor (s : State) (g : Group) (d a : Nat) (h : Word) : TensorAnswer :=
  let die := g.die
  match (s.die die).lowestFree with
  | none => .error 4
  | some i =>
    let t := newTensor i 4 0 (s.worldOf g) g.place.ctx 0 0 0 0 (word (2 ^ 62)) h
    let n := makeHandle ((s.die die).gen i) true 61 die i
    let s := s.hush fun m => m == .tensor (die * 2 ^ 36 + i)
    .ok (s.setTensor die t, [(d, n), (a, n)])

/-- The field of an entry that a selector names (R416). -/
def State.tensorField (s : State) (die : Nat) (t : Tensor) : Nat → Word
  | 0 => word (t.state + t.world.toNat * 2 ^ 4 + t.enc * 2 ^ 8 + ((s.die die).gen t.index).toNat * 2 ^ 16
      + t.ctx % 2 ^ 16 * 2 ^ 32)
  | 1 => t.shapep
  | 2 => t.data
  | 3 => t.bytes
  | 4 => t.version.setWidth 64
  | 5 => t.tagp
  | 6 => t.returned
  | 7 => t.total
  | 8 => t.finrec
  | 9 => t.parent
  | _ => t.fingrid

/-- The unit's answer to a waiting word. -/
def State.tensorAnswer (s : State) (g : Group) : TensorOp → TensorAnswer
  | .create d e shapep data bytes tagp enc => s.createTensor g d e shapep data bytes tagp enc
  | .split d a h => s.splitTensor g d a h
  | .bind h fin =>
    match s.liveTensor g.place.ctx (s.worldOf g) h with
    | .error r => .error r
    | .ok (die, t) => .ok (s.setTensor die { t with finrec := fin }, [])
  | .version d h _ =>
    match s.liveTensor g.place.ctx (s.worldOf g) h with
    | .error r => .error r
    | .ok (die, t) =>
      if t.version = 0xFFFFFFFF then .error 5
      else
        let t := { t with version := t.version + 1 }
        .ok (s.setTensor die t, [(d, t.version.setWidth 64)])
  | .info d h sel =>
    match s.entryOfHandle g.place.ctx (s.worldOf g) h with
    | .error _ => .ok (s, [(d, 0)])
    | .ok (die, t) => .ok (s, [(d, s.tensorField die t sel)])

/-- The die whose unit answers. -/
def TensorOp.home (op : TensorOp) (issuing : Nat) : Nat :=
  match op with
  | .create _ _ _ _ _ _ _ | .split _ _ _ => issuing
  | .bind h _ | .version _ h _ | .info _ h _ => handleDie h

/-- `thnew` waits for a held page of its range, for 2^26 clocks from its issue at most, or for the wake of a die (R246, R412, R446). -/
def State.rangeHeld (s : State) (g : Group) (data bytes : Word) : Bool :=
  match s.tensorRange g.place.ctx 0 (4096 - s.rangesOf g.die) data bytes.toNat 0 with
  | .error .held => decide (s.now < g.sc.last.getD 0 + heldLimit)
  | .error .asleep => true
  | _ => false

/-- The unit may answer: its die is awake, and `tver`'s release is performed (R412, R424). -/
def State.mayAnswer (s : State) (g : Group) (op : TensorOp) : Bool :=
  (s.die (op.home g.die)).awake &&
    match op with
    | .version _ _ m => s.released m
    | .create _ _ _ data bytes _ enc => enc == 0 || !s.rangeHeld g data bytes
    | _ => true

/-- A trap that waited for the answer gives way to the word's own fault; an async cause goes on waiting (R111, R350). -/
def Group.ownFault (g : Group) : Group :=
  let async := match g.sc.entry with
    | some r => if r.cause == 0x0A || r.cause == 0x13 || r.cause == 0x19 then r :: g.sc.async else g.sc.async
    | none => g.sc.async
  { g with sc := { g.sc with wait := .ready, entry := none, async := async } }

/-- TENSOR_UNIT_ANSWER (R420). -/
def execTensorUnitAnswer (g : Nat) (s : State) : Out :=
  groupStep g (fun _ g => g.life == .resident)
    (fun s g =>
      match g.sc.wait with
      | .tensor op =>
        if !s.mayAnswer g op then s
        else
          match s.tensorAnswer g op with
          | .error r => s.trapScalar g.ownFault 0x15 (word r)
          | .ok (s, rs) => s.complete (rs.foldl (fun g r => g.deferValue r.1 r.2) g)
      | _ => s) s

-- The th words.

/-- A creation record is invalid (R421), or asks for tensor mode where the issuing world and its sizes forbid it (R446). -/
def badCreation (world : BitVec 4) (b : List Byte) : Bool :=
  let enc := field b 0x20 1
  let tagp := field b 0x18 8
  field b 0x21 31 != 0 || decide (2 < enc) || (decide (enc < 2) && tagp != 0) || (enc == 2 && tagp == 0)
    || (enc != 0 && (world == 0 || field b 8 8 % 128 != 0 || field b 0x10 8 % 128 != 0))

/-- `thnew` (R421). -/
def execThnew (d a b : BitVec 6) (s : State) : Out :=
  scalarWord (.thnew d a b) false [sReg d, sReg a, sReg b]
    (fun s g h =>
      match s.readRecord g (g.getS a) 64 64 with
      | .error s => s
      | .ok (s, r) =>
        let e := (g.getS b).toNat
        if g.idem then s.trapScalar g 0x0B 0
        else if badCreation (s.worldOf g) r then s.trapScalar g 0x15 6
        else if e < 1 || 62 < e then s.trapScalar g 0x15 7
        else
          s.park { g with used := true } h (.tensor (.create (sReg d) e (word (field r 0 8)) (word (field r 8 8))
            (word (field r 0x10 8)) (word (field r 0x18 8)) (field r 0x20 1)))) s

/-- `thcopy` (R421). -/
def execThcopy (d a : BitVec 6) (s : State) : Out :=
  scalarWord (.thcopy d a) false [sReg d, sReg a]
    (fun s g h =>
      let x := g.getS a
      if g.idem then s.trapScalar g 0x0B 0
      else if badHandle x then s.trapScalar g 0x15 1
      else
        let g := { g with used := true }
        if handleE x == 0 then s.park g h (.tensor (.split (sReg d) (sReg a) x))
        else
          let n := withE x (handleE x - 1)
          s.retire ((g.deferValue (sReg d) n).deferValue (sReg a) n) h (g.sc.spc + 4)) s

/-- `thdrop` (R422). -/
def execThdrop (a : BitVec 6) (s : State) : Out :=
  scalarWord (.thdrop a) false [sReg a]
    (fun s g h =>
      let x := g.getS a
      if g.idem then s.trapScalar g 0x0B 0
      else if badHandle x then s.trapScalar g 0x15 1
      else
        let s := s.emitG g 0x15 (handleE x) (handleId x % 2 ^ 32)
        let who := g.origin (s.worldOf g) false g.sc.spc
        let (m, s) := s.release { g with used := true } false 4
        let g := (s.group? g.uid).getD g
        { s with returns := s.returns ++ [Return.mk x who (some m) false] }.retire g h (g.sc.spc + 4)) s

/-- `thbind` (R423). -/
def execThbind (a b : BitVec 6) (s : State) : Out :=
  scalarWord (.thbind a b) false [sReg a, sReg b]
    (fun s g h =>
      if (g.getS b).toNat % 128 != 0 then s.trapScalar g 0x05 (g.getS b)
      else if badHandle (g.getS a) then s.trapScalar g 0x15 1
      else s.park g h (.tensor (.bind (g.getS a) (g.getS b)))) s

/-- `tver` (R424). -/
def execTver (d a : BitVec 6) (s : State) : Out :=
  scalarWord (.tver d a) false [sReg d, sReg a]
    (fun s g h =>
      if badHandle (g.getS a) then s.trapScalar g 0x15 1
      else
        let (m, s) := s.release g false 4
        let g := (s.group? g.uid).getD g
        s.park g h (.tensor (.version (sReg d) (g.getS a) m))) s

/-- `thinfo` (R424). -/
def execThinfo (d a b : BitVec 6) (s : State) : Out :=
  scalarWord (.thinfo d a b) false [sReg d, sReg a, sReg b]
    (fun s g h =>
      let sel := (g.getS b).toNat
      if 10 < sel then s.trapScalar g 0x01 (illegalWord h (.thinfo d a b))
      else if badHandle (g.getS a) then s.trapScalar g 0x15 1
      else s.park g h (.tensor (.info (sReg d) (g.getS a) sel))) s

-- Returns (R422).

/-- A return that is logged. -/
def State.logReturn (s : State) (r : Return) : State :=
  s.log 1 0x15 0 r.who r.who.pc (word (handleId r.handle))

/-- The last weight of an entry has come home (R417, R422, R423): an indirection becomes FREE and its weight goes to its
parent, with the releases that came home to it; a tensor becomes FREE, or FINAL and launches its finaliser. -/
def State.allReturned (s : State) (r : Return) (die : Nat) (t : Tensor) : State :=
  if t.state == 4 then
    let s := s.freeTensor die t.index
    let s := s.tell (.tensor (handleId t.parent)) (s.told (.tensor (die * 2 ^ 36 + t.index)))
    { s with returns := s.returns ++ [⟨withE t.parent 0, r.who, none, true⟩] }
  else if t.finrec = 0 then s.freeTensor die t.index
  else
    let t := { t with state := 2 }
    (s.setTensor die t).launchFinaliser die t

/-- A return applied at its entry, as one indivisible act (R422); the entry keeps its release for the finaliser (R283). -/
def State.applyReturn (s : State) (r : Return) : State :=
  let die := handleDie r.handle
  let s := match r.marker with
    | some m => s.tell (.tensor (handleId r.handle)) (s.told (.marker m))
    | none => s
  match s.tensor? die (handleIndex r.handle) with
  | none => s.logReturn r
  | some t =>
    if ((s.die die).gen t.index).toNat != handleGen r.handle || t.ctx != r.who.ctx || t.world != r.who.world
      || !(t.state == 1 || t.state == 4) then s.logReturn r
    else
      let n := t.returned.toNat + 2 ^ handleE r.handle
      let t' := { t with returned := word n }
      if t.total.toNat < n then (s.setTensor die { t' with state := 3 }).logReturn r
      else if n == t.total.toNat then (s.setTensor die t').allReturned r die t'
      else s.setTensor die t'

/-- TH_RETURN_APPLY (R422): the return of place `k` is applied once what precedes it is performed. -/
def execThReturnApply (k : Nat) (s : State) : Out :=
  match s.returns[k]? with
  | none => .next s
  | some r =>
    if s.releasedOpt r.marker && (s.die (handleDie r.handle)).awake then
      .next ({ s with returns := s.returns.eraseIdx k }.applyReturn r)
    else .next s

end Sys2Proof.Machine
end

