-- ==== Sys2Proof/Machine/Plumb.lean ====
section
/-! DEFINITION. Plumb: the write words, `plfence`, `plwait` and `plsync` (R407 to R411), the slots and their application
(R402 to R406), the tables (R403, R405) and resync (R413). -/

namespace Sys2Proof.Machine

open Sys2Proof

-- Issue (R407 to R409).

/-- The Plumb operations of a group that are outstanding (R407). -/
def State.plumbOut (s : State) (g : Group) : Nat :=
  ((s.die g.die).plumbReqs.filter fun r => match r.who with
    | some o => o.g == g.uid
    | none => false).length

/-- The request's group. -/
def PlumbReq.group (r : PlumbReq) : Option Nat := r.who.map fun o => o.g

/-- Whether a request waits for what precedes it in its group's program order: the release of a `plfence` (R409), the release of a
fence, and a read that has not returned, which no write goes before (R282, R283). -/
def State.plumbWaits (s : State) (r : PlumbReq) : Bool :=
  !s.releasedOpt r.marker ||
    match r.who with
    | none => false
    | some o =>
      let first (q : MemReq) : Bool := (q.isFence || q.reads) && q.precedes o.g false r.seq r.after
      s.allReqs.any first || s.outb.any fun x => x.req.any first

/-- Waiting requests enter the queue of the port, in their order, as soon as there is room and what precedes them is performed;
a group's later requests wait behind its earlier ones. -/
def State.pumpWait (s : State) : (waiting kept port : List PlumbReq) → List PlumbReq × List PlumbReq
  | [], kept, port => (kept, port)
  | r :: t, kept, port =>
    if 64 ≤ port.length || s.plumbWaits r || (r.group.isSome && kept.any fun x => x.group == r.group) then
      s.pumpWait t (kept ++ [r]) port
    else s.pumpWait t kept (port ++ [r])

/-- A die whose waiting requests have been let in. -/
def State.pumpPort (s : State) (d : Die) : Die :=
  let (kept, port) := s.pumpWait d.portWait [] d.port
  { d with portWait := kept, port := port }

/-- A request joins a die's port: its queue, or those that wait for room or for what precedes them (R407, R409); those that wait
already go first. -/
def State.joinPort (s : State) (d : Die) (r : PlumbReq) : Die :=
  let d := s.pumpPort d
  let behind := d.portWait.any fun x => x.group == r.group
  if behind || 64 ≤ d.port.length || s.plumbWaits r then { d with portWait := d.portWait ++ [r] }
  else { d with port := d.port ++ [r] }

/-- A write form (R408). -/
def plumbWrite (i : Instr) (fn : Nat) (d a b : BitVec 6) (s : State) : Out :=
  scalarWord i false [sReg d, sReg a, sReg b]
    (fun s g h =>
      let o := g.getS a
      if bits o 2 0 != 0 then s.trapScalar g 0x05 o
      else if 0x100000 ≤ o.toNat then s.trapScalar g 0x10 o
      else if !s.holdsPage (stackOf g.die) g.place.ctx (bits o 19 16) then s.trapScalar g 0x11 o
      else if g.idem then s.trapScalar g 0x0B 0
      else if 16 ≤ s.plumbOut g || 64 ≤ (s.pumpPort (s.die g.die)).port.length || (s.die g.die).stale then
        s.park g false (.stall .order)
      else
        let (id, s) := s.fresh
        let r : PlumbReq := ⟨some (g.origin (s.worldOf g) false g.sc.spc), id, g.seq, g.sc.laneSeq, s.worldOf g, o.toNat, fn, g.getS b, g.getS d,
          g.source, g.plFence⟩
        let s := s.setDie g.die (s.joinPort (s.die g.die) r)
        let g := { g with used := true, plFence := none, seq := g.seq + 1 }
        let g := if d = 0 then g else g.defer ⟨sReg d, id, .ext 8 false, g.sc.spc, none, none, none⟩
        s.retire g h (g.sc.spc + 4)) s

/-- `plst` (R408). -/
def execPlst (d a b : BitVec 6) (s : State) : Out := plumbWrite (.plst d a b) 0 d a b s
/-- `plamo.add` (R408). -/
def execPlamoAdd (d a b : BitVec 6) (s : State) : Out := plumbWrite (.plamoAdd d a b) 1 d a b s
/-- `plamo.max` (R408). -/
def execPlamoMax (d a b : BitVec 6) (s : State) : Out := plumbWrite (.plamoMax d a b) 2 d a b s
/-- `plamo.cas` (R408). -/
def execPlamoCas (d a b : BitVec 6) (s : State) : Out := plumbWrite (.plamoCas d a b) 3 d a b s

/-- `plfence` (R409): a release at stk that the group's next Plumb write waits for. -/
def execPlfence (s : State) : Out :=
  scalarWord .plfence false [] (fun s g h =>
    let (m, s) := s.release g false 3
    let g := (s.group? g.uid).getD g
    s.retire { g with plFence := some m } h (g.sc.spc + 4)) s

/-- Every Plumb write that a group has issued is applied at every awake replica (R410). -/
def State.plumbDone (s : State) (g : Group) : Bool := !s.plumbPending fun o => o.g == g.uid

/-- `plwait` (R410). -/
def execPlwait (s : State) : Out :=
  scalarWord .plwait false [] (fun s g h =>
    if s.plumbDone g then s.retire g h (g.sc.spc + 4) else s.park g h .plwait) s

/-- PLWAIT_COMPLETE (R410). -/
def execPlwaitComplete (g : Nat) (s : State) : Out :=
  groupStep g (fun s g => g.life == .resident && g.sc.entry.isNone && g.sc.wait == .plwait && s.plumbDone g)
    (fun s g => s.complete g) s

/-- The sequence number that `plsync` gives (R411). -/
def State.plumbSeq (s : State) (g : Group) : Word := word ((s.die g.die).taken % 2 ^ 48)

/-- A group has seen every write that its replica has taken into account (R411). -/
def State.seenPlumb (s : State) (g : Group) : State :=
  s.learnAt g false false [(granule (plumbLoc (stackOf g.die) 0), s.order.count)] []

/-- `plsync` (R411). -/
def execPlsync (d : BitVec 6) (s : State) : Out :=
  scalarWord (.plsync d) false [sReg d]
    (fun s g h =>
      if (s.die g.die).stale then s.park g h (.plsync (sReg d))
      else (s.seenPlumb g).writeLater g h (sReg d) (s.plumbSeq g)) s

/-- PLSYNC_COMPLETE (R411). -/
def execPlsyncComplete (g : Nat) (s : State) : Out :=
  groupStep g (fun s g => g.life == .resident && g.sc.entry.isNone && !(s.die g.die).stale)
    (fun s g =>
      match g.sc.wait with
      | .plsync d => (s.seenPlumb g).complete (g.deferValue d (s.plumbSeq g))
      | _ => s) s

-- Slots (R402, R406).

/-- New(fn, old, x, e) (R408). -/
def plumbNew (fn : Nat) (old x e : Word) : Word :=
  match fn with
  | 0 => x
  | 1 => old + x
  | 2 => if BitVec.slt old x then x else old
  | _ => if old = e then x else old

/-- The word at an offset of a replica. -/
def Die.plumbWord (d : Die) (o : Nat) : Word := word (leNat (memRead d.replica o 8))

/-- A replica with an operation applied. -/
def Die.applyPlumb (d : Die) (r : PlumbReq) : Die :=
  { d with replica := memWrite d.replica r.offset (leBytes 8 (plumbNew r.fn (d.plumbWord r.offset) r.x r.e).toNat) }

/-- The dies of a stack. -/
def diesOf (stack : Nat) : List Nat := (List.range 8).map fun l => 8 * stack + l

/-- The die that a slot's entry lets send: V is set, and the layer is awake and of the entry's world (R403, R404). -/
def State.slotOwner (s : State) (stack n : Nat) : Option Nat :=
  let e := (s.stack stack).sat.getD (n % 64) 0
  let d := 8 * stack + bits e 2 0
  if e.getLsbD 15 && (s.die d).awake && (s.die d).world.toNat == bits e 11 8 then some d else none

/-- A layer hears slot `n` with its operation, or silent (R406, R411, R413): a current replica of its world applies it; one
that resyncs buffers the slots of its world, and starts again when 8,192 do not hold them. -/
def Die.hear (d : Die) (n : Nat) (world : Option (BitVec 4)) (r : Option PlumbReq) : Die :=
  if !d.awake then { d with stale := true }
  else
    let mine := world == some d.world
    match d.resync with
    | some x =>
      if !mine then d
      else
        let one := match r with
          | some r => [(n, r)]
          | none => []
        if x.count == 8192 then { d with resync := some ⟨n, one, 1⟩ }
        else { d with resync := some ⟨x.first, x.buffer ++ one, x.count + 1⟩ }
    | none =>
      let d := { d with taken := n }
      match r with
      | some r => if mine then d.applyPlumb r else d
      | none => d

/-- The agent of a Plumb write. -/
def PlumbReq.agent (r : PlumbReq) : Agent :=
  match r.who with
  | some o => o.agent
  | none => .control

/-- What a request's group had learned by it. -/
def State.plumbKnown (s : State) (r : PlumbReq) : List Learned :=
  match r.who with
  | some o => s.order.knownAt o.g false r.seq r.after
  | none => []

/-- A Plumb write enters history (R290): it carries the releases of the fences and of the `plfence` before it, and a
read-modify-write those that it found (R283, R284). Its group has seen it from there on, and what it found where it returns the old
value. -/
def State.plumbHistory (s : State) (stack : Nat) (r : PlumbReq) (old : Word) : State :=
  let loc := plumbLoc stack r.offset
  let found := s.order.saidBefore (granule loc) 0 loc 8
  let fence := match r.marker with
    | some m => s.told (.marker m)
    | none => []
  let tells := fenceReleases (s.plumbKnown r) ++ fence ++ if r.fn == 0 then [] else found
  let n := s.order.count
  let s := (s.wrote loc (leBytes 8 old.toNat)).signed n r.agent none tells
  match r.who with
  | some o => s.learn ⟨o.g, false, r.seq + 1, s.order.count, false, [(granule loc, n + 1)], found, none⟩
  | none => s

/-- An operation's old value goes to its issuer, which emits PLUMB_WRITE (R407, R408). -/
def State.plumbAnswer (s : State) (r : PlumbReq) (old : Word) : State :=
  match r.who with
  | none => s
  | some o =>
    (s.emitO o 0x0C r.fn r.offset).answer o.g r.id old

/-- A boundary of frames with table writes that are to take effect (R403, R405). -/
def Stack.boundary (k : Stack) : Bool := k.slot % 64 == 0 && !(k.satNew.isEmpty && k.pgNew.isEmpty)

/-- PLUMB_SLOT (R402, R406): the slot of this tick is sent and applied. -/
def execPlumbSlot (stack : Nat) (s : State) : Out :=
  let k := s.stack stack
  if 2 ≤ stack || s.clk.tick < k.slot || k.boundary then .next s
  else
    let n := k.slot
    let s := s.setStack stack { k with slot := n + 1 }
    let s := (diesOf stack).foldl (fun s d => s.setDie d (s.pumpPort (s.die d))) s
    let hear (s : State) (world : Option (BitVec 4)) (r : Option PlumbReq) : State :=
      (diesOf stack).foldl (fun s d => s.setDie d ((s.die d).hear n world r)) s
    match s.slotOwner stack n with
    | none => .next (hear s none none)
    | some d =>
      let x := s.die d
      match x.port with
      | [] => .next (hear s (some x.world) none)
      | r :: rest =>
        let old := x.plumbWord r.offset
        let s := (s.setDie d { x with port := rest }).plumbHistory stack r old
        .next ((hear s (some r.world) (some r)).plumbAnswer r old)

-- The tables (R403, R405).

/-- A page grant takes effect: the page reads zero in every replica of its world (R405). -/
def State.grantPage (s : State) (stack p : Nat) (e : Word) : State :=
  if !e.getLsbD 63 then s
  else
    let s := s.wall (plumbLoc stack (0x10000 * p)) 0x10000
    (diesOf stack).foldl (fun s n =>
      let d := s.die n
      if d.awake && d.world.toNat == bits e 51 48 then
        s.setDie n { d with replica := clearRange d.replica (0x10000 * p) 0x10000 }
      else s) s

/-- FRAME_BOUNDARY (R403, R405). -/
def execFrameBoundary (stack : Nat) (s : State) : Out :=
  let k := s.stack stack
  if 2 ≤ stack || !k.boundary || s.clk.tick < k.slot then .next s
  else
    let k' := { k with
      sat := k.satNew.foldl (fun l e => l.set e.1 e.2) k.sat
      pg := k.pgNew.foldl (fun l e => l.set e.1 e.2) k.pg
      satNew := []
      pgNew := [] }
    .next (k.pgNew.foldl (fun s e => s.grantPage stack e.1 e.2) (s.setStack stack k'))

/-- PLSAT_WRITE (R403): the reserved bits of the entry read as zero. -/
def execPlsatWrite (stack entry : Nat) (value : Word) (s : State) : Out :=
  if 2 ≤ stack || 64 ≤ entry then .next s
  else
    let k := s.stack stack
    .next (s.setStack stack { k with satNew := put k.satNew entry (value &&& 0x8F07) })

/-- PLPG_WRITE (R405). -/
def execPlpgWrite (stack entry : Nat) (value : Word) (s : State) : Out :=
  if 2 ≤ stack || 16 ≤ entry then .next s
  else
    let k := s.stack stack
    .next (s.setStack stack { k with pgNew := put k.pgNew entry (value &&& 0x800FFFFF00000000) })

-- Sleep and resync (R412, R413).

/-- A world holds a granted page of a stack's window. -/
def State.worldHoldsPage (s : State) (stack : Nat) (w : BitVec 4) : Bool :=
  (s.stack stack).pg.any fun e => e.getLsbD 63 && bits e 51 48 == w.toNat

/-- The nearest awake layer of a die's world whose replica is current, looking below before above (R413). -/
def State.snapshotSource (s : State) (die : Nat) : Option Nat :=
  let st := stackOf die
  let l := die % 8
  let order := (List.range 8).flatMap fun k =>
    if k == 0 then [] else (if k ≤ l then [8 * st + l - k] else []) ++ (if l + k < 8 then [8 * st + l + k] else [])
  order.find? fun n => (s.die n).awake && !(s.die n).stale && (s.die n).world == (s.die die).world

/-- A die that wakes starts to resync with the next slot of its stack; its replica is zeroed and current at once where its
world holds no page (R413). -/
def State.startResync (s : State) (die : Nat) : State :=
  let d := s.die die
  let k := s.stack (stackOf die)
  if s.worldHoldsPage (stackOf die) d.world then
    s.setDie die { d with stale := true, resync := some ⟨k.slot, [], 0⟩ }
  else (s.wall (plumbLoc (stackOf die) 0) 0x100000).setDie die { d with
    stale := false, resync := none, replica := [], taken := k.slot - 1 }

/-- SNAPSHOT_INSTALL (R413): a snapshot that the source took after the last slot, which the buffered slots precede. A die
with no layer to ask finds its world's pages as their grant left them, zero (log entry 17). -/
def execSnapshotInstall (die : Nat) (s : State) : Out :=
  let d := s.die die
  let n := (s.stack (stackOf die)).slot
  match d.resync with
  | none => .next s
  | some x =>
    if !d.awake || n ≤ x.first then .next s
    else
      let rep := match s.snapshotSource die with
        | some y => (s.die y).replica
        | none => []
      .next ((s.wall (plumbLoc (stackOf die) 0) 0x100000).setDie die { d with
        stale := false, resync := none, replica := rep, taken := n - 1 })

end Sys2Proof.Machine
end

