-- ==== Sys2Proof/Machine/Trigger.lean ====
section
/-! DEFINITION. Trigger automata: the order of steps (R378, R383 to R387), tables (R388 to R390), stepping (R391, R392),
acceptance (R393 to R395) and the words `evt`, `tarm` and `tdisarm` (R397 to R399). -/

namespace Sys2Proof.Machine

open Sys2Proof

-- Tables (R388 to R390, R393).

/-- The class of every event but TIMER (R380, R389). -/
def eventClass (c : Nat) : Bool := 1 ≤ c && c ≤ 0x19 && c != 0x18

/-- The bytes of matcher, row and watch entry `i`. -/
def matcherBytes (t : List Byte) (i : Nat) : List Byte := (t.drop (0x40 + 32 * i)).take 32
def rowOf (t : List Byte) (i : Nat) : Nat := field t (0x140 + 16 * i) 16
def watchBytes (t : List Byte) (i : Nat) : List Byte := (t.drop (0x540 + 16 * i)).take 16

/-- Bits [hi:lo] of a row. -/
def rowBits (r hi lo : Nat) : Nat := r / 2 ^ lo % 2 ^ (hi + 1 - lo)

/-- The counts NSTATE, NROW, NMATCH and NWATCH, and START, ACCMASK and ACTION (R388). -/
def tabStates (t : List Byte) : Nat := field t 1 1
def tabRows (t : List Byte) : Nat := field t 2 1
def tabMatchers (t : List Byte) : Nat := field t 3 1
def tabWatches (t : List Byte) : Nat := field t 4 1
def tabStart (t : List Byte) : Nat := field t 5 1
def tabAccMask (t : List Byte) : Nat := field t 6 2
def tabAction (t : List Byte) : Word := word (field t 8 8)

/-- Every index below `n` from `lo` on. -/
def indices (lo n : Nat) : List Nat := (List.range n).filter fun i => decide (lo ≤ i)

/-- Reason 1 for a row: an invalid coding (R390, R398). -/
def rowCoded (r : Nat) : Bool :=
  let top := rowBits r 54 53
  rowBits r 127 96 != 0 || rowBits r 63 59 != 0 || rowBits r 58 57 == 3 || top == 3
    || (top == 1) != (rowBits r 95 64 != 0) || (rowBits r 11 11 == 1 && rowBits r 10 9 != 0)

/-- Reason 1 (R398): a reserved field or bit, VER, a MODE code or a row field with an invalid coding. -/
def tableCoded (t : List Byte) : Bool :=
  field t 0 1 != 1 || field t 0x10 48 != 0 || bits (tabAction t) 63 28 != 0
    || ((indices (tabMatchers t) 8).any fun i => field (matcherBytes t i) 0 32 != 0)
    || ((List.range (min (tabMatchers t) 8)).any fun i =>
      let m := matcherBytes t i
      16 ≤ field m 1 1 || field m 1 1 % 4 == 3 || field m 6 2 != 0 || field m 12 4 != 0 || field m 24 8 != 0)
    || ((indices (tabRows t) 64).any fun i => rowOf t i != 0)
    || ((List.range (min (tabRows t) 64)).any fun i => rowCoded (rowOf t i))
    || ((indices (tabWatches t) 8).any fun i => field (watchBytes t i) 0 16 != 0)
    || ((List.range (min (tabWatches t) 8)).any fun i => field (watchBytes t i) 14 2 != 0)

/-- Reason 2 (R398): a count, START, a state or a matcher index. -/
def tableCounts (t : List Byte) : Bool :=
  let n := tabStates t
  n == 0 || 16 < n || tabRows t == 0 || 64 < tabRows t || 8 < tabMatchers t || 8 < tabWatches t || n ≤ tabStart t
    || (List.range (min (tabRows t) 64)).any fun i =>
      let r := rowOf t i
      n ≤ rowBits r 3 0 || n ≤ rowBits r 7 4 || (rowBits r 11 11 == 0 && tabMatchers t ≤ rowBits r 10 8)

/-- Reason 3 (R398): a class. -/
def tableClass (t : List Byte) : Bool :=
  (List.range (min (tabMatchers t) 8)).any fun i => !eventClass (field (matcherBytes t i) 0 1)

/-- The comparators that a table names. -/
def tabComps (t : List Byte) : List Nat := (List.range (min (tabWatches t) 8)).map fun i => field (watchBytes t i) 12 1

/-- Reason 4 (R398): a watch entry. -/
def tableWatch (t : List Byte) : Bool :=
  ((List.range (min (tabWatches t) 8)).any fun i =>
    let w := watchBytes t i
    field w 8 4 == 0 || 7 < field w 12 1 || 7 < field w 13 1) || (tabComps t).eraseDups.length != (tabComps t).length

/-- Reason 5 (R393, R398): ACTION. -/
def tableAction (t : List Byte) : Bool :=
  let a := tabAction t
  bits a 10 8 != 0 || (bits a 27 8 != 0 && bits a 5 4 != 3)

/-- The lowest reason for which a table is invalid, none for a valid one. -/
def tableReason (t : List Byte) : Option Nat :=
  if tableCoded t then some 1
  else if tableCounts t then some 2
  else if tableClass t then some 3
  else if tableWatch t then some 4
  else if tableAction t then some 5
  else none

-- Arming (R382, R392, R398).

/-- The unit's own counter (R378): its die's, or the floor die's for the package unit. -/
def State.unitNow (s : State) (unit : Nat) : Word := s.meridian unit

/-- Automaton `a` of a unit. -/
def State.automaton (s : State) (unit a : Nat) : Option Automaton := ((s.unit unit).autos.getD a none)

/-- A unit with an automaton replaced. -/
def State.setAutomaton (s : State) (unit a : Nat) (x : Option Automaton) : State :=
  let u := s.unit unit
  s.setUnit unit { u with autos := u.autos.set a x }

/-- The units whose comparators lie on a core that a unit's automata load: its own and the package unit's, or every one. -/
def sharingUnits (unit : Nat) : List Nat := if unit == 16 then List.range 17 else [unit, 16]

/-- A comparator of a table belongs to another armed automaton. -/
def State.compsTaken (s : State) (unit : Nat) (t : List Byte) : Bool :=
  (sharingUnits unit).any fun u => (s.unit u).autos.any fun x =>
    match x with
    | some x => (tabComps x.table).any fun c => (tabComps t).contains c
    | none => false

/-- The comparators of a table. -/
def watchesOf (unit auto : Nat) (owner : Option Nat) (t : List Byte) : List Watch :=
  (List.range (min (tabWatches t) 8)).map fun i =>
    let w := watchBytes t i
    let m := field w 13 1
    ⟨field w 12 1, unit, auto, owner, m / 4 % 2 == 1, field w 0 8, field w 8 4, m % 2 == 1, m / 2 % 2 == 1⟩

/-- The cores of a unit's scope. -/
def unitCores (unit : Nat) : List Nat := if unit == 16 then List.range 2048 else (List.range 128).map fun i => 128 * unit + i

/-- Comparators loaded into every core of a unit's scope. -/
def State.loadWatches (s : State) (unit : Nat) (ws : List Watch) : State :=
  if ws.isEmpty then s
  else (unitCores unit).foldl (fun s n => let c := s.core n; s.setCore n { c with watches := c.watches ++ ws }) s

/-- An automaton is disarmed and its comparators are freed (R399). -/
def State.disarm (s : State) (unit a : Nat) : State :=
  let s := s.setAutomaton unit a none
  { s with cores := s.cores.map fun c =>
    (c.1, { c.2 with watches := c.2.watches.filter fun w => !(w.unit == unit && w.auto == a) }) }

/-- The arm stamp of a unit (R398): its comparators are loaded and its automaton armed at a moment that every counter it listens to
has a stamp for, so the latest of them is taken, and no event after it has been recorded yet (DEDUCED, log entry 45). -/
def State.armStamp (s : State) (unit : Nat) : Nat :=
  (listened unit).foldl (fun m d => max m (s.meridian d).toNat) (s.unitNow unit).toNat

/-- The unit's answer to an arming (R398), with the state after it. -/
def State.arm (s : State) (unit a : Nat) (owner : Option Nat) (t : List Byte) : Word × State :=
  if (s.automaton unit a).isSome then (1, s)
  else
    match tableReason t with
    | some r => (word (2 + 256 * r), s)
    | none =>
      if s.compsTaken unit t then (3, s)
      else
        let now := s.armStamp unit
        let x : Automaton := ⟨t, owner, now, tabStart t, List.replicate 4 0, List.replicate 4 0, [none, none], 0, false, none⟩
        (word (now % 2 ^ 32 * 2 ^ 32), (s.setAutomaton unit a (some x)).loadWatches unit (watchesOf unit a owner t))

/-- The unit that a control word names (R398). -/
def controlUnit (g : Group) (x : Word) : Nat := if x.getLsbD 2 then 16 else g.die

/-- `tarm` (R398). -/
def execTarm (d a b : BitVec 6) (s : State) : Out :=
  scalarWord (.tarm d a b) true [sReg d, sReg a, sReg b]
    (fun s g h =>
      let x := g.getS b
      if bits x 63 3 != 0 then s.trapScalar g 0x01 (illegalWord h (.tarm d a b))
      else
        match s.readRecord g (g.getS a) 1472 128 with
        | .error s => s
        | .ok (s, t) => s.park g h (.tarm (sReg d) (controlUnit g x) (bits x 1 0) t)) s

/-- TARM_ANSWER (R398). -/
def execTarmAnswer (g : Nat) (s : State) : Out :=
  groupStep g (fun _ g => g.life == .resident && g.sc.entry.isNone)
    (fun s g =>
      match g.sc.wait with
      | .tarm d unit a t =>
        let (w, s) := s.arm unit a (some g.place.ctx) t
        s.complete (g.deferValue d w)
      | _ => s) s

/-- `tdisarm` (R399): the result returns once every event up to the disarm stamp has been stepped. -/
def execTdisarm (d a : BitVec 6) (s : State) : Out :=
  scalarWord (.tdisarm d a) true [sReg d, sReg a]
    (fun s g h =>
      let x := g.getS a
      if bits x 63 3 != 0 then s.trapScalar g 0x01 (illegalWord h (.tdisarm d a))
      else
        let unit := controlUnit g x
        let n := bits x 1 0
        match s.automaton unit n with
        | none => s.writeLater g h (sReg d) 1
        | some y =>
          if y.owner != some g.place.ctx || y.ending.isSome then s.writeLater g h (sReg d) 1
          else
            let (id, s) := s.fresh
            let s := s.setAutomaton unit n (some { y with ending := some ⟨(s.unitNow unit).toNat, some (g.uid, id)⟩ })
            s.retire (g.defer ⟨sReg d, id, .ext 8 false, g.sc.spc, none, none, none⟩) h (g.sc.spc + 4)) s

/-- `evt` (R397). -/
def execEvt (a b : BitVec 6) (s : State) : Out :=
  scalarWord (.evt a b) false [sReg a, sReg b]
    (fun s g h => (s.emitG g 0x10 (bits (g.getS b) 15 0) (bits (g.getS a) 31 0)).retire g h (g.sc.spc + 4)) s

-- The order of steps (R378, R383 to R387).

/-- Every source that the unit listens to has promised no further event at or before a stamp; a sleeping die has sent its
final watermark (R383). -/
def State.markedPast (s : State) (unit stamp : Nat) : Bool :=
  (listened unit).all fun d => (d != 16 && !(s.die d).awake) || decide (stamp < look 0 (s.unit unit).marks d)

/-- The first event of a unit in the order of R385: its place in the queue and its extended stamp. -/
def State.firstEvent (s : State) (unit : Nat) : Option (Nat × Nat × TEvent) :=
  let u := s.unit unit
  let now := (s.unitNow unit).toNat
  ((List.range u.queue.length).zip u.queue).foldl (fun b p =>
    let x := (p.1, extendStamp now p.2.stamp, p.2)
    match b with
    | none => some x
    | some y =>
      if x.2.1 < y.2.1 || (x.2.1 == y.2.1 && x.2.2.src.toNat < y.2.2.src.toNat) then some x else some y) none

/-- The first TIMER event of a unit: its stamp, automaton and timer. -/
def State.firstTimer (s : State) (unit : Nat) : Option (Nat × Nat × Nat) :=
  let ts := (List.range 4).flatMap fun a =>
    match s.automaton unit a with
    | none => []
    | some x => (List.range 2).filterMap fun j => (x.tm.getD j none).map fun t => (t, a, j)
  ts.foldl (fun b x =>
    match b with
    | none => some x
    | some y => if x.1 < y.1 then some x else some y) none

-- Stepping (R389 to R392).

/-- A matcher matches an event (R389). -/
def matcherTakes (x : Automaton) (m : List Byte) (e : TEvent) : Bool :=
  let lo := field m 0x10 4
  let hi := field m 0x14 4
  let p := e.payload.toNat
  let c := bits (x.cap.getD (field m 1 1 / 4 % 4) 0) 31 0
  field m 0 1 == e.cls.toNat && (e.src &&& BitVec.ofNat 16 (field m 10 2)).toNat == field m 8 2
    && (e.tag &&& BitVec.ofNat 16 (field m 4 2)).toNat == field m 2 2
    && match field m 1 1 % 4 with
      | 1 => decide (lo ≤ p) && decide (p ≤ hi)
      | 2 => decide (c + lo ≤ p) && decide (p ≤ c + hi)
      | _ => true

/-- The guard of a row (R390). -/
def guardHolds (x : Automaton) (r : Nat) : Bool :=
  let c := (x.cn.getD (rowBits r 13 12) 0).toNat
  let k := rowBits r 47 16
  match rowBits r 15 14 with
  | 1 => c == k
  | 2 => decide (k ≤ c)
  | 3 => decide (c < k)
  | _ => true

/-- The trigger of a row: a TIMER event of this automaton, or an event that its matcher takes. -/
def rowTakes (x : Automaton) (r : Nat) (e : TEvent) (timer : Option Nat) : Bool :=
  rowBits r 3 0 == x.state && guardHolds x r &&
    match timer with
    | some j => rowBits r 11 11 == 1 && rowBits r 8 8 == j
    | none => rowBits r 11 11 == 0 && matcherTakes x (matcherBytes x.table (rowBits r 10 8)) e

/-- The row that takes an event (R391). -/
def rowFor (x : Automaton) (e : TEvent) (timer : Option Nat) : Option Nat :=
  ((List.range (tabRows x.table)).map fun i => rowOf x.table i).find? fun r => rowTakes x r e timer

/-- An automaton after a row took an event of stamp `t` (R390, R392). -/
def applyRow (x : Automaton) (r : Nat) (e : TEvent) (t : Nat) : Automaton :=
  let ci := rowBits r 49 48
  let c := x.cn.getD ci 0
  let cn := match rowBits r 51 50 with
    | 1 => x.cn.set ci (if c = 0xFFFFFFFF then c else c + 1)
    | 2 => x.cn.set ci 0
    | 3 => x.cn.set ci (if c = 0 then 0 else c - 1)
    | _ => x.cn
  let tm := match rowBits r 54 53 with
    | 1 => x.tm.set (rowBits r 52 52) (some (t + rowBits r 95 64))
    | 2 => x.tm.set (rowBits r 52 52) none
    | _ => x.tm
  let cap := match rowBits r 58 57 with
    | 1 => x.cap.set (rowBits r 56 55) (word (t % 2 ^ 32 * 2 ^ 32 + e.payload.toNat))
    | 2 => x.cap.set (rowBits r 56 55) (word (e.cls.toNat * 2 ^ 48 + e.src.toNat * 2 ^ 32 + e.tag.toNat * 2 ^ 16))
    | _ => x.cap
  { x with state := rowBits r 7 4, cn := cn, tm := tm, cap := cap }

-- Acceptance (R393 to R396).

/-- A sample record (R395). -/
def sampleBytes (unit a : Nat) (x : Automaton) (e : TEvent) (t : Nat) (holdover : Bool) : List Byte :=
  let left (j : Nat) : Nat := match x.tm.getD j none with
    | some d => d - t
    | none => 0
  leBytes 8 t ++ leBytes 1 e.cls.toNat ++ leBytes 1 ((if unit == 16 then 4 else 0) + a) ++ leBytes 2 e.src.toNat
    ++ leBytes 2 e.tag.toNat ++ leBytes 1 x.state
    ++ leBytes 1 ((if x.lostord then 1 else 0) + (if e.src.getLsbD 11 then 2 else 0) + (if holdover then 4 else 0))
    ++ leBytes 4 e.payload.toNat ++ leBytes 4 x.nacc.toNat ++ x.cn.flatMap (fun c => leBytes 4 c.toNat)
    ++ leBytes 4 (left 0) ++ leBytes 4 (left 1) ++ x.cap.flatMap (fun c => leBytes 8 c.toNat) ++ leBytes 48 0

/-- A record is written to the ring of 512; one that it replaces sets WRAP if it has not been read (R395, R396). -/
def TrigUnit.sample (u : TrigUnit) (bs : List Byte) : TrigUnit :=
  { u with
    wrap := u.wrap || (u.samples.any fun r => r.1 == u.swidx) && !u.read.contains u.swidx
    samples := put u.samples u.swidx bs
    read := u.read.filter (fun n => n != u.swidx)
    swidx := (u.swidx + 1) % 512 }

/-- The core of an event's source, for one that is a group (R379). -/
def TEvent.core (e : TEvent) : Nat := 128 * bits e.src 15 12 + bits e.src 10 4

/-- Whether a group lies in the scope of a STOP (R394). The source group, its team and its core are those of the event, wherever
the group is now. -/
def inStopScope (scope : Nat) (e : TEvent) (g : Group) : Bool :=
  match scope with
  | 1 => e.group.any fun x => x.1 == g.uid
  | 2 => e.group.any fun x => x.2 == g.place.team
  | 3 => e.group.isSome && e.core == g.place.core
  | 4 => bits e.src 15 12 == g.die
  | 5 => stackOf (bits e.src 15 12) == stackOf g.die
  | _ => true

/-- The ticks after the accepting stamp within which the groups of a STOP's scope have stopped (R394). -/
def stopTicks (unit scope : Nat) : Nat := if unit == 16 || decide (5 ≤ scope) then 112 else 40

/-- A STOP of the accept of an event of stamp `t` is sent to the groups of its scope, as GCTL STOP stops one (R394, R361). -/
def State.stopScope (s : State) (unit : Nat) (x : Automaton) (scope : Nat) (e : TEvent) (t : Nat) : State :=
  if scope == 0 then s
  else
    (s.groups.filter fun g => g.life == .resident && (x.owner.isNone || x.owner == some g.place.ctx)
      && inStopScope scope e g).foldl (fun s g =>
      match s.group? g.uid with
      | some g => if g.life == .resident then s.sendStop g ⟨false, .stamp t, x.lostord⟩ (stopTicks unit scope) else s
      | none => s) s

/-- The ports that take a SIG 3 write (R393). -/
def State.signalPorts (s : State) (unit ctx : Nat) (world : BitVec 4) (off : Nat) : List Nat :=
  if unit != 16 then [unit]
  else [0, 1].filterMap fun k =>
    if s.holdsPage k ctx (off / 65536) then
      (diesOf k).find? fun d => (s.die d).awake && (s.die d).world == world
    else none

/-- SIGNAL of an accept at stamp `t` (R393). An automaton armed with ALLCTX has no context whose world and pages a Plumb
write could use, and makes none (log entry 18). -/
def State.signal (s : State) (unit a : Nat) (x : Automaton) (t : Nat) : State :=
  let act := tabAction x.table
  match bits act 5 4 with
  | 1 => s.send (.controlInterrupt "trigger" unit a 0)
  | 2 => s.send (.hostInterrupt unit a)
  | 3 =>
    match x.owner.bind s.ctx? with
    | none => s
    | some c =>
      let off := bits act 27 8
      (s.signalPorts unit c.spec.number c.spec.world off).foldl (fun s d =>
        let (id, s) := s.fresh
        let r : PlumbReq := ⟨none, id, 0, 0, c.spec.world, off, 0, word (t % 2 ^ 32 * 2 ^ 32 + x.nacc.toNat), 0,
          if unit == 16 then unitSource 0 7 a else unitSource unit 3 a, none⟩
        s.setDie d (s.joinPort (s.die d) r)) s
  | _ => s

/-- TRAP of an accept: an async BKPT of the source group, evicted or not (R393). -/
def State.trapSource (s : State) (x : Automaton) (e : TEvent) : State :=
  if !(tabAction x.table).getLsbD 6 then s
  else
    match e.group.bind fun x => s.group? x.1 with
    | none => s
    | some g => s.setGroup (g.addAsync ⟨0x0A, false, 0, 0, 0, false⟩)

/-- The result of a disarming, to the group or to the management interface that waits for it (R399). -/
def State.answerDisarm (s : State) (waits : Option (Nat × Nat)) (x : Word) : State :=
  match waits with
  | some (g, id) => s.answer g id x
  | none => s.send (.managementWord x)

/-- An automaton accepts (R393): SAMPLE, STOP, SIGNAL, TRAP, and then ONESHOT. -/
def State.accept (s : State) (unit a : Nat) (x : Automaton) (e : TEvent) (t : Nat) : State :=
  let act := tabAction x.table
  let x := { x with nacc := x.nacc + 1 }
  let s := s.setAutomaton unit a (some x)
  let u := s.unit unit
  let u := { u with acc := u.acc ||| (1#4 <<< a) }
  let u := if act.getLsbD 3 then u.sample (sampleBytes unit a x e t s.clk.lost.isSome) else u
  let s := (s.setUnit unit u).stopScope unit x (bits act 2 0) e t
  let s := (s.signal unit a x t).trapSource x e
  if !act.getLsbD 7 then s
  else
    match x.ending with
    | some d => (s.disarm unit a).answerDisarm d.waits 1
    | none => s.disarm unit a

/-- Whether an automaton receives a real event (R381, R398, R399). -/
def Automaton.receives (x : Automaton) (e : TEvent) (t : Nat) : Bool :=
  decide (x.stampAt < t)
    && (match x.ending with
      | some d => decide (t ≤ d.stamp)
      | none => true)
    && match x.owner with
      | none => true
      | some c => e.ctxs.contains c

/-- An automaton steps an event (R391); an OVERFLOW event sets its LOSTORD state (R387). -/
def State.stepAutomaton (s : State) (unit a : Nat) (x : Automaton) (e : TEvent) (t : Nat) (timer : Option Nat) : State :=
  let x := if e.cls == 0x19 then { x with lostord := true } else x
  match rowFor x e timer with
  | none => s.setAutomaton unit a (some x)
  | some r =>
    let x := applyRow x r e t
    if (tabAccMask x.table).testBit x.state then s.accept unit a x e t else s.setAutomaton unit a (some x)

/-- The disarmings of a unit whose last event has been stepped end (R399): nothing at or before the disarm stamp is left. -/
def State.finishDisarms (s : State) (unit : Nat) : State :=
  (List.range 4).foldl (fun s a =>
    match s.automaton unit a with
    | none => s
    | some x =>
      match x.ending with
      | none => s
      | some d =>
        let left := (match s.firstEvent unit with
          | some (_, t, _) => decide (t ≤ d.stamp)
          | none => false) || x.tm.any fun t => t.any fun t => decide (t ≤ d.stamp)
        if left || !s.markedPast unit d.stamp then s
        else (s.disarm unit a).answerDisarm d.waits (word (x.nacc.toNat * 2 ^ 32))) s

/-- EVENT_STEP (R383, R385, R391): the unit's first event is stepped, once no earlier one can come and no timer is due before
it. -/
def execEventStep (unit : Nat) (s : State) : Out :=
  match s.firstEvent unit with
  | none => .next (s.finishDisarms unit)
  | some (i, t, e) =>
    let timerFirst := match s.firstTimer unit with
      | some (d, _, _) => decide (d < t)
      | none => false
    if timerFirst || !s.markedPast unit t then .next (s.finishDisarms unit)
    else
      let u := s.unit unit
      let s := s.setUnit unit { u with queue := u.queue.eraseIdx i }
      .next (((List.range 4).foldl (fun s a =>
        match s.automaton unit a with
        | some x => if x.receives e t then s.stepAutomaton unit a x e t none else s
        | none => s) s).finishDisarms unit)

/-- TIMER (R385, R392): the TIMER event of a timer follows every real event of its tick. -/
def execTimer (unit a j : Nat) (s : State) : Out :=
  match s.firstTimer unit with
  | none => .next s
  | some (t, a', j') =>
    let realFirst := match s.firstEvent unit with
      | some (_, u, _) => decide (u ≤ t)
      | none => false
    if a != a' || j != j' || realFirst || !s.markedPast unit t then .next s
    else
      match s.automaton unit a with
      | none => .next s
      | some x =>
        let x := { x with tm := x.tm.set j none }
        let src := if unit == 16 then unitSource 0 7 a else unitSource unit 3 a
        let e : TEvent := ⟨0x18, src, BitVec.ofNat 16 j, 0, BitVec.ofNat 32 t, none, []⟩
        let late := match x.ending with
          | some d => decide (d.stamp < t)
          | none => false
        if late then .next ((s.setAutomaton unit a (some x)).finishDisarms unit)
        else .next ((s.stepAutomaton unit a x e t (some j)).finishDisarms unit)

/-- WATERMARK (R383): the sources of a die promise that no later event is stamped before the die's counter, or before the
first event that one of them has dropped (R387). -/
def execWatermark (unit source : Nat) (s : State) : Out :=
  let u := s.unit unit
  if !(listened unit).contains source then .next s
  else
    let now := (s.meridian source).toNat
    let dieOfRank (r : Nat) : Nat := if (BitVec.ofNat 16 r).getLsbD 11 && (BitVec.ofNat 16 r).getLsbD 10 then 16 else r / 4096
    let w := (u.lost.filter fun l => dieOfRank l.1.src.toNat == source).foldl (fun m l => min m (extendStamp now l.1.stamp)) now
    .next ((s.setUnit unit { u with marks := put u.marks source (max w (look 0 u.marks source)) }).finishDisarms unit)

/-- OVERFLOW (R387). -/
def execOverflow (unit source : Nat) (s : State) : Out :=
  let u := s.unit unit
  match u.lost.find? fun l => l.1.src.toNat == source with
  | none => .next s
  | some (f, n) =>
    if 64 ≤ (u.queue.filter fun x => x.src == f.src).length then .next s
    else
      let e : TEvent := { f with cls := 0x19, tag := BitVec.ofNat 16 (sat16 n), payload := f.src.setWidth 32 }
      .next (s.setUnit unit { u with lost := u.lost.filter (fun l => l.1.src != f.src), queue := u.queue ++ [e] })

/-- TUSTAT_CLEAR (R396): ACC and WRAP are cleared where a one is written. -/
def execTustatClear (unit : Nat) (value : Word) (s : State) : Out :=
  let u := s.unit unit
  let acc := u.acc &&& ~~~(BitVec.ofNat 4 (bits value 7 4))
  .next (s.setUnit unit (if value.getLsbD 8 then { u with acc := acc, wrap := false, read := [] } else { u with acc := acc }))

end Sys2Proof.Machine
end

