-- ==== Sys2Proof/Machine/Seal.lean ====
section
/-! DEFINITION. The seal words (R449, R450). -/

namespace Sys2Proof.Machine

open Sys2Proof

/-- A seal that a group holds (R449). -/
def State.sealOf (s : State) (g : Group) (n : Word) : Option Seal :=
  s.tramir.seals.find? fun l => l.n == n.toNat && l.g == g.uid

/-- The lowest free seal, none where the group holds four or none is free. -/
def State.freeSeal (s : State) (g : Group) : Option Nat :=
  if 4 ≤ (s.tramir.seals.filter fun l => l.g == g.uid).length then none
  else (List.range 256).find? fun n => !(s.tramir.seals.any fun l => l.n == n)

/-- A SEAL event of Tramir (R380). -/
def State.emitSeal (s : State) (tag n ctx : Nat) : State := s.emit 0x17 (unitSource 0 6 0) tag n ctx 16

/-- The handle of a group's grid. -/
def State.gridHandle (s : State) (g : Group) : Word :=
  match s.grid? g.place.grid with
  | some t => t.handle
  | none => 0

/-- `sopen` (R449). -/
def execSopen (d a b : BitVec 6) (s : State) : Out :=
  scalarWord (.sopen d a b) false [sReg d, sReg a, sReg b]
    (fun s g h =>
      let x := g.getS a
      let record := g.getS b
      if bits x 63 8 != 0 || bits x 3 2 != 0 || 1 < bits x 1 0 then s.trapScalar g 0x01 (illegalWord h (.sopen d a b))
      else
        match s.globalAccess g record 4096 .store with
        | .error s => s
        | .ok _ =>
          if g.idem then s.trapScalar g 0x0B 0
          else
            let g := { g with used := true }
            match s.freeSeal g with
            | none => s.writeLater g h (sReg d) 0x8000000000000001
            | some n =>
              if !Config.keySlot (bits x 7 4) then s.writeLater g h (sReg d) 0x8000000000000002
              else
                let l : Seal := ⟨n, g.uid, g.place.ctx, s.gridHandle g, g.place.gser, bits x 1 0, bits x 7 4, record, [], none⟩
                let s := { s with tramir := { s.tramir with seals := s.tramir.seals ++ [l] } }
                (s.emitSeal 0 n g.place.ctx).writeLater g h (sReg d) (word n)) s

/-- `sadd` (R449). -/
def execSadd (d a b : BitVec 6) (s : State) : Out :=
  scalarWord (.sadd d a b) false [sReg d, sReg a, sReg b]
    (fun s g h =>
      let n := (g.getS b).toNat
      match s.sealOf g (g.getS d) with
      | none => s.trapScalar g 0x11 (g.getS d)
      | some l =>
        if 2 ^ 32 < n then s.trapScalar g 0x01 (illegalWord h (.sadd d a b))
        else if g.idem then s.trapScalar g 0x0B 0
        else
          let l := if n == 0 then l else { l with ranges := l.ranges ++ [(g.getS a, n)] }
          let s := { s with tramir := { s.tramir with
            seals := s.tramir.seals.map fun (x : Seal) => if x.n == l.n then l else x } }
          (s.emitSeal 1 l.n g.place.ctx).retire { g with used := true } h (g.sc.spc + 4)) s

/-- `sclose` (R449). -/
def execSclose (d a : BitVec 6) (s : State) : Out :=
  scalarWord (.sclose d a) false [sReg d, sReg a]
    (fun s g h =>
      match s.sealOf g (g.getS a) with
      | none => s.trapScalar g 0x11 (g.getS a)
      | some l =>
        if g.idem then s.trapScalar g 0x0B 0
        else s.park { g.nextSeq with used := true } h (.sclose (sReg d) l.n g.seq)) s

/-- The lines of a record leave the near cache of the core that acquires it, and the group has seen its bytes (R449, R291). -/
def State.acquireRecord (s : State) (g : Group) (va : Word) (n : Nat) : State :=
  match s.walk g.place.ctx va with
  | .leaf l =>
    let s := s.learnSeen g false ((granulesAt (l.phys va) n).map fun x => (x, s.order.stampBefore x 0)) []
    s.setCore g.place.core ((s.core g.place.core).dropNear (l.phys va) n)
  | _ => s

/-- An `sclose` has waited on a held PTE for 2^26 clocks (R246). -/
def Seal.timedOut (l : Seal) (now : Nat) : Bool :=
  match l.since with
  | some n => decide (n + 2 ^ 26 ≤ now)
  | none => false

/-- An `sclose` meets a held PTE and waits (R246). -/
def State.sealHeld (s : State) (l : Seal) : State :=
  { s with tramir := { s.tramir with
    seals := s.tramir.seals.map fun (x : Seal) => if x.n == l.n then { x with since := some (x.since.getD s.now) } else x } }

/-- SCLOSE_COMPLETE (R449, R450): the ranges are hashed once what precedes them is performed, and the record is written. A held
PTE (R246) or a die that sleeps (R412) makes it wait; a record that cannot be written is not (log entry 31). -/
def execScloseComplete (g : Nat) (s : State) : Out :=
  groupStep g (fun _ g => g.life == .resident && g.sc.entry.isNone)
    (fun s g =>
      match g.sc.wait with
      | .sclose d n seq =>
        if s.earlierPending g.uid seq then s
        else
          match s.tramir.seals.find? fun l => l.n == n with
          | none => s
          | some l =>
            let timedOut := l.timedOut s.now
            match s.sealRead g.die l.ctx (s.worldOf g) l.ranges with
            | (s, _, some .asleep) => s
            | (s, data, e) =>
              if e == some .held && !timedOut then s.sealHeld l
              else
                let status := if e.isSome then 2 else 0
                match s.recordWrite timedOut g.die l.ctx (s.worldOf g) l.record (s.sealBytes l status data) with
                | (s, .waits held) => if held then s.sealHeld l else s
                | (s, _) => ((s.sealFree l status).acquireRecord g l.record 4096).complete (g.deferValue d (word status))
      | _ => s) s

end Sys2Proof.Machine
end

