-- ==== Sys2Proof/Machine/Stream.lean ====
section
/-! DEFINITION. The steps that end what a group's two streams wait for: results (R17 to R19, R174 to R176), trap entry (R26,
R350, R351), lane blocks and regang (R108 to R113, R146, R147, R152), and the ends of sys words and fences. -/

namespace Sys2Proof.Machine

open Sys2Proof

-- Results.

/-- The error report of data that cannot be corrected. -/
def BadData.report (b : BadData) (core : Nat) : ErrorReport :=
  if b.scratch then poolReport core b.place else sectorReport b.place

/-- SCALAR_RESULT_WRITE (R17): result `k` of a group has returned and is written. Poisoned data kills the group (R374); with
a tag mismatch the register keeps its value and INTEG waits (R349, R350). -/
def execScalarResultWrite (g k : Nat) (s : State) : Out :=
  groupStep g (fun _ _ => true)
    (fun s g =>
      match g.sc.outst[k]? with
      | none => s
      | some r =>
        match r.value with
        | none => s
        | some x =>
          let g := { g with sc := { g.sc with outst := g.sc.outst.eraseIdx k } }
          match r.poison, r.integ with
          | some b, _ => s.kill g false r.pc b.va (b.report g.place.core)
          | none, some a => s.setGroup (g.addAsync ⟨0x13, false, a, 0, 0, false⟩)
          | none, none => s.setGroup (g.setReg r.reg (r.post.apply x.toNat))) s

/-- The value of a piece in its place. -/
def LanePiece.placed (p : LanePiece) : BitVec 128 :=
  match p.value with
  | none => 0
  | some x =>
    match p.post with
    | .ext 16 _ => x
    | _ => (p.post.apply x.toNat).setWidth 128 <<< p.shift

/-- The lanes of a result. -/
def LaneResult.lanes (r : LaneResult) : List Nat := (r.pieces.map fun p => p.lane).eraseDups

/-- A lane's value. -/
def LaneResult.laneValue (r : LaneResult) (i : Nat) : BitVec 128 :=
  (r.pieces.filter fun p => p.lane == i).foldl (fun x p => x ||| p.placed) 0

/-- Whether a lane's data failed its tag (R349). -/
def LaneResult.failed (r : LaneResult) (i : Nat) : Bool := r.pieces.any fun p => p.lane == i && p.integ.isSome

/-- The registers of every lane whose data is sound written. -/
def Lanes.writeResult (l : Lanes) (r : LaneResult) : Lanes :=
  (r.lanes.filter fun i => !r.failed i).foldl (fun l i => l.writeWide r.handler r.reg i (r.laneValue i) r.count) l

/-- LANE_RESULT_WRITE (R174): result `k` of a group's lane unit has returned whole and is written. -/
def execLaneResultWrite (g k : Nat) (s : State) : Out :=
  groupStep g (fun _ _ => true)
    (fun s g =>
      match g.ln.outst[k]? with
      | none => s
      | some r =>
        if r.pieces.any fun p => p.value.isNone then s
        else
          let g := { g with ln := { g.ln with outst := g.ln.outst.eraseIdx k } }
          match r.pieces.findSome? fun p => p.poison with
          | some b => s.kill g true (r.lpc.setWidth 64) b.va (b.report g.place.core)
          | none =>
            let g := { g with ln := g.ln.writeResult r }
            match r.pieces.findSome? fun p => p.integ with
            | none => s.setGroup g
            | some a => s.setGroup (g.addAsync ⟨0x13, true, a, maskOf r.failed, r.lpc, false⟩)) s

/-- HOLD_PARK_COMPLETE (R19): pending bits clear and the stream resumes. -/
def execHoldParkComplete (g : Nat) (s : State) : Out :=
  groupStep g (fun _ g => g.life == .resident && g.sc.wait == .hold && g.sc.outst.isEmpty)
    (fun s g => s.setGroup { g with sc := { g.sc with pend := 0, wait := .ready } }) s

/-- LANE_HOLD_COMPLETE (R176). -/
def execLaneHoldComplete (g : Nat) (s : State) : Out :=
  groupStep g (fun _ g => g.laneRuns && g.ln.wait == .hold && g.ln.outst.isEmpty)
    (fun s g => s.setGroup { g with ln := { g.ln with pend := 0, wait := .ready } }) s

-- Traps.

/-- TRAP_ENTRY (R26): entry of a cause of the scalar stream, once its drain is complete. -/
def execTrapEntry (g : Nat) (s : State) : Out :=
  groupStep g (fun _ g => match g.sc.entry with
    | some r => !r.lane
    | none => false) (fun s g => s.settle g.uid) s

/-- LANE_TRAP_ENTRY (R351): the same for a cause that the lane unit raised. -/
def execLaneTrapEntry (g : Nat) (s : State) : Out :=
  groupStep g (fun _ g => match g.sc.entry with
    | some r => r.lane
    | none => false) (fun s g => s.settle g.uid) s

/-- ASYNC_CAUSE_TAKEN (R350): the oldest waiting cause, in user mode, outside trap entry and a stop. A BKPT that an automaton raises waits
behind a stop that is on its way (R394). -/
def execAsyncCauseTaken (g : Nat) (s : State) : Out :=
  groupStep g (fun _ g => g.life == .resident && g.asyncDue && g.sc.entry.isNone && g.stop.isNone)
    (fun s g =>
      match g.sc.async with
      | [] => s
      | r :: rest => s.raise { g with sc := { g.sc with async := rest } } r (async := true)) s

-- Lane blocks.

/-- BLOCK_APPEND (R108): a stalled `lrun` finds room. -/
def execBlockAppend (g : Nat) (s : State) : Out :=
  groupStep g (fun _ g => g.life == .resident && g.sc.entry.isNone && decide (g.blocks < 8))
    (fun s g =>
      match g.sc.wait with
      | .lrun lpc =>
        let b : Block := ⟨lpc, Vector.set g.sc.s 0 0, g.dm, g.seq⟩
        s.complete { g with ln := { g.ln with queue := g.ln.queue ++ [b] } }
      | _ => s) s

/-- The fragments of a new block: each slice is one fragment of its four lanes (R146). -/
def freshFrags (lpc : BitVec 32) : List Frag :=
  (List.range 8).map fun k => ⟨k, BitVec.ofNat 32 (15 * 16 ^ k), lpc, false, .ready, 0, 0, []⟩

/-- BLOCK_START (R109, R146). -/
def execBlockStart (g : Nat) (s : State) : Out :=
  groupStep g (fun _ g => g.laneRuns && g.ln.cur.isNone)
    (fun s g =>
      match g.ln.queue with
      | [] => s
      | b :: rest => s.setGroup { g with ln := { g.ln with cur := some b, queue := rest, frags := freshFrags b.lpc } }) s

/-- BLOCK_END (R147, R176): the flags and sums of the block wait for an `lwait` that covers it. -/
def execBlockEnd (g : Nat) (s : State) : Out :=
  groupStep g (fun _ g => g.ln.cur.isSome && g.ln.frags.isEmpty && g.ln.outst.isEmpty)
    (fun s g => s.setGroup { g with ln := { g.ln with
      cur := none
      pend := 0
      wait := if g.ln.wait == .hold then .ready else g.ln.wait
      endFl := g.ln.endFl ||| g.ln.runFl
      runFl := 0
      endK := Vector.zipWith (· + ·) g.ln.endK g.ln.runK
      endSeq := g.seq
      runK := Vector.replicate 4 0 } }) s

/-- LWAIT_COMPLETE (R110). -/
def execLwaitComplete (g : Nat) (s : State) : Out :=
  groupStep g (fun _ g => g.life == .resident && g.sc.entry.isNone)
    (fun s g =>
      match g.sc.wait with
      | .lwait limit => if g.blocks ≤ limit then s.complete g.cover else s
      | _ => s) s

/-- LANE_STATE_WAIT_END (R112, R113). -/
def execLaneStateWaitEnd (g : Nat) (s : State) : Out :=
  groupStep g (fun _ g => g.life == .resident && g.sc.entry.isNone && g.laneStateOpen)
    (fun s g =>
      match g.sc.wait with
      | .laneState op => s.laneStateNow g g.sc.hold op
      | _ => s) s

-- Regang (R152, R203).

/-- A fragment that is parked at a `regang`. -/
def Frag.parked (f : Frag) : Bool := f.st != .ready
/-- A fragment that is parked at a `regang.u`. -/
def Frag.parkedU (f : Frag) : Bool := f.st == .regang true

/-- The lowest LPC of the parked fragments. -/
def Lanes.regangLpc (l : Lanes) : Option (BitVec 32) :=
  l.frags.foldl (fun b f =>
    match b with
    | none => some f.lpc
    | some p => if f.lpc.toNat < p.toNat then some f.lpc else some p) none

/-- REGANG_RELEASE (R152, R203): every live fragment is parked, and those at the lowest LPC go on. Fragments in the handler park and
are compared as the others are, by the number of their LPC whatever their mode: fragments of both modes at one number go on together,
and "parked elsewhere" means at another number (DESIGN CHOICE, log entry 48). With U, fragments that
would stay parked elsewhere raise UNIFORM in its place, once. -/
def execRegangRelease (g : Nat) (s : State) : Out :=
  groupStep g (fun _ g => g.laneRuns && !g.ln.frags.isEmpty && g.ln.frags.all Frag.parked)
    (fun s g =>
      match g.ln.regangLpc with
      | none => s
      | some p =>
        let at_ := g.ln.maskWhere fun f => f.lpc == p
        let rest := g.ln.maskWhere fun f => f.lpc != p
        if (g.ln.frags.any fun f => f.lpc == p && f.parkedU) && rest != 0 && !g.ln.regangOk then
          s.trapLane { g with ln := { g.ln with regangOk := true } } 0x03 (rest.setWidth 64) at_ p
        else
          let free (f : Frag) : Frag := if f.lpc == p then { f with st := .ready, lpc := f.lpc + 1 } else f
          s.setGroup { g with ln := { g.ln with regangOk := false, frags := g.ln.frags.map free } }) s

-- The ends of sys words and fences.

/-- GROUP_RETIRE (R115). -/
def execGroupRetire (g : Nat) (s : State) : Out :=
  groupStep g (fun _ g => g.life == .resident && g.sc.entry.isNone && g.sc.wait == .exit && g.blocks == 0
      && g.sc.outst.isEmpty && !g.asyncDue)
    (fun s g => s.retireGroup g) s

/-- SLEEP_END (R116): a sleep may end for other reasons than those it names, so at any time; the four that it names end it
where they occur (`Group.wake`). -/
def execSleepEnd (g : Nat) (s : State) : Out :=
  groupStep g (fun _ g => g.life == .resident && g.sc.entry.isNone && g.sc.wait.sleeps) (fun s g => s.unpark g) s

/-- FENCE_PARK_COMPLETE (R97, R258). -/
def execFenceParkComplete (lane : Bool) (g : Nat) (s : State) : Out :=
  groupStep g (fun _ g => if lane then g.laneRuns else g.life == .resident && g.sc.entry.isNone)
    (fun s g =>
      if lane then
        match g.ln.wait with
        | .fence c _ scope m =>
          if s.laneFenceDone g m then (s.fenceEnd g true scope m.isSome).laneRetire c g else s
        | _ => s
      else
        match g.sc.wait with
        | .fence _ scope m => if s.fenceDone g m then (s.fenceEnd g false scope m.isSome).complete g else s
        | _ => s) s

/-- HALT_STOP (R120). -/
def execHaltStop (g : Nat) (s : State) : Out :=
  groupStep g (fun _ g => g.life == .resident && g.sc.entry.isNone && g.sc.wait == .halt && g.sc.outst.isEmpty)
    (fun s g => s.haltNow g g.sc.hold) s

/-- IDEMB_SNAPSHOT (R118). -/
def execIdembSnapshot (g : Nat) (s : State) : Out :=
  groupStep g (fun _ g => g.life == .resident && g.sc.entry.isNone && g.sc.wait == .idemb && g.idembReady)
    (fun s g => s.complete g.openRegion) s

/-- IDEME_COMPLETE (R118). -/
def execIdemeComplete (g : Nat) (s : State) : Out :=
  groupStep g (fun _ g => g.life == .resident && g.sc.entry.isNone && g.sc.wait == .ideme && g.blocks == 0)
    (fun s g => s.complete g.closeRegion) s

end Sys2Proof.Machine
end

