-- ==== Sys2Proof/Machine/Home.lean ====
section
/-! DEFINITION. The order of requests within a core and their acts at their homes (R89, R218 to R222, R275 to R289, R295,
R374, R415, R436 to R440): STORE_QUEUE_DRAIN, SC_ACCESS_COMPLETE, HOME_REQUEST and NEAR_CACHE_REPLACEMENT. -/

namespace Sys2Proof.Machine

open Sys2Proof

-- The store queue (R89, R278).

/-- Whether request `q` precedes request `r` in program order. -/
def MemReq.before (q r : MemReq) : Bool := q.precedes r.who.g r.who.lane r.seq r.after

/-- Whether a load waits for a read-modify-write of its own group that is still in the store queue: one that precedes it in
program order, whose read comes first (R280), or one that was issued before it and touches its bytes, whose value it needs
(R89). -/
def MemReq.heldBy (sq : List MemReq) (r : MemReq) : Bool :=
  !r.writes && sq.any fun q => q.reads && q.writes && q.who.g == r.who.g &&
    (q.before r || (decide (q.seq < r.seq) && q.scratch == r.scratch && overlap q.addr q.bytes r.addr r.bytes))

/-- Whether a request is a load. -/
def MemReq.isLoad (r : MemReq) : Bool := r.reads && !r.writes

/-- Whether a load of a list, that `held` holds, precedes another in program order: the later one waits with it, since the loads of a
group act in its order (R280, R281). -/
def MemReq.behindHeld (qs : List MemReq) (held : MemReq → Bool) (r : MemReq) : Bool :=
  r.isLoad && qs.any fun q => q.isLoad && held q && q.before r

/-- Whether a Plumb write that precedes a request in its group's program order is not applied (R97, R275). -/
def State.plumbBefore (s : State) (r : MemReq) : Bool :=
  (s.die (dieOf r.who.core)).plumbReqs.any fun q => q.precedes r.who.g r.who.lane r.seq r.after

/-- What a request's group had learned by it. -/
def State.knownTo (s : State) (r : MemReq) : List Learned := s.order.knownAt r.who.g r.who.lane r.seq r.after

/-- The release that a request makes at a scope (R283, R285). -/
def State.releaseBy (s : State) (r : MemReq) (scope : Nat) : Release :=
  ⟨r.who.agent, scope, (viewKnown (s.knownTo r)).join (s.order.coreView r.who.core r.cso)⟩

/-- A marker's release is performed: that of a fence is carried by its group's later writes, and any other by what waits for it
(R283). -/
def State.markerDone (s : State) (r : MemReq) : State :=
  match r.op with
  | .marker scope fence =>
    let l := s.releaseBy r scope
    if fence then s.learn ⟨r.who.g, r.who.lane, r.seq + 1, s.order.count, false, [], [], some l⟩ else s.tell (.marker r.id) [l]
  | _ => s

/-- STORE_QUEUE_DRAIN (R89, R278): the oldest request of a group's store queue enters the core store order once the reads
that precede it have returned. A release at scope grp or core is then performed, where the Plumb writes before it are (R275). Loads
that waited for a read-modify-write come behind it, with those that waited for them. -/
def execStoreQueueDrain (g : Nat) (s : State) : Out :=
  match s.group? g with
  | none => .next s
  | some g =>
    match g.sq with
    | [] => .next s
    | r :: rest =>
      let done := match r.op with
        | .marker scope _ => decide (scope ≤ 1)
        | _ => false
      if s.readBefore g r.who.lane r.seq r.after || (done && s.plumbBefore r) then .next s
      else
        let core := g.place.core
        let c := s.core core
        let n := s.order.drains + 1
        let s := { s.setGroup { g with sq := rest } with order := { s.order with drains := n } }
        let r := { r with cso := n }
        if done then .next (s.markerDone r)
        else
          let held (q : MemReq) : Bool := q.heldBy [r]
          let moves (q : MemReq) : Bool := held q || q.behindHeld c.reqs held
          .next (s.setCore core { c with reqs := c.reqs.filter (fun q => !moves q) ++ [r] ++ c.reqs.filter moves })

-- When a request acts.

/-- The store queue of a request's group. -/
def State.queueOf (s : State) (r : MemReq) : List MemReq :=
  match s.group? r.who.g with
  | some g => g.sq
  | none => []

/-- Whether a request is an acquire load. -/
def MemReq.acquires (r : MemReq) : Bool :=
  match r.op with
  | .load _ acquire _ => acquire
  | _ => false

/-- The scope at which a request is a release. -/
def MemReq.releases (r : MemReq) : Option Nat :=
  match r.op with
  | .marker scope _ => some scope
  | _ => r.rel

/-- Outbound writes of a core's groups that entered its store order before place `cso` are not acknowledged; those of an engine
operation are in no core's store order (R278). -/
def State.coreUnacked (s : State) (core cso : Nat) : Bool :=
  s.outb.any fun o => o.req.any fun q => q.who.core == core && q.writes && decide (q.cso < cso)

/-- A release is performed (R94, R275, R286): the Plumb writes that precede it in program order are; and at scope die or wider every
write that entered the core's order before it is, with its group's earlier releases at its scope or a narrower one. -/
def State.mayRelease (s : State) (core scope : Nat) (earlier : List MemReq) (r : MemReq) : Bool :=
  scope == 0 ||
    (!s.plumbBefore r && (decide (scope < 2) ||
      (!(earlier.any fun q => q.writes || (q.who.g == r.who.g && q.releases.any fun x => decide (x ≤ scope)))
        && (decide (scope < 5) || !s.coreUnacked core r.cso))))

/-- Whether a request to a peer can be sent: its token can be read (R439), and in compatibility mode the translation of the page is
held (R442). -/
def State.peerReady (s : State) (r : MemReq) : Bool :=
  !isPeer r.addr || r.scratch || r.isMarker ||
    ((s.tokenAt r.who.ctx r.addr).isSome && (!s.compat r.who.ctx || (s.peerPage? r.who.ctx r.addr).isSome))

/-- Whether the die of a request's home is awake; a request to a sleeping die waits for its wake (R412). -/
def State.homeAwake (s : State) (r : MemReq) : Bool :=
  r.scratch || r.isMarker || !s.asleepAt r.addr

/-- The writes of its own group that overlap a request, issued before it, that have not acted, in the order of their issue. -/
def State.forwards (s : State) (core : Nat) (r : MemReq) : List MemReq :=
  ((s.core core).reqs ++ s.queueOf r).filter fun q =>
    q.who.g == r.who.g && q.writes && q.scratch == r.scratch && decide (q.seq < r.seq) &&
      overlap q.addr q.bytes r.addr r.bytes

/-- The youngest store of a list. -/
def youngest : List MemReq → Option MemReq
  | [] => none
  | q :: t => match youngest t with
    | some r => if r.seq < q.seq then some q else some r
    | none => some q

/-- The bytes that a load takes from the youngest store of its own group that overlaps it, where that gives every byte (R89, R251).
An access to an SC page takes none (R288). -/
def MemReq.forwarded (r : MemReq) (fw : List MemReq) : Option (List Byte) :=
  match r.op, youngest fw with
  | .load n _ _, some q =>
    match q.op with
    | .store d => if !r.sc && decide (q.addr ≤ r.addr) && decide (r.addr + n ≤ q.addr + d.length) then
        some ((d.drop (r.addr - q.addr)).take n) else none
    | _ => none
  | _, _ => none

/-- Whether a load waits for stores of its own group that overlap it: they give it some of its bytes only, and its home must not tear
(R289), or its page is an SC page (R288). -/
def MemReq.awaitsOwn (r : MemReq) (fw : List MemReq) : Bool := r.isLoad && !fw.isEmpty && (r.forwarded fw).isNone

/-- Whether a request of a core may act, behind the requests `earlier` of its core's order: the home keeps the order of one
granule (R222), but a load that its own group's later write has passed does not hold it; loads wait for acquire loads
before them (R93), for the loads before them that a read-modify-write holds (R280), and for stores that give them part of their bytes;
writes wait for the releases of fences (R97), releases for what they cover (R94), and accesses to SC pages
for one another (R90, R253, R288). -/
def State.mayAct (s : State) (core : Nat) (earlier : List MemReq) (r : MemReq) : Bool :=
  let sq := s.queueOf r
  !r.heldBy sq && !r.behindHeld (s.core core).reqs (fun q => q.heldBy sq) && !r.awaitsOwn (s.forwards core r)
    && !(earlier.any fun q => q.sameGranule r && !(q.who.g == r.who.g && decide (r.seq < q.seq)) && !q.heldBy sq)
    && !(((s.core core).reqs ++ s.outb.filterMap fun o => o.req).any fun q => q.acquires && q.before r)
    && !(r.writes && earlier.any fun q => q.isFence && q.before r)
    && !(r.sc && (sq ++ earlier).any fun q => q.sc && q.before r)
    && (match r.releases with
      | some scope => s.mayRelease core scope earlier r
      | none => true)
    && s.peerReady r && s.homeAwake r

-- What a request returns.

/-- What a read finds: its bytes, and why they may not be delivered (R374, R447). -/
structure Found where
  bytes  : List Byte
  poison : Option BadData
  integ  : Option Word

/-- The value of a request returned to the results that wait for it (R17, R174). -/
def State.deliver (s : State) (r : MemReq) (f : Found) : State :=
  match s.group? r.who.g with
  | none => s
  | some g =>
    let x := leNat f.bytes
    let one (q : ScalarResult) : ScalarResult :=
      if q.src == r.id then { q with value := some (word x), poison := f.poison, integ := f.integ } else q
    let piece (p : LanePiece) : LanePiece :=
      if p.src == r.id then { p with value := some (BitVec.ofNat 128 x), poison := f.poison, integ := f.integ } else p
    s.setGroup { g with
      sc := { g.sc with outst := g.sc.outst.map one }
      ln := { g.ln with outst := g.ln.outst.map fun (q : LaneResult) => { q with pieces := q.pieces.map piece } } }

/-- Whether a result waits for request `id` of a group. -/
def State.awaits (s : State) (g id : Nat) : Bool :=
  match s.group? g with
  | none => false
  | some g => (g.sc.outst.any fun q => q.src == id) || g.ln.outst.any fun q => q.pieces.any fun p => p.src == id

/-- A request refused by a port or a peer (R415, R440): the group that awaits its result is killed, and a write without one
is reported as DEFER. -/
def State.refuse (s : State) (r : MemReq) (cause : Nat) : State :=
  match s.group? r.who.g with
  | some g =>
    if s.awaits g.uid r.id then s.killFor g r.who.lane r.who.pc r.va cause
    else { s with reports := s.reports ++ [⟨r.who, false, r.va, BitVec.ofNat 8 cause⟩] }
  | none => { s with reports := s.reports ++ [⟨r.who, false, r.va, BitVec.ofNat 8 cause⟩] }

-- The scratchpad.

/-- The first word of a range of a core's scratchpad that holds an error which cannot be corrected (R374). -/
def Core.scratchBad (c : Core) (a n : Nat) (va : Word) : Option BadData :=
  (c.poisonS.find? fun x => decide (a / 8 ≤ x) && decide (x ≤ (a + n - 1) / 8)).map fun x => ⟨true, x, va⟩

/-- A read of a request has returned the contents that a granule had before its `k` newest writes: its group has seen the write
that they stem from, and the releases that this carries; an acquire sees what those cover (R281, R284). -/
def State.learnRead (s : State) (r : MemReq) (loc k : Nat) : State :=
  let gr := granule loc
  let n := s.order.stampBefore gr k
  let said := s.order.saidBefore gr k loc r.bytes
  if n == 0 then s
  else
    let v := match r.op with
      | .load _ true scope => synced said scope r.who.agent
      | _ => []
    s.learn ⟨r.who.g, r.who.lane, r.seq + 1, s.order.count, false, View.join [(gr, n)] v, said, none⟩

/-- The releases that the write of a request carries (R283, R284): its own, those of the fences before it, and those that the read of a
read-modify-write found. -/
def State.saysOf (s : State) (r : MemReq) (loc : Nat) : List Release :=
  (r.rel.map (s.releaseBy r)).toList ++ fenceReleases (s.knownTo r)
    ++ if r.reads then s.order.saidBefore (granule loc) 0 loc r.bytes else []

/-- A request acts in the scratchpad of its core (R91, R289). A load sees the banks as they are, but for what came after the last event
before a receive that orders nothing (R293). -/
def State.actScratch (s : State) (core : Nat) (r : MemReq) : State :=
  let c := s.core core
  let n := r.bytes
  let loc := scratchLoc core r.addr
  let old := memRead c.scratch r.addr n
  let bad := c.scratchBad r.addr n r.va
  let write (bs : List Byte) : State :=
    (s.writeScratch core r.addr bs).signed s.order.count r.who.agent (some r.cso) (s.saysOf r loc)
  match r.op with
  | .load _ _ _ =>
    let ks := s.knownTo r
    let after := max ((slack ks).getD 0) (s.order.bound r.who.g core ks (granule loc))
    let (s, ws) := s.overlook (granule loc) after (slack ks).isNone
    (s.learnRead r loc ws.length).deliver r ⟨unseenBytes ws loc old, bad, none⟩
  | .store d => write d
  | op => ((write (leBytes n (op.update (leNat old)))).learnRead r loc 1).deliver r ⟨old, bad, none⟩

-- The homes of HBM and LPDDR.

/-- The lines that a core's near cache holds (R218). -/
def nearLines : Nat := 512

/-- Whether a load may be served by the near cache (R93, R218). -/
def MemReq.nearMay (r : MemReq) : Bool :=
  !r.sc && match r.op with
    | .load _ _ scope => scope < 2
    | _ => false

/-- A core with a line read at its home: a copy that its near cache holds is refreshed, and a line that it may hold is
filled while there is room (R218, R281). -/
def State.fillNear (s : State) (core : Nat) (r : MemReq) : State :=
  let c := s.core core
  let line := r.addr / 128
  let held := c.near.any fun l => l.1 == line
  if held || (r.nearMay && decide (c.near.length < nearLines)) then
    s.setCore core { c with near := put c.near line (s.order.count, s.physRead r.who.world (128 * line) 128) }
  else s

/-- What a read of a home finds, with a line whose tag does not match poisoned (R374, R447). -/
def State.readHome (s : State) (r : MemReq) : State × Found :=
  let bs := s.physRead r.who.world r.addr r.bytes
  let line := r.addr / 128
  if s.mem.poison.contains line then (s, ⟨bs, some ⟨false, r.addr, r.va⟩, none⟩)
  else if s.tagBad line then
    ({ s with mem := { s.mem with poison := line :: s.mem.poison } }, ⟨bs, none, some (r.va &&& ~~~127#64)⟩)
  else (s, ⟨bs, none, none⟩)

/-- A write of a home, which leaves the near cache of its core (R219, R222). -/
def State.writeHome (s : State) (core : Nat) (r : MemReq) (bs : List Byte) : State :=
  let tells := s.saysOf r r.addr
  let s := (s.homeWrite r.who.world r.addr bs).signed s.order.count r.who.agent (some r.cso) tells
  s.setCore core ((s.core core).dropNear r.addr bs.length)

/-- The writes to a granule since the near cache filled a line of it, newest first; none where its copy may not serve a load that may
not fall behind stamp `bound` (R281). -/
def Order.sinceFill (o : Order) (gr fill bound : Nat) : Option (List PastWrite) :=
  let ws := (o.writesOf gr).takeWhile fun w => decide (fill < w.stamp)
  if ws.any fun w => w.wall || decide (w.stamp ≤ bound) then none else some ws

/-- A near-cache copy that serves a load, with the writes that it does not see (R93, R218, R281). -/
def State.nearHit (s : State) (core bound : Nat) (r : MemReq) : Option (List Byte × List PastWrite) :=
  if !r.nearMay then none
  else
    match (s.core core).near.find? fun l => l.1 == r.addr / 128 with
    | none => none
    | some (_, fill, bs) => (s.order.sinceFill (granule r.addr) fill bound).map fun ws => (bs, ws)

/-- A load that its core's near cache or its home serves (R89). The home's contents are those after some prefix of the writes of the
granule, behind none that the group must see (R281, R289); a line that is stored under another key has no past, and an SC page is
read as it is (R288). -/
def State.loadHome (s : State) (core : Nat) (r : MemReq) : State :=
  let gr := granule r.addr
  let line := r.addr / 128
  let bound := s.order.bound r.who.g core (s.knownTo r) gr
  match s.nearHit core bound r with
  | some (bs, ws) => (s.learnRead r r.addr ws.length).deliver r ⟨(bs.drop (r.addr % 128)).take r.bytes, none, none⟩
  | none =>
    let (s, f) := s.readHome r
    if f.poison.isSome || f.integ.isSome then s.deliver r f
    else
      let (s, ws) := (s.fillNear core r).overlook gr bound (r.sc || s.keyOf line != s.keyFor r.who.world line)
      (s.learnRead r r.addr ws.length).deliver r { f with bytes := unseenBytes ws r.addr f.bytes }

/-- A request acts at its home slice (R95, R96, R222, R254 to R257). -/
def State.actHome (s : State) (core : Nat) (r : MemReq) : State :=
  match r.op with
  | .load _ _ _ => s.loadHome core r
  | .store d =>
    let (s, _) := s.readHome r
    s.writeHome core r d
  | op =>
    let (s, f) := s.readHome r
    let s := (s.learnRead r r.addr 0).writeHome core r (leBytes r.bytes (op.update (leNat f.bytes)))
    s.deliver r f

-- The ports of the host and the fabric.

/-- What a request does outside. -/
def MemReq.outKind (r : MemReq) : Option OutKind :=
  match r.op with
  | .load n _ _ => some (.load n)
  | .store d => some (.store d)
  | .rmw op k x => some (.atomic op k x)
  | .cas k ps => some (.compareSwap k ps)
  | .marker _ _ => none

/-- The kind of access that a request makes (R233). -/
def MemReq.access (r : MemReq) : Acc :=
  match r.op with
  | .load _ _ _ | .marker _ _ => .load
  | .store _ => .store
  | _ => .atomic

/-- A request has gone out in packet `n` and awaits its answer or its acknowledgement; one that the translation held of a peer's
page does not permit is refused (R442). -/
def State.actPort (s : State) (n : Nat) (token : Word) (r : MemReq) (k : OutKind) : State :=
  if isPeer r.addr && !s.peerPermits r.who.ctx r.addr r.access r.who.world then s.refuse r 0x11
  else s.addOut r.id (some r.who) (some r) r.va r.addr n token k

/-- Whether two requests belong to one word and go to one peer (R438). -/
def MemReq.samePeer (q r : MemReq) : Bool :=
  q.who.g == r.who.g && q.who.lane == r.who.lane && q.word == r.word && !q.scratch && !q.isMarker &&
    isPeer q.addr && peerOf q.addr == peerOf r.addr

/-- Whether they go in one packet (R438). -/
def MemReq.samePacket (q r : MemReq) : Bool := q.samePeer r && q.addr / 128 == r.addr / 128

-- HOME_REQUEST.

/-- An acquire load that has returned empties the near cache (R93). -/
def State.acquired (s : State) (core : Nat) (r : MemReq) : State :=
  match r.op with
  | .load _ true scope => s.acquireAt core scope
  | _ => s

/-- A load that a queued store of its group serves: no home sees it (R89, R251). -/
def State.deliverForwarded (s : State) (core : Nat) (bs : List Byte) (r : MemReq) : State :=
  (s.deliver r ⟨bs, none, none⟩).acquired core r

/-- Requests that go out together, to the host or in one packet to a peer (R436, R438). -/
def State.actOut (s : State) (rs : List (MemReq × OutKind)) : State :=
  match rs with
  | [] => s
  | (r, _) :: _ =>
    let (n, s) := s.nextPacket r.who.ctx r.addr
    let token := s.packetToken r.who.ctx r.addr
    let s := rs.foldl (fun s p => s.actPort n token p.1 p.2) s
    s.transmit r.who.ctx n token ((rs.filter fun p => s.outb.any fun o => o.id == p.1.id).map fun p => (p.1.addr, p.2))

/-- A request acts where its address says. -/
def State.act (s : State) (core : Nat) (r : MemReq) : State :=
  let fw := r.forwarded (s.forwards core r)
  let c := s.core core
  let s := s.setCore core { c with reqs := c.reqs.filter (fun q => q.id != r.id) }
  if r.isMarker then s.markerDone r
  else
    match fw with
    | some bs => s.deliverForwarded core bs r
    | none =>
      if r.scratch then (s.actScratch core r).acquired core r
      else if r.addr < 0x40000000000 then
        if s.portRefuses (dieOf core) r.who.world r.addr then s.refuse r 0x12 else (s.actHome core r).acquired core r
      else s.actOut (r.outKind.toList.map fun k => (r, k))

/-- A packet to a peer: its requests in their order, in one packet (R438). -/
def State.actPacket (s : State) (core : Nat) (rs : List MemReq) : State :=
  let fws := rs.map fun q => (q, q.forwarded (s.forwards core q))
  let c := s.core core
  let s := s.setCore core { c with reqs := c.reqs.filter (fun q => !rs.any fun x => x.id == q.id) }
  let s := fws.foldl (fun s p =>
    match p.2 with
    | some bs => s.deliverForwarded core bs p.1
    | none => s) s
  s.actOut (fws.filterMap fun p => if p.2.isSome then none else p.1.outKind.map fun k => (p.1, k))

/-- HOME_REQUEST (R222, R271): request `k` of a core acts. The requests of a word for one line of a peer go in one packet,
once all of them have left the store queue, and in the order of the lowest lane of each packet (R438). -/
def execHomeRequest (core k : Nat) (s : State) : Out :=
  let reqs := (s.core core).reqs
  match reqs[k]? with
  | none => .next s
  | some r =>
    let earlier := reqs.take k
    if r.scratch || r.isMarker || r.addr < 0x8000000000000 then
      if s.mayAct core earlier r then .next (s.act core r) else .next s
    else
      let rs := reqs.filter fun q => q.samePacket r
      let clear (q : MemReq) : Bool :=
        s.mayAct core ((reqs.takeWhile fun x => x.id != q.id).filter fun x => !x.samePacket r) q
      if (earlier.any fun q => q.samePeer r) || (s.queueOf r).any (fun q => q.samePeer r) || !rs.all clear then .next s
      else .next (s.actPacket core rs)

/-- NEAR_CACHE_REPLACEMENT (R219): line `k` of a core's near cache leaves it. -/
def execNearCacheReplacement (core k : Nat) (s : State) : Out :=
  let c := s.core core
  .next (s.setCore core { c with near := c.near.eraseIdx k })

-- Accesses to SC pages (R90, R253).

/-- Whether a request has acted, and its write is acknowledged where it went outbound. -/
def State.acted (s : State) (id : Nat) : Bool :=
  !(s.allReqs.any fun r => r.id == id) && !s.outb.any fun o => o.id == id

/-- SC_ACCESS_COMPLETE (R90, R253): the access of a stream to an SC page has completed. -/
def execScAccessComplete (lane : Bool) (g : Nat) (s : State) : Out :=
  match s.group? g with
  | none => .next s
  | some g =>
    if lane then
      match g.ln.wait with
      | .scAccess ids =>
        if ids.all s.acted then
          let l := { g.ln with wait := if g.ln.hold then .hold else .ready, hold := false }
          .next ((s.setGroup { g with ln := l }).settle g.uid)
        else .next s
      | _ => .next s
    else
      match g.sc.wait with
      | .scAccess id => if s.acted id then .next (s.unpark g) else .next s
      | _ => .next s

end Sys2Proof.Machine
end

