-- ==== Sys2Proof/Machine/Walk.lean ====
section
/-! DEFINITION. The ends of page walks (R231, R233, R244), held PTEs (R246) and first touches (R236, R237). -/

namespace Sys2Proof.Machine

open Sys2Proof

/-- Entries of a core's TLB (R233). -/
def tlbEntries : Nat := 64

/-- A translation put into a core's TLB; the oldest one leaves a full one. -/
def Core.insertTlb (c : Core) (ctx : Nat) (l : Leaf) : Core :=
  let t := c.tlb ++ [⟨ctx, l⟩]
  { c with tlb := t.drop (t.length - tlbEntries) }

/-- Entries of a die's last-level TLB for pages up to 8 MiB, and for 8 GiB pages (R233). -/
def dieEntries : Nat := 16384
def dieBigEntries : Nat := 64

/-- A translation put into a die's last-level TLB; the oldest one leaves a full one. -/
def Die.insertTlb (d : Die) (ctx : Nat) (l : Leaf) : Die :=
  let add (n : Nat) (t : List TlbEntry) : List TlbEntry :=
    let t := t ++ [⟨ctx, l⟩]
    t.drop (t.length - n)
  if 2 ^ 33 ≤ l.size then { d with tlbBig := add dieBigEntries d.tlbBig } else { d with tlb := add dieEntries d.tlb }

/-- A translation put into the TLBs of a core and of its die. -/
def State.insertTlb (s : State) (core ctx : Nat) (l : Leaf) : State :=
  let s := s.setCore core ((s.core core).insertTlb ctx l)
  s.setDie (dieOf core) ((s.die (dieOf core)).insertTlb ctx l)

/-- The group and the walk that a walker names; an engine operation makes its walks as it moves its data. -/
def State.walker (s : State) (w : Walker) : Option (Group × Walk) :=
  match w with
  | .scalar g => (s.group? g).bind fun g =>
    match g.sc.wait with
    | .walk x => some (g, x)
    | _ => none
  | .lane g => (s.group? g).bind fun g =>
    match g.ln.wait with
    | .walk x => some (g, x)
    | _ => none
  | .engine _ => none

/-- Whether a walker is a lane stream. -/
def isLaneWalker : Walker → Bool
  | .lane _ => true
  | _ => false

/-- A walk in another stage. -/
def State.setWalk (s : State) (w : Walker) (g : Group) (x : Walk) : State :=
  s.setGroup (if isLaneWalker w then { g with ln := { g.ln with wait := .walk x } } else { g with sc := { g.sc with wait := .walk x } })

/-- A walk that has ended: the word that waits for it issues again with its result. -/
def State.endWalk (s : State) (w : Walker) (g : Group) (x : Walk) (r : WalkEnd) : State :=
  let p := (pageOf x.va, r)
  s.setGroup (if isLaneWalker w then { g with ln := { g.ln with wait := .ready, walked := g.ln.walked ++ [p] } }
    else { g with sc := { g.sc with wait := .ready, walked := g.sc.walked ++ [p] } })

/-- What the tables say to a walk (R231): its end, with the translation put into the TLBs, or its next stage. A walk that a
removal met is made again, and one that reads an entry of a die that sleeps waits for its wake (R412). -/
def State.walkOn (s : State) (w : Walker) (g : Group) (x : Walk) (since : Nat) : State :=
  if s.tablesAsleep g.place.ctx x.va then s else
  match s.walk g.place.ctx x.va with
  | .held => s.setWalk w g { x with stage := .held since s.now }
  | .bad => s.endWalk w g x (.fault false)
  | .untouched pte e large =>
    if e / 2 ^ 8 % 4 == 0 then s.setWalk w g { x with stage := .touching pte e large } else s.endWalk w g x (.fault true)
  | .leaf l =>
    if x.stale then s.setWalk w g ⟨x.va, .walking, false⟩
    else
      (s.insertTlb g.place.core g.place.ctx l).endWalk w g x (.leaf l)

/-- WALK_COMPLETE (R231). -/
def execWalkComplete (w : Walker) (s : State) : Out :=
  match s.walker w with
  | some (g, x) => if x.stage = .walking then .next (s.walkOn w g x s.now) else .next s
  | none => .next s

/-- An engine operation that sleeps on a held PTE, with its place. -/
def State.heldEngine (s : State) (w : Walker) : Option (EngOp × EngHold) :=
  match w with
  | .engine op => (s.engs.find? fun o => o.uid == op).bind fun o => o.held.map fun h => (o, h)
  | _ => none

/-- HELD_PTE_REREAD (R246). -/
def execHeldPteReread (w : Walker) (s : State) : Out :=
  match s.walker w with
  | some (g, x) =>
    match x.stage with
    | .held since last => if last + 2048 ≤ s.now then .next (s.walkOn w g x since) else .next s
    | _ => .next s
  | none =>
    match s.heldEngine w with
    | some (o, h) =>
      if h.asleep && decide (h.last + 2048 ≤ s.now) then .next (s.setEngine { o with held := some { h with asleep := false } })
      else .next s
    | none => .next s


/-- HELD_PTE_TIMEOUT (R246). -/
def execHeldPteTimeout (w : Walker) (s : State) : Out :=
  match s.walker w with
  | some (g, x) =>
    match x.stage with
    | .held since _ =>
      if decide (since + heldLimit ≤ s.now) && s.walk g.place.ctx x.va == .held then .next (s.endWalk w g x (.fault false))
      else .next s
    | _ => .next s
  | none =>
    match s.heldEngine w with
    | some (o, h) =>
      if h.since + heldLimit ≤ s.now then
        .next (s.setEngine { o with timedOut := true, held := some { h with asleep := false } })
      else .next s
    | none => .next s

/-- FIRST_TOUCH (R236, R237): the unit of the die installs a frame of its pool by `cas`, or finds the pool empty and does
not serve; another toucher's entry stands. The walk goes on from the PTE. -/
def execFirstTouch (w : Walker) (s : State) : Out :=
  match s.walker w with
  | some (g, x) =>
    match x.stage with
    | .touching pte e large =>
      let now := leNat (s.physRead (s.keyOf (pte / 128)).world pte 8)
      if now != e then .next (s.setWalk w g { x with stage := .walking })
      else
        match s.touch g.die pte e large g.place.ctx with
        | some s => .next (s.setWalk w g { x with stage := .walking })
        | none => .next ((s.poolEmpty g.die e).endWalk w g x (.fault true))
    | _ => .next s
  | none => .next s

end Sys2Proof.Machine
end

