-- ==== Sys2Proof/Machine/Preempt.lean ====
section
/-! DEFINITION. Time slices, eviction and restore (R362, R365 to R371), the supervisor's control of a group (R361) and the
end of a context (R372). -/

namespace Sys2Proof.Machine

open Sys2Proof

-- Choosing victims (R366, R370).

/-- FLAGS[3] of a group's grid: the group may be evicted (R157). -/
def State.preemptible (s : State) (g : Group) : Bool :=
  match s.grid? g.place.grid with
  | some t => t.lrec.flags.getLsbD 3
  | none => false

/-- Whether group `a` is evicted before group `b` (R366): the lower class, then the younger team, then the higher index. -/
def State.evictsBefore (s : State) (a b : Group) : Bool :=
  let prio (g : Group) : Nat := match s.grid? g.place.grid with | some t => t.lrec.prio | none => 0
  let born (g : Group) : Nat := match s.team? g.place.team with | some t => t.born | none => 0
  decide (prio a < prio b) || (prio a == prio b &&
    (decide (born b < born a) || (born a == born b && decide (b.place.gid.toNat < a.place.gid.toNat))))

/-- A group put into its place in a list of victims. -/
def State.insertVictim (s : State) (g : Group) : List Group → List Group
  | [] => [g]
  | h :: r => if s.evictsBefore g h then g :: h :: r else h :: s.insertVictim g r

/-- The groups of a context on a core that may be evicted, in the order of R366. -/
def State.victimOrder (s : State) (core ctx : Nat) : List Group :=
  ((s.residents core).filter fun g => g.place.ctx == ctx && s.preemptible g).foldl (fun l g => s.insertVictim g l) []

/-- The state as it would be with groups evicted, and with the windows of the teams that this empties. -/
def State.without (s : State) (us : List Nat) : State :=
  let s := { s with groups := s.groups.map (fun (g : Group) => if us.contains g.uid then { g with life := .evicted } else g) }
  let gone (t : Team) : Bool := t.members.all fun u => match s.group? u with | some g => !g.isResident | none => true
  { s with teams := s.teams.map (fun (t : Team) => if gone t && t.saved.isNone then { t with saved := some ([], []) } else t) }

/-- The fewest victims, from the front of their order, after which a core has room for a grid's next team (R366): none where
it passes the tests as it is. -/
def State.roomAfter (s : State) (t : Grid) (core : Nat) (chosen : List Nat) (gs : List Group) : Option (List Nat) :=
  if ((s.without chosen).admitWith t core (s.core core).part).isSome then some chosen
  else
    match gs with
    | [] => none
    | g :: r => s.roomAfter t core (chosen ++ [g.uid]) r

/-- What the expiry of a context's slice on a core would evict for a waiting grid of another context: groups of the context
(R366), or, for another partition word, every group of the core (R370). -/
def State.evictionFor (s : State) (core ctx : Nat) (t : Grid) : Option (List Nat) :=
  if t.ctx == ctx then none
  else if (s.core core).part == t.lrec.partw then s.roomAfter t core [] (s.victimOrder core ctx)
  else
    let gs := s.residents core
    let us := gs.map fun g => g.uid
    let s' := s.without us
    let s' := s'.setCore core { s'.core core with part := t.lrec.partw }
    if gs.all s.preemptible && (s'.admitWith t core t.lrec.partw).isSome then some us else none

/-- The highest-class waiting grid that a core could admit a team of after an eviction, with its victims (R365). -/
def State.expiryPlan (s : State) (core ctx : Nat) : Option (Grid × List Nat) :=
  s.scanOrder.findSome? fun t => (s.evictionFor core ctx t).map fun us => (t, us)

/-- Contexts with a group resident on a core. -/
def State.contextsOn (s : State) (core : Nat) : List Nat := ((s.residents core).map fun g => g.place.ctx).eraseDups

/-- The slices over one tick (R365): a context's slice counts while another one waits for its room. -/
def State.countSlices (s : State) : State :=
  { s with cores := s.cores.map fun c =>
    (c.1, { c.2 with slices := (s.contextsOn c.1).foldl (fun l x =>
      if (s.expiryPlan c.1 x).isSome then put l x (look 0 l x + 1) else l) c.2.slices }) }

-- Eviction (R362, R367, R368, R371).

/-- An eviction reaches a group: its issue stops, or, while the group is stopped or in trap entry, the clock of its completion
included, the eviction waits until the group has issued one more scalar word (R362). One that is under way goes on. -/
def State.startEviction (s : State) (uid : Nat) : State :=
  match s.group? uid with
  | none => s
  | some g =>
    let waits := g.life != .resident || g.sc.entry.isSome || g.coming.isSome || g.stop.isSome || g.entered == some s.now
    s.setGroup { g with evicting := g.evicting.or (some waits) }

/-- SLICE_EXPIRY (R365, R366, R370): the slice of a context expires on a core and restarts. -/
def execSliceExpiry (core ctx : Nat) (s : State) : Out :=
  match s.ctx? ctx, s.expiryPlan core ctx with
  | some c, some (t, us) =>
    let x := s.core core
    if look 0 x.slices ctx < c.spec.slice then .next s
    else
      let reserved := if us.isEmpty then x.reserved else some t.uid
      let s := s.setCore core { x with slices := put x.slices ctx 0, reserved := reserved }
      .next (us.foldl State.startEviction s)
  | _, _ => .next s

/-- Steps 1 to 4 of R367 are done for a group, and nothing binds it (R313, R420). -/
def Group.drained (g : Group) : Bool :=
  g.evicting == some false && g.life == .resident && g.sc.entry.isNone && g.coming.isNone && g.stop.isNone
    && g.sc.outst.isEmpty && g.ln.outst.isEmpty && g.sq.isEmpty && !g.sc.wait.binding && !g.ln.wait.binding

/-- An access that waits for a walk, or a word that waits to issue, is withdrawn (R367 step 3). -/
def Group.withdrawStalls (g : Group) : Group :=
  let sc := match g.sc.wait with
    | .walk _ | .stall _ => { g.sc with wait := ScalarWait.ready, walked := [] }
    | _ => g.sc
  let ln := match g.ln.wait with
    | .walk _ | .stall _ => { g.ln with wait := LaneWait.ready, walked := [] }
    | _ => g.ln
  { g with sc := sc, ln := ln }

/-- A group that was discarded inside an idempotent region, as it restarts (R118, R371). R118 and R371 leave these points open, and
the model settles each (DESIGN CHOICE, log entry 16): pending bits are clear; flags of lane blocks that no `lwait` covered, those of
running and of ended blocks alike, and their `ckacc` sums are dropped, since the blocks run again; contributions of completed parts stay
to be added by the next `mwait`, whatever part they are of (R318); waiting async causes stay; the trap and save registers, TVB, LSV,
the role, the gang register and the counters keep their values; handler registers read zero. -/
def Group.restartRegion (g : Group) (x : Snapshot) : Group :=
  { g with
    sc := { Scalar.start x.restart with s := x.s, c := x.c, sup := x.sup, async := g.sc.async }
    ln := Lanes.start
    dm := x.dm
    k := x.k }

/-- A group that was discarded before it issued a word of R119, as it restarts (R29, R371). What belongs to operations that go on
stays: tokens, contributions of completed parts and waiting async causes (log entry 16). -/
def State.restartEntry (s : State) (g : Group) : Group :=
  match s.grid? g.place.grid, s.ctx? g.place.ctx with
  | some t, some c =>
    let n := t.lrec.roleAt g.place.gid.toNat
    let x := t.lrec.role n
    let h := Group.start g.uid g.place ⟨n, x.vregs, x.prio⟩ (t.lrec.entry + word x.entryOff) c.spec.trapBase c.spec.laneEntry
    { h with
      sc := { h.sc with async := g.sc.async }
      tokens := g.tokens
      lastTok := g.lastTok
      kacc := g.kacc
      seq := g.seq }
  | _, _ => g

/-- A drained group leaves its core: saved as it stands, or discarded to restart (R368, R371). With a discarded group goes an engine
operation of it that is not accepted. -/
def State.evictNow (s : State) (g : Group) : State :=
  let (n, s) := s.fresh
  let left (g : Group) (life : Life) : Group := { g with life := life, evict := some n, evicting := none }
  let free := match s.grid? g.place.grid with
    | some t => t.lrec.flags.getLsbD 0 && !g.used
    | none => false
  let discard (s : State) (h : Group) : State :=
    let s := s.withdraw g.uid
    let s := { s with engs := s.engs.filter fun (o : EngOp) => !(o.who.g == g.uid && o.started.isNone) }
    (s.setGroup (left h .restart)).emitG g 0x0F 2 g.place.gser.toNat
  match if g.idem then g.snap else none with
  | some x => discard s (g.restartRegion x)
  | none =>
    if free then discard s (s.restartEntry g)
    else (s.setGroup (left g.withdrawStalls .evicted)).emitG g 0x0F 0 g.place.gser.toNat

/-- Whether a team's windows can be saved: no member is resident, and nothing still works on the windows (R313, R368). -/
def State.windowsQuiet (s : State) (t : Team) : Bool :=
  !t.members.isEmpty && t.saved.isNone
    && (t.members.all fun u => match s.group? u with | some g => !g.isResident | none => true)
    && !(s.mats.any fun o => o.team == t.uid)
    && !(s.engs.any fun o => o.started.isSome && t.members.contains o.who.g)
    && !((s.core t.core).reqs.any fun r => r.scratch && t.members.contains r.who.g)

/-- A team's windows saved (R368). -/
def State.saveWindows (s : State) (t : Team) : State :=
  let c := s.core t.core
  s.setTeam { t with saved := some (memRead c.scratch t.sxbase t.sxsize, memRead c.acc t.accbase t.accsize) }

/-- Evictions whose groups have drained are carried out, and the windows of teams that are away are saved. -/
def State.finishEvictions (s : State) : State :=
  let s := (s.groups.filter Group.drained).foldl State.evictNow s
  (s.teams.filter s.windowsQuiet).foldl State.saveWindows s

-- Restore (R369).

/-- Whether an evicted group can come back: it is the first of its core in the order of their evictions, its slot,
registers, budget and world are there, and its team's windows are in the pool or fit into it. -/
def State.restorable (s : State) (g : Group) (t : Team) (r : Grid) : Bool :=
  let core := g.place.core
  let c := s.core core
  let order (h : Group) : Nat := h.evict.getD 0
  let others := (s.windowTeams core).filter fun x => x.uid != t.uid
  !g.isResident && (s.roomKept core).isNone && !s.migrating g.place.ctx
    && !((s.ctx? g.place.ctx).any fun c => c.ending)
    && !(s.groups.any fun h => h.place.core == core && !h.isResident && decide (order h < order g))
    && !(s.usedSlots core).contains g.place.slot
    && (c.part == r.lrec.partw || s.mayAdopt core)
    && decide (s.groupRegs g ≤ registerBytes r.lrec.partw - ((s.residents core).map s.groupRegs).foldl (· + ·) 0)
    && decide ((energyUnits g.place.eclass.toNat : Int) ≤ s.freeBudget core)
    && (match s.ctx? g.place.ctx with
      | some x => x.spec.world == (s.die (dieOf core)).world
      | none => false)
    && (t.saved.isNone ||
      (!s.poolBusy core && !(others.any fun x => overlap x.sxbase x.sxsize t.sxbase t.sxsize
        || overlap x.accbase x.accsize t.accbase t.accsize)))

/-- A team's windows put back; no read looks behind them. -/
def State.putWindows (s : State) (t : Team) (part : BitVec 8) : State :=
  let c := { s.core t.core with part := part }
  match t.saved with
  | none => s.setCore t.core c
  | some (sx, acc) =>
    ((s.setCore t.core ((c.writeScratch t.sxbase sx).writeAcc t.accbase acc)).wall (scratchLoc t.core t.sxbase) sx.length).setTeam
      { t with saved := none }

/-- Whether the save area of a group of a protected grid fails its tag, a free value (R371; log entry 16). -/
def State.saveBad (s : State) (g : Group) (r : Grid) : Bool :=
  g.life == .evicted && r.lrec.flags.getLsbD 1 && Config.freeBool s.sched.free

/-- The restore of a group whose save area failed its tag (R358, R371): its team halts with INTEG. TVAL is a free value, since
the area has no address that software knows. -/
def State.restoreFails (s : State) (g : Group) : State :=
  let (n, s) := s.nextFree
  let v := Config.freeWord n
  (s.emitG g 0x09 0x13 (v.toNat % 2 ^ 32)).fatalTrap g ⟨0x13, false, v, 0, 0, true⟩

/-- The next instance serial of a group's context, taken for the group (R105). -/
def State.takeSerial (s : State) (g : Group) : Group × State :=
  match s.ctx? g.place.ctx with
  | none => (g, s)
  | some c =>
    let n := nextSerial c.gser
    ({ g with place := { g.place with gser := n } }, s.setCtx { c with gser := n })

/-- GROUP_RESTORE (R369): a group comes back to its core and slot, with the next instance serial if it restarts (R105). One whose team
has halted stops at once (R359), one whose
save area fails its tag halts its team (R371), and one with a GANGMIS that arose while it was away takes it (R313). -/
def execGroupRestore (g : Nat) (s : State) : Out :=
  match s.group? g with
  | none => .next s
  | some g =>
    match s.team? g.place.team, s.grid? g.place.grid with
    | some t, some r =>
      if !s.restorable g t r then .next s
      else
        let bad := s.saveBad g r
        let s := (s.nextFree).2.putWindows t r.lrec.partw
        let away := g.latchAway
        let (g, s) := if g.life == .restart then s.takeSerial g else (g, s)
        let g := { g with life := .resident, evict := none, latchAway := none }
        let s := (s.setGroup g).emitG g 0x0F 1 g.place.gser.toNat
        match t.halted, away with
        | some c, _ => .next (s.stopNow g .teamHalted c.toNat false (.clock s.now))
        | none, some reason => .next (if bad then s.restoreFails g else s.trapScalar g 0x07 reason)
        | none, none => .next (if bad then s.restoreFails g else s)
    | _, _ => .next s

-- GCTL (R361).

/-- The group of a context in a slot of a die's core. -/
def State.gctlGroup (s : State) (die : Nat) (v : Word) : Option Group :=
  s.groups.find? fun g => g.isResident && g.place.core == 128 * die + bits v 10 4 && g.place.slot == bits v 3 0
    && g.place.ctx == bits v 47 32

/-- A die's GCTL with STAT (R361). -/
def State.setStat (s : State) (die : Nat) (v : Word) (stat : Nat) (busy : Option Nat) : State :=
  let d := s.die die
  s.setDie die { d with gctl := (v &&& 0xFFFFF00007FF) ||| word (stat * 2 ^ 24), busy := busy }

/-- A halted or stopped group goes on (R120, R361). -/
def Group.resumed (g : Group) : Group :=
  if g.life == .halted then { g with life := .resident, sc := { g.sc with spc := g.sr.tpc, sup := true } }
  else { g with life := .resident }

/-- Whether a group's team has halted (R359). -/
def State.teamHalted (s : State) (g : Group) : Bool := (s.team? g.place.team).any fun t => t.halted.isSome

/-- A group is discarded, one that is not in a halted team as a kill with CAUSE 0 (R361, R364). -/
def State.discardGroup (s : State) (g : Group) : State :=
  let halted := s.teamHalted g
  let s := s.dropReads g
  let (s, g) := s.flushQueue g
  let s := (s.setGroup g).killSteps g
  let s := if halted then s else s.log 3 0 0 (g.origin (s.worldOf g) false g.sr.tpc) g.sr.tpc 0
  s.emitG g 0x0F 2 g.place.gser.toNat

/-- The operation of a GCTL write on the group it names: none where it is not allowed in the group's state. -/
def State.gctlEffect (s : State) (op : Nat) (g : Group) : Option State :=
  let ending := match s.ctx? g.place.ctx with
    | some c => c.ending
    | none => true
  match op with
  | 1 => if (g.life == .halted || g.life == .stopped) && !ending then some (s.setGroup g.resumed) else none
  | 2 => if g.life == .resident && !s.teamHalted g then none else some (s.discardGroup g)
  | 3 =>
    if g.life == .halted then
      let lane := g.sr.tcause.getLsbD 9
      some (s.teamHalt g (g.sr.tcause.setWidth 8) (if lane then 1 else 0) (if lane then g.sr.tlpc else g.sr.tpc) g.sr.tval)
    else none
  | 4 => if g.life == .resident && !s.teamHalted g then some (s.sendStop g ⟨false, .clock s.now, false⟩ stopClocks) else none
  | 5 => if s.preemptible g then some (s.startEviction g.uid) else none
  | _ => some s

/-- Whether an operation of GCTL on a group has not ended (R361): an EVICT ends with its eviction, a STOP once its stop has reached the
group, and a stop that the group waits to take holds any but an EVICT. -/
def Group.gctlWaits (g : Group) (op : Nat) : Bool :=
  if op == 5 then g.evicting.isSome else g.stop.isSome || (op == 4 && g.coming.isSome)

/-- A write of GCTL (R361): ignored while STAT reads 3. A STOP and an EVICT leave STAT at 3 until they end. -/
def State.writeGctl (s : State) (die : Nat) (v : Word) : State :=
  if (s.die die).busy.isSome then s
  else
    let op := bits v 31 28
    if op == 0 || 5 < op then s.setStat die v 0 none
    else
      match s.gctlGroup die v with
      | none => s.setStat die v 1 none
      | some g =>
        match s.gctlEffect op g with
        | none => s.setStat die v 2 none
        | some s =>
          if (s.group? g.uid).any fun h => h.gctlWaits op then s.setStat die v 3 (some g.uid) else s.setStat die v 0 none

/-- GCTL operations that waited and have ended (R361). -/
def State.finishGctl (s : State) : State :=
  s.dies.foldl (fun s d =>
    match d.2.busy with
    | none => s
    | some u =>
      if (s.group? u).any fun g => g.gctlWaits (bits d.2.gctl 31 28) then s else s.setStat d.1 d.2.gctl 0 none) s

/-- A GCTL write of one operation. -/
def gctlWord (op die : Nat) (v : Word) (s : State) : Out :=
  if bits v 31 28 == op && decide (die < 16) then .next (s.writeGctl die v) else .next s

/-- RESUME (R361). -/
def execResume (die : Nat) (value : Word) (s : State) : Out := gctlWord 1 die value s
/-- DISCARD (R361). -/
def execDiscard (die : Nat) (value : Word) (s : State) : Out := gctlWord 2 die value s
/-- FATAL (R361). -/
def execFatal (die : Nat) (value : Word) (s : State) : Out := gctlWord 3 die value s
/-- STOP (R361). -/
def execStop (die : Nat) (value : Word) (s : State) : Out := gctlWord 4 die value s
/-- EVICT (R361). -/
def execEvict (die : Nat) (value : Word) (s : State) : Out := gctlWord 5 die value s

-- CTXEND (R372).

/-- A group of a context that ends stops (R359 steps 2 and 3), and its seals close with it (R372 step 3). -/
def State.endGroup (s : State) (g : Group) : State :=
  match g.life with
  | .resident => s.sendStop g ⟨false, .clock s.now, false⟩ stopClocks
  | _ => (s.withdraw g.uid).sealAbort g

/-- Steps 1 and 2 of R372: grids that are not fully placed are dropped and the groups stop. -/
def State.beginEnd (s : State) (c : Context) : State :=
  let n := c.spec.number
  let s := s.setCtx { c with ending := true }
  let drop (t : Grid) : Grid := if t.ctx == n && decide (t.placed < t.lrec.teams) then { t with dropped := true } else t
  let s := { s with grids := s.grids.map drop }
  (s.groups.filter fun g => g.place.ctx == n).foldl State.endGroup s

/-- CTXEND (R372). -/
def execCtxend (value : Word) (s : State) : Out :=
  if bits s.clk.ctxend 19 18 == 1 then .next s
  else
    let n := bits value 15 0
    let reg (stat : Nat) : Clock := { s.clk with ctxend := word (stat * 2 ^ 18 + n) }
    if !value.getLsbD 16 then .next { s with clk := reg (bits s.clk.ctxend 19 18) }
    else
      match s.ctx? n with
      | none => .next { s with clk := reg 2 }
      | some c => .next ({ s with clk := reg 1 }.beginEnd c)

/-- Step 3 of R372: the groups have stopped, and the accepted operations and parts of the context have ended, but for
collectives, which end as by time-out. -/
def State.endQuiet (s : State) (n : Nat) : Bool :=
  !(s.groups.any fun g => g.place.ctx == n && g.isResident && g.life == .resident)
    && !(s.engs.any fun o => o.who.ctx == n && o.started.isSome && match o.kind with
      | .copy _ _ _ _ _ _ => true
      | _ => false)
    && !(s.mats.any fun o => o.who.ctx == n && o.accepted)

/-- A group removed at the end of its context (R372 step 4). -/
def State.endRemove (s : State) (g : Group) : State :=
  let (s, g) := (s.dropReads g).flushQueue g
  let s := { s with groups := s.groups.filter (fun x => x.uid != g.uid) }
  s.emitG g 0x0F 2 g.place.gser.toNat

/-- Translations of a context leave every unit, and the near caches are emptied (R242, R243). -/
def State.dropTranslations (s : State) (n : Nat) : State :=
  { s with
    cores := s.cores.map fun c => (c.1, { c.2 with tlb := c.2.tlb.filter (fun e => e.ctx != n), near := [] })
    dies := s.dies.map fun d => (d.1, { d.2 with
      tlb := d.2.tlb.filter (fun e => e.ctx != n), tlbBig := d.2.tlbBig.filter (fun e => e.ctx != n) })
    fabric := { s.fabric with cached := s.fabric.cached.filter (fun p => p.1 != n) } }

/-- The Plumb pages of a context return (R405). -/
def State.returnPages (s : State) (n : Nat) : State :=
  [0, 1].foldl (fun s k =>
    let x := s.stack k
    s.setStack k { x with pg := x.pg.map fun e => if e.getLsbD 63 && bits e 47 32 == n then 0 else e }) s

/-- An automaton that a context armed. -/
def State.armedBy (s : State) (n unit a : Nat) : Bool :=
  match s.automaton unit a with
  | some x => x.owner == some n
  | none => false

/-- Steps 4 to 6 of R372. -/
def State.finishEnd (s : State) (c : Context) : State :=
  let n := c.spec.number
  let ops := (s.engs.filter fun o => o.who.ctx == n).map fun o => o.uid
  let s := ops.foldl (fun s u => { s with cores := s.cores.map fun c =>
    (c.1, { c.2 with locks := c.2.locks.filter fun l => l.op != u }) }) s
  let s := { s with
    engs := s.engs.filter (fun o => o.who.ctx != n)
    mats := s.mats.filter (fun o => o.who.ctx != n) }
  let s := (s.groups.filter fun g => g.place.ctx == n).foldl State.endRemove s
  let gs := (s.grids.filter fun t => t.ctx == n).map fun t => t.uid
  let s := { s with teams := s.teams.filter (fun t => !gs.contains t.grid) }
  let s := gs.foldl (fun s u => (List.range 16).foldl (fun s d => s.freeSlots d u) s) s
  let s := (List.range 17).foldl (fun (s : State) (u : Nat) =>
    (List.range 4).foldl (fun (s : State) (a : Nat) => if s.armedBy n u a then s.disarm u a else s) s) s
  let s := s.returnPages n
  let s := s.dies.foldl (fun s d =>
    (d.2.tensors.filter fun t => t.ctx == n).foldl (fun s t => s.freeTensor d.1 t.index) s) s
  let s := s.dropTranslations n
  { s with
    grids := s.grids.filter (fun t => t.ctx != n)
    ctxs := s.ctxs.filter (fun x => x.spec.number != n) }

/-- A context that ends does so once it is quiet; CTXEND then reads as done where it named that context. -/
def State.finishContexts (s : State) : State :=
  match s.ctxs.find? fun c => c.ending && s.endQuiet c.spec.number with
  | none => s
  | some c =>
    let n := c.spec.number
    let r := s.clk.ctxend
    let r := if bits r 19 18 == 1 && bits r 15 0 == n then word n else r
    { s.finishEnd c with clk := { s.clk with ctxend := r } }

/-- What the units carry on by themselves at a clock: evictions, GCTL operations and the end of a context; and at a tick the
time slices. -/
def State.clockUnits (s : State) (ticked : Bool) : State :=
  let s := s.finishEvictions.finishGctl.finishContexts
  if ticked then s.countSlices else s

end Sys2Proof.Machine
end

