-- ==== Sys2Proof/Machine/Errors.lean ====
section
/-! DEFINITION. Errors: UNCORRECTABLE_ERROR and the grazer (R374, R375), reports of store faults (R363), and the registers of
the control space that change a unit (R238, R262, R454). -/

namespace Sys2Proof.Machine

open Sys2Proof

-- Uncorrectable errors and the grazer.

/-- No context: the events of an error that no context's access met (R381). -/
def noCtx : Nat := 65536

/-- Sectors of HBM and LPDDR (R220, R374). -/
def isSector (n : Nat) : Bool := decide (n < 2 ^ 33) || (decide (2 ^ 34 ≤ n) && decide (n < 2 ^ 35))

/-- UNCORRECTABLE_ERROR (R373, R374): the sector, in DRAM or in its home's cache, or the word is poisoned. Of a mirrored register
each copy may be bad, which one is hit a free value (log entry 3); a read repairs one bad copy (`State.repairCopies`). -/
def execUncorrectableError (site : ErrorSite) (s : State) : Out :=
  match site with
  | .sector n =>
    if isSector n && !s.mem.poison.contains n then .next { s with mem := { s.mem with poison := n :: s.mem.poison } }
    else .next s
  | .homeCache n =>
    if isSector n && !s.mem.poison.contains n then
      .next { s with mem := { s.mem with poison := n :: s.mem.poison, cached := n :: s.mem.cached } }
    else .next s
  | .scratch core w =>
    let c := s.core core
    if decide (core < 2048) && decide (8 * w + 8 ≤ scratchBytes c.part) && !c.poisonS.contains w then
      .next (s.setCore core { c with poisonS := w :: c.poisonS })
    else .next s
  | .accumulator core w =>
    let c := s.core core
    if decide (core < 2048) && decide (8 * w + 8 ≤ accBytes c.part) && !c.poisonA.contains w then
      .next (s.setCore core { c with poisonA := w :: c.poisonA })
    else .next s
  | .register g v =>
    match s.group? g with
    | none => .next s
    | some g =>
      if 32 * 264 ≤ v || g.ln.bad.contains v then .next s
      else if s.copies g == 1 then .next (s.setGroup { g with ln := { g.ln with bad := v :: g.ln.bad } })
      else if !g.ln.badOne.contains v then .next (s.setGroup { g with ln := { g.ln with badOne := v :: g.ln.badOne } })
      else
        let (n, s) := s.nextFree
        if Config.freeBool n then .next s
        else
          .next (s.setGroup { g with ln := { g.ln with
            bad := v :: g.ln.bad, badOne := g.ln.badOne.filter (fun k => k != v) } })

/-- The address of a sector. -/
def sectorAddr (n : Nat) : Nat := 128 * n

/-- The report of an error at a site, none where there is no such store (R380); a register's are its mirror's alone (R373). -/
def State.siteReport (s : State) : ErrorSite → Option ErrorReport
  | .sector n => if isSector n then some (sectorReport (sectorAddr n)) else none
  | .homeCache n => if isSector n then some { sectorReport (sectorAddr n) with tag := 1 } else none
  | .scratch core w =>
    if decide (core < 2048) && decide (8 * w + 8 ≤ scratchBytes (s.core core).part) then some (poolReport core w) else none
  | .accumulator core w =>
    if decide (core < 2048) && decide (8 * w + 8 ≤ accBytes (s.core core).part) then some (poolReport core w) else none
  | .register _ _ => none

/-- Whether a site holds an error that cannot be corrected (R374). -/
def State.siteBad (s : State) : ErrorSite → Bool
  | .sector n | .homeCache n => s.mem.poison.contains n
  | .scratch core w => (s.core core).poisonS.contains w
  | .accumulator core w => (s.core core).poisonA.contains w
  | .register _ _ => false

/-- A correctable error at a site is corrected in place, and ECC_CORR is emitted (R373, R380). -/
def State.correct (s : State) (site : ErrorSite) : State :=
  match s.siteReport site with
  | some e => if s.siteBad site then s else s.emitError e true noCtx
  | none => s

/-- The grazer reads a sector, after `tries` lost races (R375): with a correctable error, a free value (log entry 3), a write-back is
to come, which a write of the sector in between defeats. -/
def State.graze (s : State) (n tries : Nat) : State :=
  let s := { s with mem := { s.mem with
    retry := s.mem.retry.filter (fun r => r.1 != n), visits := s.mem.visits.filter (fun v => v.1 != n) } }
  if s.mem.poison.contains n then s.emitError (sectorReport (sectorAddr n)) false noCtx
  else
    let (k, s) := s.nextFree
    if Config.freeBool k then { s with mem := { s.mem with visits := s.mem.visits ++ [(n, tries, false)] } } else s

/-- The write-back of a sector that the grazer has read (R375), one indivisible act at its home: the correction is written, or, where a
write has come since the read, the sector is tried again after 4,096 clocks, up to 16 times. -/
def State.writeBack (s : State) (n : Nat) : State :=
  match s.mem.visits.find? fun v => v.1 == n with
  | none => s
  | some (_, tries, changed) =>
    let s := { s with mem := { s.mem with visits := s.mem.visits.filter fun v => v.1 != n } }
    if !changed then s.emitError (sectorReport (sectorAddr n)) true noCtx
    else if tries < 16 then { s with mem := { s.mem with retry := s.mem.retry ++ [(n, tries + 1, s.now)] } }
    else s

/-- GRAZER_VISIT (R375): the grazer reads a sector of HBM or LPDDR, or a word of a pool or of a home's cache, which it corrects at
once. Whether there is a correctable error is a free value (log entry 3). -/
def execGrazerVisit (site : ErrorSite) (s : State) : Out :=
  match site, s.siteReport site with
  | _, none => .next s
  | .sector n, some _ => .next (s.graze n 0)
  | site, some e =>
    if s.siteBad site then .next (s.emitError e false noCtx)
    else
      let (k, s) := s.nextFree
      .next (if Config.freeBool k then s.emitError e true noCtx else s)

/-- GRAZER_RETRY (R375). -/
def execGrazerRetry (sector : Nat) (s : State) : Out :=
  match s.mem.retry.find? fun r => r.1 == sector with
  | none => .next s
  | some (_, tries, t) => if t + 4096 ≤ s.now then .next (s.graze sector tries) else .next s

-- Reports (R363).

/-- DEFERRED_FAULT_REPORT (R363): report `k`, the oldest of its group, is taken as DEFER in user mode while the group is
resident, and is logged when the group has left. -/
def execDeferredFaultReport (k : Nat) (s : State) : Out :=
  match s.reports[k]? with
  | none => .next s
  | some r =>
    let s' := { s with reports := s.reports.eraseIdx k }
    match s.group? r.who.g with
    | none => .next (s'.log 1 r.cause.toNat (if r.engine then 2 else if r.who.lane then 1 else 0) r.who r.who.pc r.addr)
    | some g =>
      if g.sc.sup || (s.reports.take k).any fun x => x.who.g == r.who.g then .next s
      else .next (s'.setGroup (g.addAsync ⟨0x19, false, r.addr, 0, 0, false⟩))

-- Registers of the control space.

/-- CBUD_WRITE (R454): the budget of a core's next scan, at most 64 and a multiple of 4. -/
def execCbudWrite (die core : Nat) (value : Word) (s : State) : Out :=
  if 16 ≤ die || 128 ≤ core then .next s
  else
    let n := 128 * die + core
    .next (s.setCore n { s.core n with newBudget := some (min 64 (bits value 6 0) / 4 * 4) })

/-- A sticky bit of FTSTAT set. -/
def FirstTouch.flag (f : FirstTouch) (b : BitVec 5) : FirstTouch := { f with flags := f.flags ||| b }

/-- Whether a frame of a size may enter a pool of a die (R238): it is aligned and lies in the die's HBM. -/
def frameOk (die size f : Nat) : Bool := f % size == 0 && f / 2 ^ 36 == die

/-- A fill register of the first-touch unit (R238, R262): the frame joins its pool, or BADF or OVF is set. -/
def State.fillPool (s : State) (die size limit : Nat) (pool : FirstTouch → List Nat)
    (set : FirstTouch → List Nat → FirstTouch) (value : Word) : State :=
  if 16 ≤ die then s
  else
    let d := s.die die
    let f := value.toNat
    let ft :=
      if !frameOk die size f then d.ft.flag 16
      else if limit ≤ (pool d.ft).length then d.ft.flag 8
      else set d.ft (pool d.ft ++ [f])
    s.setDie die { d with ft := ft }

/-- FTFILL8K (R238). -/
def execFtfill8k (die : Nat) (value : Word) (s : State) : Out :=
  .next (s.fillPool die 8192 1024 (fun f => f.small) (fun f l => { f with small := l }) value)
/-- FTFILL8M (R238). -/
def execFtfill8m (die : Nat) (value : Word) (s : State) : Out :=
  .next (s.fillPool die 0x800000 32 (fun f => f.large) (fun f l => { f with large := l }) value)
/-- FTRSVFILL (R262). -/
def execFtrsvfill (die : Nat) (value : Word) (s : State) : Out :=
  .next (s.fillPool die 8192 256 (fun f => f.reserve) (fun f l => { f with reserve := l }) value)

/-- FTSTAT_CLEAR (R238): a one clears its sticky bit. -/
def execFtstatClear (die : Nat) (value : Word) (s : State) : Out :=
  if 16 ≤ die then .next s
  else
    let d := s.die die
    .next (s.setDie die { d with ft := { d.ft with flags := d.ft.flags &&& ~~~(BitVec.ofNat 5 (bits value 28 24)) } })

/-- REGISTER_WRITE (R234): a write to a register with no behaviour of its own, or to an unassigned offset, is ignored. -/
def execRegisterWrite (_offset : Nat) (_value : Word) (s : State) : Out := .next s

end Sys2Proof.Machine
end

