-- ==== Sys2Proof/Machine/Hart.lean ====
section
/-! DEFINITION. The control-core hart (R241 to R244): `dtlbi`, `dtlbf` and its illegal-instruction exception. -/

namespace Sys2Proof.Machine

open Sys2Proof

/-- An integer register of the hart; x0 reads zero. -/
def Hart.get (h : Hart) (r : BitVec 5) : Word := if r = 0 then 0 else h.x[r.toNat]'r.isLt

/-- The hart at the next word. -/
def Hart.advance (h : Hart) : Hart := { h with pc := h.pc + 4 }

/-- A word of the custom-0 opcode (R241). -/
def isCustom0 (w : W32) : Bool := w.extractLsb' 0 7 == 0x0B#7

/-- The RISC-V illegal-instruction exception (R241): machine mode takes it at mtvec, and mtval is a free value (log entries
3 and 9). -/
def State.hartIllegal (s : State) : State :=
  let (n, s) := s.nextFree
  let h := s.hart
  { s with hart := { h with
      pc := h.mtvec &&& ~~~3#64
      mepc := h.pc
      mcause := 2
      mtval := Config.freeWord n
      mpp := h.priv
      mpie := h.mie
      mie := false
      priv := 3 } }

/-- What a `dtlbi` removes (R242): the contexts and a range of virtual addresses. -/
structure Removal where
  ctx : Option Nat
  all : Bool
  lo  : Nat
  len : Nat

/-- The control word of a `dtlbi` over an address (R242). -/
def removalOf (va x : Word) : Removal :=
  let size := 8192 * 2 ^ min 40 (bits x 23 18)
  ⟨if x.getLsbD 16 then none else some (bits x 15 0), x.getLsbD 17, va.toNat % 2 ^ 53 / size * size, size⟩

/-- A translation of a context over a range is removed. -/
def Removal.covers (r : Removal) (ctx lo len : Nat) : Bool :=
  (match r.ctx with
  | none => true
  | some c => c == ctx) && (r.all || overlap r.lo r.len lo len)

/-- A datum register over a removed range is no longer set (R103). -/
def Removal.datum (r : Removal) (ctx : Nat) (d : Datum) : Datum :=
  if r.covers ctx (d.base.toNat % 2 ^ 53) d.limit then { d with v := false } else d

/-- The snapshot of an idempotent region, with its copies of the datum registers (R118). -/
def Removal.snapshot (r : Removal) (ctx : Nat) (x : Snapshot) : Snapshot := { x with dm := x.dm.map (r.datum ctx) }

/-- A walk of a removed range that is in flight (R244). -/
def Removal.walk (r : Removal) (ctx : Nat) (w : Walk) : Walk :=
  if r.covers ctx (w.va.toNat % 2 ^ 53) 1 then { w with stale := true } else w

/-- Walks that ended for a word that waits, without those of a removed range and those whose page overlaps it (R242). -/
def Removal.keep (r : Removal) (ctx : Nat) (l : List (Nat × WalkEnd)) : List (Nat × WalkEnd) :=
  l.filter fun p => !(r.covers ctx (8192 * p.1) 8192 ||
    match p.2 with
    | .leaf q => r.covers ctx q.vbase q.size
    | .fault _ => false)

/-- A lane block with its copies of the datum registers (R103). -/
def Removal.block (r : Removal) (ctx : Nat) (b : Block) : Block := { b with datum := b.datum.map (r.datum ctx) }

/-- A group that a removal reaches. -/
def Removal.group (r : Removal) (g : Group) : Group :=
  let ctx := g.place.ctx
  let sw := match g.sc.wait with
    | .walk w => ScalarWait.walk (r.walk ctx w)
    | w => w
  let lw := match g.ln.wait with
    | .walk w => LaneWait.walk (r.walk ctx w)
    | w => w
  { g with
    dm := g.dm.map (r.datum ctx)
    snap := g.snap.map (r.snapshot ctx)
    sc := { g.sc with wait := sw, walked := r.keep ctx g.sc.walked }
    ln := { g.ln with
      wait := lw
      walked := r.keep ctx g.ln.walked
      cur := g.ln.cur.map (r.block ctx)
      queue := g.ln.queue.map (r.block ctx) } }

/-- The entries of a TLB that a removal leaves. -/
def Removal.entries (r : Removal) (l : List TlbEntry) : List TlbEntry :=
  l.filter fun e => !r.covers e.ctx e.leaf.vbase e.leaf.size

/-- A removal at every unit that holds translations (R242). -/
def State.removeTranslations (s : State) (r : Removal) : State :=
  { s with
    groups := s.groups.map r.group
    cores := s.cores.map fun c => (c.1, { c.2 with tlb := r.entries c.2.tlb })
    dies := s.dies.map fun d => (d.1, { d.2 with tlb := r.entries d.2.tlb, tlbBig := r.entries d.2.tlbBig }) }

/-- The requests that may have used a removed translation and have not acted (R243): every one of the selected contexts, since
a page or a datum register that was removed reaches beyond the range. -/
def State.drainFor (s : State) (r : Removal) : List Nat :=
  (s.allReqs.filter fun q => !q.scratch && !q.isMarker && r.ctx.all fun c => c == q.who.ctx).map fun q => q.id

/-- `dtlbi` (R242): the removal is made, and what it must drain is noted. In user mode it is illegal (R241). -/
def execDtlbi (b a : BitVec 5) (s : State) : Out :=
  if s.hart.priv == 0 then .next s.hartIllegal
  else
    let r := removalOf (s.hart.get a) (s.hart.get b)
    let ids := s.drainFor r
    let s := s.removeTranslations r
    .next { s with hart := { s.hart.advance with drain := (s.hart.drain ++ ids).eraseDups } }

/-- `dtlbf` (R243): it retires once every request of the earlier removals has acted, and empties every near cache. -/
def execDtlbf (s : State) : Out :=
  if s.hart.priv == 0 then .next s.hartIllegal
  else if s.allReqs.any fun r => s.hart.drain.contains r.id then .next s
  else .next { s with
    hart := { s.hart.advance with drain := [] }
    cores := s.cores.map fun c => (c.1, { c.2 with near := [] }) }

end Sys2Proof.Machine
end

