-- ==== Sys2Proof/Machine/Port.lean ====
section
/-! DEFINITION. The host's port (R167, R433 to R436), the fabric (R437 to R442), deaths of links (R295) and the creation and
migration of contexts (R434, R448). -/

namespace Sys2Proof.Machine

open Sys2Proof

-- Contexts.

/-- A context that the device supervisor may create: its number is free, and its log obeys R434. -/
def State.mayCreate (s : State) (c : ContextSpec) : Bool :=
  decide (2 ≤ s.clk.phase) && decide (c.number < 65536) && (s.ctx? c.number).isNone && c.logBase.toNat % 64 == 0
    && ((List.range 17).any fun k => c.logSize == 2 ^ (k + 4))

/-- The time slice of a context in ticks, where the supervisor gives none (R365). -/
def defaultSlice : Nat := 4500000

/-- A slice that a context may have: 250 µs to 64 ms (R365); 0 stands for none given. -/
def sliceLegal (n : Nat) : Bool := n == 0 || (decide (281250 ≤ n) && decide (n ≤ 72000000))

/-- CONTEXT_CREATION (R434, R457, R365): from phase 2 on. -/
def execContextCreation (c : ContextSpec) (s : State) : Out :=
  let spec := if c.slice == 0 then { c with slice := defaultSlice } else c
  if s.mayCreate c && sliceLegal c.slice then .next { s with ctxs := s.ctxs ++ [⟨spec, none, none, 0, 0, 0, 0, false⟩] }
  else .next s

/-- START (R167): written once, it launches the conductor grid, whose record the device reads for no die. -/
def State.writeStart (s : State) (c : Context) (value : Word) : State :=
  if c.start.isSome || c.ending then s
  else
    let c := { c with start := some value }
    let (t, s) := (s.setCtx c).newGrid c true none (some (value, 16, none)) none
    let s := match s.ctx? c.spec.number with
      | some c => s.setCtx { c with cond := some t.uid }
      | none => s
    s.readGrid t value 16 none

/-- START (R167). -/
def execStart (ctx : Nat) (value : Word) (s : State) : Out :=
  match s.ctx? ctx with
  | some c => .next (s.writeStart c value)
  | none => .next s

/-- CSTAT (R167). -/
def State.cstat (s : State) (c : Context) : Word :=
  match c.cond with
  | none => 0xFD
  | some u =>
    match s.grid? u with
    | some t => t.status.getD 0xFF
    | none => 0xFF

/-- The bytes of a context control page (R434). -/
def State.controlPage (s : State) (c : Context) : List Byte :=
  leBytes 8 0 ++ leBytes 8 (s.cstat c).toNat ++ leBytes 8 c.spec.logBase.toNat ++ leBytes 8 c.spec.logSize
    ++ leBytes 8 c.logw.toNat ++ leBytes 8 c.logr.toNat ++ leBytes 8 c.spec.world.toNat
    ++ leBytes 8 ((if c.spec.xcompat then 1 else 0) + if c.spec.prot then 2 else 0)

/-- Bytes of BAR0 (R433): every context number has a page. -/
def barSize : Nat := 2 ^ 28

/-- A host write of a context control page (R434): START and LOGRIDX take a write of 8 bytes. -/
def State.writePage (s : State) (addr : Nat) (data : List Byte) : State :=
  match s.ctx? (addr / 4096) with
  | none => s
  | some c =>
    if data.length != 8 then s
    else if addr % 4096 == 0 then s.writeStart c (word (leNat data))
    else if addr % 4096 == 0x28 then s.setCtx { c with logr := word (leNat data) }
    else s

-- The host (R433 to R436).

/-- The context that a host request names (R433). -/
def State.requester (s : State) (pasid : Option Nat) : Option Context := pasid.bind s.ctx?

/-- What an access that no stream makes comes to: it has ended, it waits, on a held PTE or for the wake of a die, or it has been
sent in part outbound, under these keys. -/
inductive ActEnd where
  | ended (s : State)
  | waits (s : State) (held : Bool)
  | sent (s : State) (ids : List Nat)

/-- A host request that cannot be translated waits as a scalar access would (R231, R246, R433), or is answered Unsupported Request. -/
def State.hostFailed (s : State) (timedOut : Bool) (addr : Nat) : AccessEnd → ActEnd
  | .held => if timedOut then .ended (s.send (.unsupportedRequest addr)) else .waits s true
  | .asleep => .waits s false
  | _ => .ended (s.send (.unsupportedRequest addr))

/-- A posted write of the host (R433 to R435): it is translated and applied at its homes, line by line, or goes outbound where its
page is elsewhere. It is a release at sys of the host's earlier writes (R283, R294). One that meets a failure is dropped. -/
def State.hostWrite (s : State) (timedOut : Bool) (pasid : Option Nat) (addr : Nat) (data : List Byte) : ActEnd :=
  match s.requester pasid with
  | some c =>
    match s.engineRange 16 c.spec.number c.spec.world .store (pagesOf data.length) (word addr) data.length with
    | (s, .ok l) =>
      let n := s.order.count
      let tells : List Release := [⟨.host, 5, s.order.viewOf fun a => a == .host⟩]
      let (s, ids) := s.physStore none c.spec.number c.spec.world (word addr) (l.zip data)
      let s := s.signed n .host none tells
      if ids.isEmpty then .ended s else .sent s ids
    | (s, .error (e, _)) => s.hostFailed timedOut addr e
  | none =>
    if pasid.isNone && decide (addr + data.length ≤ barSize) then .ended (s.writePage addr data)
    else .ended (s.send (.unsupportedRequest addr))

/-- The pieces of a read, one for each line it touches: an offset and a length. `fuel` bounds the lines. -/
def linePieces : (fuel lo n : Nat) → List (Nat × Nat)
  | 0, _, _ => []
  | fuel + 1, lo, n =>
    if n == 0 then []
    else
      let k := min n (128 - lo % 128)
      (lo, k) :: linePieces fuel (lo + k) (n - k)

/-- A read of the host (R435): completions for the lines of the range, poisoned and of ones where the line is. -/
def State.hostRead (s : State) (timedOut : Bool) (pasid : Option Nat) (addr len : Nat) : ActEnd :=
  match s.requester pasid with
  | some c =>
    match s.engineRange 16 c.spec.number c.spec.world .load (pagesOf len) (word addr) len with
    | (s, .ok l) =>
      let s := (s.nextFree).2.poisonTags l
      .ended ((linePieces (len / 128 + 2) addr len).foldl (fun s p =>
        let as_ := (l.drop (p.1 - addr)).take p.2
        let bad := as_.any fun a => s.mem.poison.contains (a / 128)
        s.send (.hostData (as_.map fun a => if bad then 0xFF else s.physByte c.spec.world a) bad)) s)
    | (s, .error (e, _)) => s.hostFailed timedOut addr e
  | none =>
    if pasid.isNone && decide (addr + len ≤ barSize) then
      let page := match s.ctx? (addr / 4096) with
        | some c => s.controlPage c
        | none => []
      .ended (s.send (.hostData ((List.range len).map fun i => page.getD (addr % 4096 + i) 0) false))
    else .ended (s.send (.unsupportedRequest addr))

-- Requests of fabric peers (R439 to R441).

/-- The target's clock in units of 2^20 ns, modulo 2^14 (R439): nine ticks are eight nanoseconds. -/
def State.grantNow (s : State) : Nat := s.clk.tick * 8 / 9 / 2 ^ 20 % 2 ^ 14

/-- The MAC of a token matches under one of the two generations kept (R440). -/
def State.macOk (s : State) (r : FabricRequest) : Bool :=
  let k : BitVec 4 := BitVec.ofNat 4 (bits r.token 31 28)
  (k == s.fabric.grantGen || k == s.fabric.grantGen - 1) &&
    Config.grantMac k (r.token.setWidth 32) r.source r.srcCtx == (r.token >>> 32).setWidth 32

/-- The bytes that a request touches. -/
def fabricBytes : FabricOp → Nat
  | .load n => n
  | .store d => d.length
  | .atomic _ w _ | .compareSwap w _ _ | .reduction _ w _ => if w then 8 else 4
  | .fenceSequence | .fetchTranslation | .invalidated => 0

/-- The right that a request needs (R440). -/
def fabricNeed : FabricOp → Nat
  | .load _ => 1
  | .store _ => 2
  | .fenceSequence | .fetchTranslation | .invalidated => 0
  | _ => 3

/-- The kind of access that a request makes. -/
def fabricAcc : FabricOp → Acc
  | .load _ | .fenceSequence | .fetchTranslation | .invalidated => .load
  | .store _ => .store
  | _ => .atomic

/-- A grant entry that admits a request (R440): its context, its world and the address. A request in compatibility mode carries no
token, and the entry alone bounds it (R442, log entry 26). -/
def grantOf (r : FabricRequest) (e : List Byte) : Option (Nat × BitVec 4 × Word) :=
  let rights := if r.compat then field e 0x0E 1 % 4 else min (bits r.token 13 12) (field e 0x0E 1 % 4)
  if field e 0x0F 1 % 2 == 1 && (r.compat || bits r.token 11 0 == r.region.toNat) && decide (fabricNeed r.op ≤ rights)
    && decide (r.offset.toNat + fabricBytes r.op ≤ field e 0x08 4) then
    some (field e 0x0C 2, BitVec.ofNat 4 (field e 0x0F 1 / 16), word (field e 0 8 + r.offset.toNat))
  else none

/-- A fabric request that has been looked at: it waits, on a held PTE or for the wake of a die, or it has its answer. -/
abbrev FabricEnd := State × Except Bool FabricAnswer

/-- A fabric request whose address cannot be translated: it waits (R231, R246), or is refused. -/
def fabricFailed (timedOut : Bool) : AccessEnd → Except Bool FabricAnswer
  | .held => if timedOut then .ok .refused else .error true
  | .asleep => .error false
  | _ => .ok .refused

/-- A peer's write is applied: whether it is a release of its issuer at sys is a free value, since a packet does not tell it; a
read-modify-write carries the releases that it found (R284; log entries 3 and 49). -/
def State.peerStore (s : State) (ctx : Nat) (world : BitVec 4) (va : Word) (rmw : Bool) (l : List (Nat × Byte)) : State :=
  let (f, s) := s.nextFree
  let n := s.order.count
  let said := match l with
    | (a, _) :: _ => if rmw then s.order.saidBefore (granule a) 0 a l.length else []
    | [] => []
  let own : List Release := if Config.freeBool f then [⟨.peer, 5, s.order.viewOf fun a => a == .peer⟩] else []
  (s.physStore none ctx world va l).1.signed n .peer none (said ++ own)

/-- An admitted request acts (R440, R441): the state and the answer. An access that cannot be made is refused. -/
def State.fabricAct (s : State) (timedOut : Bool) (op : FabricOp) (ctx : Nat) (world : BitVec 4) (va : Word) : FabricEnd :=
  let n := fabricBytes op
  let acc := fabricAcc op
  if acc.isAtomic && va.toNat % n != 0 then (s, .ok .refused)
  else
    match s.engineRange 16 ctx world acc (pagesOf n) va n with
    | (s, .error (e, _)) => (s, fabricFailed timedOut e)
    | (s, .ok l) =>
      let s := s.poisonTags l
      let old := l.map fun a => s.physByte world a
      let bad := l.any fun a => s.mem.poison.contains (a / 128)
      let put (s : State) (x : Nat) : State := s.peerStore ctx world va true (l.zip (leBytes n x))
      match op with
      | .load _ => if bad then (s, .ok .refused) else (s, .ok (.value old))
      | .store d => (s.peerStore ctx world va false (l.zip d), .ok .done)
      | .atomic k _ x => (put s (combValue k.toNat n (leNat old) (x.toNat % 2 ^ (8 * n))), .ok (.value old))
      | .compareSwap _ e x => (if leNat old == e.toNat % 2 ^ (8 * n) then put s x.toNat else s, .ok (.value old))
      | .reduction k _ x => (put s (combValue k.toNat n (leNat old) (x.toNat % 2 ^ (8 * n))), .ok .done)
      | .fenceSequence | .fetchTranslation | .invalidated => (s, .ok .done)

/-- The first answer to a request that was answered before (R441). -/
def State.firstAnswer (s : State) (r : FabricRequest) : Option FabricAnswer :=
  (s.fabric.answered.find? fun x => x.1 == r.source && x.2.1 == r.srcCtx && x.2.2.1 == r.sequence).map fun x => x.2.2.2

/-- The answers kept: the last 4,096 of each pair of source context and peer (R441). -/
def keepAnswers (l : List (Nat × Nat × Nat × FabricAnswer)) (source ctx : Nat) : List (Nat × Nat × Nat × FabricAnswer) :=
  let mine := (l.filter fun x => x.1 == source && x.2.1 == ctx).length
  if mine ≤ 4096 then l
  else
    match l.find? fun x => x.1 == source && x.2.1 == ctx with
    | some x => l.erase x
    | none => l

/-- A page's translation given to a source (R442): its rights and its world. -/
def State.givePage (s : State) (timedOut : Bool) (r : FabricRequest) (ctx : Nat) (world : BitVec 4) (va : Word) : FabricEnd :=
  match s.engineXlate 16 ctx world .load va with
  | (s, .held) => (s, fabricFailed timedOut .held)
  | (s, .asleep) => (s, fabricFailed timedOut .asleep)
  | (s, _) =>
    match s.walk ctx va with
    | .leaf l =>
      let k := (r.source, ctx, pageOf va)
      ({ s with fabric := { s.fabric with given := if s.fabric.given.contains k then s.fabric.given else s.fabric.given ++ [k] } },
        .ok (.translation l.r l.w l.a l.world))
    | _ => (s, .ok .refused)

/-- A request's checks and its act (R440, R442). -/
def State.fabricAnswer (s : State) (timedOut : Bool) (r : FabricRequest) : FabricEnd :=
  if s.fabric.fenced.contains r.source || s.fabric.fencedSeq.contains (r.source, r.srcCtx, r.sequence) then (s, .ok .refused)
  else if !r.compat && (!s.macOk r || 2 ^ 13 ≤ (bits r.token 27 14 + 2 ^ 14 - s.grantNow) % 2 ^ 14) then (s, .ok .refused)
  else
    match s.ctx? r.target with
    | none => (s, .ok .refused)
    | some c =>
      match s.engineRead 16 r.target c.spec.world (c.spec.gtBase + word (16 * r.region.toNat)) 16 with
      | (s, .error (e, _)) => (s, fabricFailed timedOut e)
      | (s, .ok e) =>
        match grantOf r e with
        | none => (s, .ok .refused)
        | some (ctx, world, va) =>
          if r.op == .fetchTranslation then (if r.compat then s.givePage timedOut r ctx world va else (s, .ok .refused))
          else if r.compat && !s.fabric.given.contains (r.source, ctx, pageOf va) then (s, .ok .refused)
          else s.fabricAct timedOut r.op ctx world va

/-- A request carries out its access, and its answer is kept and sent (R440, R441). -/
def State.peerRequest (s : State) (timedOut : Bool) (r : FabricRequest) : ActEnd :=
  match s.fabricAnswer timedOut r with
  | (s, .error held) => .waits s held
  | (s, .ok a) =>
    let l := s.fabric.answered ++ [(r.source, r.srcCtx, r.sequence, a)]
    .ended ({ s with fabric := { s.fabric with answered := keepAnswers l r.source r.srcCtx } }.send
      (.fabricAnswer r.source r.srcCtx r.sequence a))

-- Accesses that wait.

/-- Whether an access comes from the host; its accesses keep their order (R435). -/
def DeviceAct.isHost : DeviceAct → Bool
  | .hostWrite _ _ _ | .hostAcks _ | .hostRead _ _ _ => true
  | _ => false

/-- Whether an access is the request of a peer with these numbers. -/
def DeviceAct.isPeer (a : DeviceAct) (source ctx sequence : Nat) : Bool :=
  match a with
  | .peer r => r.source == source && r.srcCtx == ctx && r.sequence == sequence
  | _ => false

/-- An access waits for one of those before it: the host's for one another (R294, R435), and an entry of a context's log for the
entries before it. -/
def blocked (before : List Job) (a : DeviceAct) : Bool :=
  before.any fun j => (a.isHost && j.act.isHost) ||
    match a with
    | .logEntry c _ _ => j.act.entryOf c
    | _ => false

/-- What a write of a record comes to. -/
def recordEnd (dropped : State → State) : State × WriteEnd → ActEnd
  | (s, .done) => .ended s
  | (s, .dropped) => .ended (dropped s)
  | (s, .waits held) => .waits s held

/-- An access is tried. -/
def State.deviceAct (s : State) (timedOut : Bool) : DeviceAct → ActEnd
  | .hostWrite p a d => s.hostWrite timedOut p a d
  | .hostAcks ids => if s.outb.any fun o => ids.contains o.id then .waits s false else .ended s
  | .hostRead p a n => s.hostRead timedOut p a n
  | .peer r => s.peerRequest timedOut r
  | .stopRecord ctx core slot w va d =>
    recordEnd (fun s => s.stopDropped ctx core slot) (s.recordWrite timedOut (dieOf core) ctx w va d)
  | .logEntry ctx die d => recordEnd id (s.writeEntry timedOut ctx die d)
  | .sealRecord ctx die w va d => recordEnd id (s.recordWrite timedOut die ctx w va d)

/-- An access arrives: it is tried at once, or joins those that wait. -/
def State.submit (s : State) (a : DeviceAct) : State :=
  if blocked s.jobs a then s.addJob a false
  else
    match s.deviceAct false a with
    | .ended s => s
    | .waits s held => s.addJob a held
    | .sent s ids => s.addJob (.hostAcks ids) false

/-- Whether a waiting access may be tried now: a held PTE is read again every 2,048 clocks (R246). -/
def Job.due (j : Job) (now : Nat) : Bool :=
  match j.held with
  | some (_, last) => decide (last + 2048 ≤ now)
  | none => true

/-- A waiting access has waited on a held PTE for 2^26 clocks (R246). -/
def Job.timedOut (j : Job) (now : Nat) : Bool :=
  match j.held with
  | some (since, _) => decide (since + heldLimit ≤ now)
  | none => false

/-- A waiting access replaced. -/
def State.setJob (s : State) (j : Job) : State := { s with jobs := s.jobs.map fun x => if x.id == j.id then j else x }

/-- Waiting access `k` is tried again (R246, R412, R435). -/
def State.runDevice (s : State) (k : Nat) : State :=
  match s.jobs[k]? with
  | none => s
  | some j =>
    if blocked (s.jobs.take k) j.act || !j.due s.now then s
    else
      match s.deviceAct (j.timedOut s.now) j.act with
      | .ended s => { s with jobs := s.jobs.filter fun x => x.id != j.id }
      | .sent s ids => s.setJob { j with act := .hostAcks ids, held := none }
      | .waits s held =>
        let since := match j.held with
          | some (n, _) => n
          | none => s.now
        s.setJob { j with held := if held then some (since, s.now) else none }

/-- HOST_POSTED_WRITE (R435). -/
def execHostPostedWrite (pasid : Option Nat) (addr : Nat) (data : List Byte) (s : State) : Out :=
  .next (s.submit (.hostWrite pasid addr data))

/-- HOST_READ (R435). -/
def execHostRead (pasid : Option Nat) (addr len : Nat) (s : State) : Out := .next (s.submit (.hostRead pasid addr len))

/-- Whether a page may be reused (R442): every source has acknowledged its invalidation, or is fenced. -/
def State.reusable (s : State) (ctx page : Nat) : Bool :=
  !(s.fabric.recalled.any fun x => x.2.1 == ctx && x.2.2.1 == page && !s.fabric.fenced.contains x.1)

/-- The control cores are told that a page may be reused, once it may (R442). -/
def State.tellReusable (s : State) (ctx page : Nat) : State :=
  if s.reusable ctx page then s.send (.controlInterrupt "page may be reused" ctx page 0) else s

/-- A source has acknowledged the invalidation of a page (R442). -/
def State.recallDone (s : State) (r : FabricRequest) : State :=
  let acked (x : Nat × Nat × Nat × Nat) : Bool := x.1 == r.source && x.2.1 == r.target && x.2.2.1 == r.sequence
  if s.fabric.recalled.any acked then
    State.tellReusable { s with fabric := { s.fabric with recalled := s.fabric.recalled.filter fun x => !acked x } } r.target r.sequence
  else s

/-- FABRIC_INGRESS (R440 to R442): a fence of a sequence number is acknowledged, and the number is refused from then on, answered
or not; a duplicate of any other gets the first answer again, once there is one. The acknowledgement of an invalidation names its
page as its sequence number. -/
def execFabricIngress (r : FabricRequest) (s : State) : Out :=
  let line := (r.region.toNat * 2 ^ 30 + r.offset.toNat) / 128
  let s := s.emit 0x14 (unitSource 0 4 (Config.planeOfLine line % 32)) r.source (r.sequence % 2 ^ 32) r.target 16
  let answer (s : State) (a : FabricAnswer) : State := s.send (.fabricAnswer r.source r.srcCtx r.sequence a)
  let f := s.fabric
  let k := (r.source, r.srcCtx, r.sequence)
  match r.op with
  | .fenceSequence =>
    .next (answer { s with
      fabric := { f with fencedSeq := if f.fencedSeq.contains k then f.fencedSeq else f.fencedSeq ++ [k] }
      jobs := s.jobs.filter fun j => !j.act.isPeer r.source r.srcCtx r.sequence } .done)
  | .invalidated => .next (s.recallDone r)
  | _ =>
    match if f.fencedSeq.contains k then none else s.firstAnswer r with
    | some a => .next (answer s a)
    | none =>
      if s.jobs.any fun j => j.act.isPeer r.source r.srcCtx r.sequence then .next s
      else .next (s.submit (.peer r))

-- Links (R295, R441).

/-- LINK_KEY_ROTATION (R441). -/
def execLinkKeyRotation (s : State) : Out :=
  let f := s.fabric
  if f.rotated + millisecond ≤ s.clk.tick then
    .next { s with fabric := { f with keyGen := f.keyGen + 1, rotated := f.rotated + millisecond } }
  else .next s

/-- A peer's access whose generation of its last transmission is past its grace (R441): a receiver keeps the previous
generation for two more rotations. -/
def State.pastGrace (s : State) (o : Outbound) : Bool :=
  isPeer o.pa && !o.dead && decide (o.gen + 3 ≤ s.fabric.keyGen)

/-- END_TO_END_RETRY (R441): the request is sent again under the current key, with its sequence number. -/
def execEndToEndRetry (k : Nat) (s : State) : Out :=
  match s.outb[k]? with
  | none => .next s
  | some o =>
    if !s.pastGrace o then .next s
    else
      let ctx := match o.who with
        | some w => w.ctx
        | none => noCtx
      let s := { s with outb := s.outb.set k { o with gen := s.fabric.keyGen } }
      .next ((s.emit 0x13 (homeSource o.pa) (peerOf o.pa) (o.seqno % 2 ^ 32) ctx 16).transmit ctx o.seqno o.token [(o.pa, o.kind)])

/-- Whether an access may be sent again after its link's death: a load has no effect at its target, and nothing else has an
unknown fate (R295). -/
def Outbound.isLoad (o : Outbound) : Bool :=
  match o.kind with
  | .load _ => true
  | _ => false

/-- LINK_DEATH (R295, R441): the stores, atomics and reductions to a peer that await their acknowledgement have an unknown fate, and
a fence of their sequence number is sent; a load is sent again with its number, over another plane. -/
def execLinkDeath (peer : Nat) (s : State) : Out :=
  let hit (o : Outbound) : Bool := isPeer o.pa && peerOf o.pa == peer && !o.dead
  let ctxOf (o : Outbound) : Nat := (o.who.map fun w => w.ctx).getD noCtx
  let outb := s.outb.map fun (o : Outbound) => if hit o && !o.isLoad then { o with dead := true } else o
  .next ((s.outb.filter hit).foldl (fun s o =>
    if o.isLoad then s.transmit (ctxOf o) o.seqno o.token [(o.pa, o.kind)]
    else s.send (.fabricFence peer (ctxOf o) o.seqno)) { s with outb := outb })

/-- How an outbound access ends. -/
inductive OutEnd where
  | done
  | refused
  | unknown
  | hostError
  deriving DecidableEq, Repr

/-- The end of an outbound access (R295, R436, R440): the host's error and the peer's refusal are free values (log entry 3). One
whose link died ends when its target acknowledges the fence of its number, or is declared failed (R441). -/
def State.outEnd (s : State) (o : Outbound) : OutEnd :=
  if o.dead then .unknown
  else if !isPeer o.pa then
    match o.kind with
    | .store _ => if Config.outboundError s.sched.free then .hostError else .done
    | _ => .done
  else if o.who.isNone then .done
  else if Config.freeBool s.sched.free then .refused else .done

/-- What an outbound access returns: bytes that are free (log entry 3). -/
def OutKind.returned (k : OutKind) (v pa : Nat) : List Byte :=
  match k with
  | .store _ => []
  | .load n | .atomic _ n _ | .compareSwap n _ => (List.range n).map fun i => Config.freeByte v (pa + i)

/-- A value that an outbound access returns to the result that waits for it. An acquire load then empties the near cache (R93). -/
def State.deliverOut (s : State) (o : Outbound) : State :=
  match o.who with
  | none => s
  | some w =>
    let r : MemReq := o.req.getD ⟨o.id, w, 0, 0, 0, 0, false, o.pa, o.va, false, none, 0, .load 0 false 0⟩
    let s :=
      if !s.awaits w.g o.id then s
      else
        let (v, s) := s.nextFree
        s.deliver r ⟨o.kind.returned v o.pa, none, none⟩
    s.acquired w.core r

/-- A fault of an outbound access is reported (R333, R363, R440): an engine operation faults where the peer refuses it, a group
that awaits a result from a peer which refuses it is killed, and every other access is reported as DEFER. -/
def State.reportOut (s : State) (o : Outbound) (refused : Bool) : State :=
  match o.who with
  | none => s
  | some w =>
    let cause : BitVec 8 := if refused then 0x11 else 0x19
    let engine := s.engs.find? fun e => (e.acks.getD e.sent).contains o.id
    match engine, s.group? w.g with
    | some e, _ =>
      if refused then s.setEngine (if e.fault.isNone then e.failed 0x11 o.va else e)
      else { s with reports := s.reports ++ [⟨w, true, o.va, cause⟩] }
    | none, some g =>
      if refused && s.awaits g.uid o.id then s.killFor g w.lane w.pc o.va 0x11
      else State.deliverOut { s with reports := s.reports ++ [⟨w, false, o.va, cause⟩] } o
    | none, none => { s with reports := s.reports ++ [⟨w, false, o.va, cause⟩] }

/-- OUTBOUND_ACKNOWLEDGEMENT (R275, R295, R436, R440): access `k` is acknowledged, or its failure is reported. -/
def execOutboundAcknowledgement (k : Nat) (s : State) : Out :=
  match s.outb[k]? with
  | none => .next s
  | some o =>
    let e := s.outEnd o
    let s := { (s.nextFree).2 with outb := s.outb.eraseIdx k }
    match e with
    | .done => .next (s.deliverOut o)
    | .refused => .next (s.reportOut o true)
    | .unknown | .hostError => .next (s.reportOut o false)

-- Compatibility mode (R442).

/-- Requests to peers in compatibility mode whose page's translation is not held. -/
def State.unfetched (s : State) : List (Nat × Nat) :=
  (s.allReqs.filter fun r => isPeer r.addr && !r.scratch && !r.isMarker && s.compat r.who.ctx
    && (s.peerPage? r.who.ctx r.addr).isNone).map fun r => (r.who.ctx, r.addr / 8192)

/-- TRANSLATION_FETCH (R442): the translation that request `k` of those waiting needs is fetched and held. -/
def execTranslationFetch (k : Nat) (s : State) : Out :=
  match s.unfetched[k]? with
  | none => .next s
  | some p => .next (s.fetchPeer p.1 p.2)

/-- A request that uses a peer page's translation awaits its acknowledgement. -/
def State.pageBusy (s : State) (p : Nat × Nat) : Bool :=
  s.outb.any fun o => (match o.who with
    | some w => w.ctx == p.1
    | none => false) && isPeer o.pa && o.pa / 8192 == p.2

/-- INVALIDATION (R442): the translation is no longer held, and the invalidation is acknowledged once every request that used
it is drained. -/
def execInvalidation (ctx page : Nat) (s : State) : Out :=
  let p := (ctx, page)
  let f := s.fabric
  let cached := f.cached.filter fun x => !(x.ctx == ctx && x.page == page)
  let draining := f.draining.filter fun x => x != p
  if s.pageBusy p then .next { s with fabric := { f with cached := cached, draining := draining ++ [p] } }
  else
    let s := { s with fabric := { f with cached := cached, draining := draining } }
    .next (s.send (.invalidationAck ctx page))

/-- The module, as a target, recalls a page's translation from every source that has it (R442). -/
def State.recall (s : State) (ctx page : Nat) : State :=
  let f := s.fabric
  let mine := f.given.filter fun x => x.2.1 == ctx && x.2.2 == page
  let s := { s with fabric := { f with
    given := f.given.filter fun x => !(x.2.1 == ctx && x.2.2 == page)
    recalled := f.recalled ++ mine.map fun x => (x.1, x.2.1, x.2.2, s.clk.tick) } }
  State.tellReusable (mine.foldl (fun (s : State) x => s.send (.invalidation x.1 ctx page)) s) ctx page

/-- INVALIDATION_TIMEOUT (R442): a source has not acknowledged within 2^24 ticks, and its later requests are refused. -/
def execInvalidationTimeout (source : Nat) (s : State) : Out :=
  let f := s.fabric
  if f.fenced.contains source || !f.recalled.any (fun x => x.1 == source && decide (x.2.2.2 + 2 ^ 24 ≤ s.clk.tick)) then .next s
  else
    let s := { s with fabric := { f with fenced := f.fenced ++ [source] } }
    let pages := (f.recalled.filter fun x => x.1 == source).map fun x => x.2
    .next (pages.foldl (fun (s : State) p => s.tellReusable p.1 p.2.1) s)

-- Migration of a protected context (R448).

/-- Every group of a context is away, and its operations have ended. -/
def State.contextAway (s : State) (n : Nat) : Bool :=
  !(s.groups.any fun g => g.place.ctx == n && g.isResident) && !(s.engs.any fun o => o.who.ctx == n && o.started.isSome)
    && !(s.mats.any fun o => o.who.ctx == n) && !(s.allReqs.any fun r => r.who.ctx == n)
    && !(s.outb.any fun o => o.who.any fun w => w.ctx == n)

/-- MIGRATION (R448): the groups of a protected context are evicted; once they are away its state, memory and wrapped keys are
sent to the destination. -/
def execMigration (ctx dest : Nat) (s : State) : Out :=
  match s.ctx? ctx with
  | none => .next s
  | some c =>
    if !c.spec.prot || c.ending then .next s
    else
      match s.tramir.moving.find? fun m => m.ctx == ctx with
      | none =>
        let s := { s with tramir := { s.tramir with moving := s.tramir.moving ++ [MigrationState.mk ctx dest false] } }
        .next (((s.groups.filter fun g => g.place.ctx == ctx && g.isResident).map fun g => g.uid).foldl
          State.startEviction s)
      | some m =>
        if m.sent || m.dest != dest || !s.contextAway ctx then .next s
        else
          let l := s.tramir.moving.map fun (x : MigrationState) => if x.ctx == ctx then { x with sent := true } else x
          .next (({ s with tramir := { s.tramir with moving := l } }).send (.migrationSent ctx dest))

/-- The lines of a world that no other context has, with their bytes, are erased with its keys; a world that a die still has latched gets new ones. -/
def State.eraseWorld (s : State) (c : Context) : State :=
  let w := c.spec.world
  if w = 0 || s.ctxs.any (fun x => x.spec.number != c.spec.number && x.spec.world == w) then s
  else
    let lines := (s.mem.keys.filter fun k => k.2.world == w).map fun k => k.1
    let s := lines.foldl (fun s line => s.wall (128 * line) 128) s
    let s := { s with
      mem := { s.mem with
        bytes := s.mem.bytes.filter (fun b => !lines.contains (b.1 / 128))
        keys := s.mem.keys.filter (fun k => k.2.world != w) }
      tramir := { s.tramir with keys := s.tramir.keys.filter fun k =>
        !(k.1 == TramirKey.world w || k.1 == TramirKey.stack w 0 || k.1 == TramirKey.stack w 1) } }
    if s.dies.any fun d => d.2.world == w then s.createKeys w else s

/-- MIGRATION_CONFIRMATION (R448): the source erases its keys and its copy, and the context is no longer here. -/
def execMigrationConfirmation (ctx : Nat) (s : State) : Out :=
  match s.ctx? ctx, s.tramir.moving.find? fun m => m.ctx == ctx with
  | some c, some m =>
    if !m.sent then .next s
    else
      let s := (s.finishEnd c).eraseWorld c
      .next { s with tramir := { s.tramir with moving := s.tramir.moving.filter fun x => x.ctx != ctx } }
  | _, _ => .next s

end Sys2Proof.Machine
end

