-- ==== Sys2Proof/Machine/Power.lean ====
section
/-! DEFINITION. Time, sleep and bring-up (R377, R455 to R459), the failure and the reset of the module (R376, R457), worlds
(R414) and the management path (R460). -/

namespace Sys2Proof.Machine

open Sys2Proof

-- Meridian counters (R377, R456).

/-- The compute dies. -/
def allDies : List Nat := List.range 16

/-- The counters stay within 2 ticks of one another, and of the floor die's, when one die's offset becomes `x` at the next tick, in
which the other dies make the corrections that they have begun. -/
def State.mayOffset (s : State) (die : Nat) (x : Word) : Bool :=
  within2 x 0 && (allDies.all fun d => d == die || within2 x (s.die d).nextOffset)

/-- The greatest distance from the floor die's counter that holdover may bring: as much as corrections take back in 1 ms (R456,
DEDUCED, log entry 42). -/
def holdoverBound : Nat := 1000

/-- COUNTER_CORRECTION (R377): the counter is held for one tick, or advanced by two in one, at most once in 1,024 ticks, within the
bound or towards it; in holdover the bound is not kept (R456). -/
def execCounterCorrection (die : Nat) (ahead : Bool) (s : State) : Out :=
  let d := s.die die
  let x := if ahead then d.offset - 1 else d.offset + 1
  let may := if s.clk.lost.isSome then decide (distance x ≤ holdoverBound)
    else s.mayOffset die x || decide (distance x < distance d.offset)
  if 16 ≤ die || d.corr != 0 || (d.lastCorr != 0 && decide (s.clk.tick < d.lastCorr + 1024)) || !may then .next s
  else .next (s.setDie die { d with corr := if ahead then 1 else 2 })

/-- REFERENCE_LOSS (R456): every PLL goes into holdover, and the control cores are interrupted. -/
def execReferenceLoss (s : State) : Out :=
  if s.clk.lost.isSome then .next s
  else .next (({ s with clk := { s.clk with lost := some s.clk.tick, back := none } }).send
    (.controlInterrupt "reference lost" 0 0 0))

-- Failure of the module (R376).

/-- The bytes of a context's fault log (R364), none where they cannot be read. -/
def State.logOf (s : State) (c : Context) : List Byte :=
  match s.engineRead 16 c.spec.number c.spec.world c.spec.logBase (64 * c.spec.logSize) with
  | (_, .ok bs) => bs
  | _ => []

/-- The stop records of the resident groups (R360, R376), with the core and the slot of each. -/
def State.dumpRecords (s : State) : List (Nat × Nat × List Byte) :=
  (s.groups.filter Group.isResident).map fun g =>
    (g.place.core, g.place.slot, s.stopBytes g 0x20 false (.clock s.now) false ((s.ctx? g.place.ctx).any fun c => c.spec.prot))

/-- What the dump holds when the module fails (R376). -/
def State.dumpOf (s : State) (cause free : Nat) : Dump where
  cause := cause
  stamp := word s.clk.tick
  free := free
  pools := s.cores.map fun c => (c.1, c.2.scratch, c.2.acc)
  logs := s.ctxs.map fun c => (c.spec.number, s.logOf c)
  records := s.dumpRecords
  samples := s.units.map fun u => (u.1, u.2.samples)

/-- Tramir fences every die and dumps the module's state; the dump's bytes are free (log entry 3). -/
def State.failModule (s : State) (cause : Nat) : State :=
  if s.clk.fenced then s
  else
    let (n, s) := s.nextFree
    { s with
      clk := { s.clk with fenced := true }
      tramir := { s.tramir with dump := some (s.dumpOf cause n) } }

/-- REFERENCE_RETURN (R456): the counters are disciplined back; a loss of more than 100 ms is a fatal module error. -/
def execReferenceReturn (s : State) : Out :=
  match s.clk.lost with
  | none => .next s
  | some t =>
    if t + 100 * millisecond < s.clk.tick then .next (s.failModule 1)
    else .next { s with clk := { s.clk with lost := none, back := some s.clk.tick } }

/-- FATAL_MODULE_ERROR (R376). -/
def execFatalModuleError (cause : Nat) (s : State) : Out := .next (s.failModule cause)

/-- HOLDOVER_EXPIRY (R456): a loss of more than 100 ms is a fatal module error. -/
def execHoldoverExpiry (s : State) : Out :=
  match s.clk.lost with
  | none => .next s
  | some t => if t + 100 * millisecond < s.clk.tick then .next (s.failModule 1) else .next s

/-- MODULE_RESET (R374, R457): every unit is as after reset, and bring-up starts at phase 0. Memory keeps its bytes, without
poison (log entry 6), and Tramir keeps the dump and its keys; the model's own counters go on. -/
def execModuleReset (s : State) : Out :=
  .next { State.reset with
    sched := { s.sched with cur := none }
    mem := { State.reset.mem with bytes := s.mem.bytes, keys := s.mem.keys }
    tramir := { State.reset.tramir with dump := s.tramir.dump, keys := s.tramir.keys }
    out := s.out }

-- Bring-up (R457 to R459).

/-- PHASE_CHANGE (R457): up to reduced service, which ends with FULL_SERVICE. -/
def execPhaseChange (s : State) : Out :=
  if s.clk.phase < 2 then .next { s with clk := { s.clk with phase := s.clk.phase + 1, half := false } } else .next s

/-- A walk that waits for a PTE reads it again at once. -/
def Walk.wake (w : Walk) : Walk :=
  match w.stage with
  | .held since _ => { w with stage := .held since 0 }
  | _ => w

/-- FULL_SERVICE (R459): reduced service ends on every die at one clock boundary, and the waiting walks resume. -/
def execFullService (s : State) : Out :=
  if s.clk.phase != 2 then .next s
  else
    let group (g : Group) : Group :=
      let g := match g.sc.wait with
        | .walk w => { g with sc := { g.sc with wait := .walk w.wake } }
        | _ => g
      match g.ln.wait with
      | .walk w => { g with ln := { g.ln with wait := .walk w.wake } }
      | _ => g
    let eng (o : EngOp) : EngOp := { o with held := o.held.map fun (h : EngHold) => { h with asleep := false } }
    .next { s with
      clk := { s.clk with phase := 3, half := false }
      groups := s.groups.map group
      engs := s.engs.map eng }

-- Sleep (R404, R412, R455).

/-- No group is resident on a die. -/
def State.dieEmpty (s : State) (die : Nat) : Bool :=
  !(s.groups.any fun g => dieOf g.place.core == die && g.isResident)

/-- Whether a die may sleep (R412, R455): it is awake and empty, and where its world holds a page, another awake layer of
the world remains in its stack. -/
def State.maySleep (s : State) (die : Nat) : Bool :=
  let d := s.die die
  d.awake && s.dieEmpty die &&
    (!s.worldHoldsPage (stackOf die) d.world ||
      (diesOf (stackOf die)).any fun x => x != die && (s.die x).awake && (s.die x).world == d.world)

/-- A die's granted slots go back to its stack's pool (R404). -/
def State.returnSlots (s : State) (die : Nat) : State :=
  let d := s.die die
  let k := s.stack (stackOf die)
  let sat := d.granted.foldl (fun l x => put l x.1 0) k.satNew
  (s.setStack (stackOf die) { k with satNew := sat }).setDie die { d with granted := [] }

/-- A watermark of a die at its units (R383). -/
def State.markDie (s : State) (die w : Nat) : State :=
  [die, 16].foldl (fun s n =>
    let u := s.unit n
    s.setUnit n { u with marks := put u.marks die w }) s

/-- DIE_SLEEP (R383, R455): the die sends its final watermark. -/
def execDieSleep (die : Nat) (s : State) : Out :=
  if 16 ≤ die || !s.maySleep die then .next s
  else
    let s := s.returnSlots die
    let s := s.setDie die { s.die die with awake := false, resync := none }
    .next (s.markDie die (2 ^ 64))

/-- DIE_WAKE (R383, R413, R455). -/
def execDieWake (die : Nat) (s : State) : Out :=
  if 16 ≤ die || (s.die die).awake then .next s
  else
    let s := (s.setDie die { s.die die with awake := true }).startResync die
    .next (s.markDie die (s.meridian die).toNat)

-- Worlds (R414).

/-- Whether Tramir may latch a world on a die: no group is resident on it, and its pools hold no team's windows. -/
def State.mayLatch (s : State) (die : Nat) : Bool :=
  decide (die < 16) && s.dieEmpty die && !(s.teams.any fun t => dieOf t.core == die && t.saved.isNone)
    && (s.die die).port.isEmpty && (s.die die).portWait.isEmpty

/-- A core of a die whose world changes: its pools and near cache hold only zeroes. -/
def Core.cleared (c : Core) : Core := { c with scratch := [], acc := [], poisonS := [], poisonA := [], near := [] }

/-- A world is latched on a die (R414), with its keys created where it is the first time (R444); the replica holds zeroes, or resyncs where layers of the new world hold pages. -/
def State.latchWorld (s : State) (die : Nat) (w : BitVec 4) : State :=
  let s := { s with cores := s.cores.map (fun (c : Nat × Core) => if dieOf c.1 == die then (c.1, c.2.cleared) else c) }
  let s := (s.cores.filter fun c => dieOf c.1 == die).foldl (fun s c => s.wall (scratchLoc c.1 0) (2 ^ 32)) s
  let s := s.createKeys w
  (s.setDie die { s.die die with world := w, replica := [] }).startResync die

/-- WORLD_ASSIGNMENT (R414). -/
def execWorldAssignment (die : Nat) (world : BitVec 4) (s : State) : Out :=
  if s.mayLatch die then .next (s.latchWorld die world) else .next s

-- The management path (R460).

/-- CBUD as it reads (R454). -/
def State.cbud (s : State) (core : Nat) : Word := word (min 255 (s.coreWeight core) * 2 ^ 16 + (s.core core).budget)

/-- The slot of Tramir's device key. -/
def deviceKey : Nat := 256

/-- Bytes signed with the device key under ECDSA P-384 (R460). -/
def State.sendSigned (s : State) (data more : List Byte) : State :=
  s.send (.signedBytes data (Config.signature 0 deviceKey (data ++ more)))

/-- SPDM_REQUEST (R460): the measurements of a context over either path, and the sideband requests. A disarming is answered once every
event up to its stamp has been stepped (R399). -/
def execSpdmRequest (r : ManagementRequest) (s : State) : Out :=
  match r with
  | .measurements ctx =>
    match s.ctx? ctx with
    | some c => .next (s.sendSigned c.spec.measure [])
    | none => .next (s.send .managementError)
  | .unauthenticated => .next (s.send .managementError)
  | .readStatus => .next (s.send (.managementWord (word s.clk.phase)))
  | .readBudget core => .next (s.send (.managementWord (s.cbud core)))
  | .assignWorld die w => if s.mayLatch die then .next (s.latchWorld die w) else .next (s.send .managementError)
  | .gctl die v =>
    if s.clk.fenced || decide (16 ≤ die) then .next (s.send .managementError)
    else
      let s := s.writeGctl die v
      .next (s.send (.managementWord (s.die die).gctl))
  | .arm unit a table ctx =>
    if s.clk.fenced || decide (16 < unit) || decide (3 < a) then .next (s.send .managementError)
    else
      let (x, s) := s.arm unit a ctx table
      .next (s.send (.managementWord x))
  | .disarm unit a ctx =>
    match s.automaton unit a with
    | none => .next (s.send (.managementWord 1))
    | some y =>
      if y.owner != ctx || y.ending.isSome then .next (s.send (.managementWord 1))
      else
        let d : Ending := ⟨(s.unitNow unit).toNat, none⟩
        .next ((s.setAutomaton unit a (some { y with ending := some d })).finishDisarms unit)

/-- DUMP_READ (R460): a piece of 64 KiB of the dump, signed over the piece, its index and the dump's time. -/
def execDumpRead (piece : Nat) (s : State) : Out :=
  match s.tramir.dump with
  | none => .next (s.send .managementError)
  | some d =>
    if 2 ^ 17 ≤ piece then .next (s.send .managementError)
    else
      let bs := (List.range 65536).map fun i => Config.freeByte d.free (0x3FE00000000 + 65536 * piece + i)
      .next (s.sendSigned bs (leBytes 8 piece ++ leBytes 8 d.stamp.toNat))

end Sys2Proof.Machine
end

