-- ==== Sys2Proof/Machine/Control.lean ====
section
/-! DEFINITION. The control spaces of the dies as the control cores address them (R234): the registers by address, what they
read as and what a write does; and the words of a control core that access them or order its accesses (R273). -/

namespace Sys2Proof.Machine

open Sys2Proof

/-- A register of a control space (R234, R238, R262, R361, R372, R396, R403, R405, R454, R457). A `unit` of 16 is the package
trigger unit. -/
inductive ControlReg where
  | gctl (die : Nat)
  | cbud (die core : Nat)
  | ftstat (die : Nat)
  | ftfill8k (die : Nat)
  | ftfill8m (die : Nat)
  | ftrsvfill (die : Nat)
  | ftrsvn (die : Nat)
  | tustat (unit : Nat)
  | swidx (unit : Nat)
  | sbuf (unit offset : Nat)
  | mstat
  | plsat (stack entry : Nat)
  | plpg (stack entry : Nat)
  | ctxend
  deriving DecidableEq, Repr

/-- The registers of a trigger unit, by the offset from its base (R396). -/
def triggerReg (unit o : Nat) : Option ControlReg :=
  if o == 0 then some (.tustat unit)
  else if o == 8 then some (.swidx unit)
  else if 0x10000 ≤ o && o < 0x20000 then some (.sbuf unit (o - 0x10000))
  else none

/-- The register of a compute die at an offset of its control space (R234). -/
def dieReg (die o : Nat) : Option ControlReg :=
  if o == 0x100 then some (.gctl die)
  else if 0x200 ≤ o && o < 0x600 then some (.cbud die ((o - 0x200) / 8))
  else if o == 0x10000 then some (.ftstat die)
  else if o == 0x10008 then some (.ftfill8k die)
  else if o == 0x10010 then some (.ftfill8m die)
  else if o == 0x10018 then some (.ftrsvfill die)
  else if o == 0x10020 then some (.ftrsvn die)
  else if 0x100000 ≤ o then triggerReg die (o - 0x100000)
  else none

/-- The register of the floor die at an offset of its control space (R234). -/
def floorReg (o : Nat) : Option ControlReg :=
  if o == 0 then some .mstat
  else if 0x1000 ≤ o && o < 0x1400 then some (.plsat ((o - 0x1000) / 0x200) ((o - 0x1000) % 0x200 / 8))
  else if 0x1400 ≤ o && o < 0x1500 then some (.plpg ((o - 0x1400) / 0x80) ((o - 0x1400) % 0x80 / 8))
  else if o == 0x2000 then some .ctxend
  else if 0x100000 ≤ o then triggerReg 16 (o - 0x100000)
  else none

/-- The bases of the control spaces (R234). -/
def controlBase : Nat := 0x10000000000
def floorBase : Nat := 0x10010000000

/-- Whether a physical address lies in a control space: that of a compute die, or the floor die's. -/
def inControl (a : Nat) : Bool := decide (controlBase ≤ a) && decide (a < floorBase + 0x1000000)

/-- The register that an access of `n` bytes names: the access has 8 bytes and is aligned (R234). -/
def controlReg (a n : Nat) : Option ControlReg :=
  if n != 8 || a % 8 != 0 || !inControl a then none
  else if a < floorBase then dieReg ((a - controlBase) / 0x1000000) ((a - controlBase) % 0x1000000)
  else floorReg (a - floorBase)

/-- FTSTAT as it reads (R238). -/
def FirstTouch.status (f : FirstTouch) : Word := word (f.flags.toNat * 2 ^ 24 + f.large.length * 2 ^ 16 + f.small.length)

/-- TUSTAT as it reads (R396). -/
def TrigUnit.status (u : TrigUnit) : Word :=
  let armed := (u.autos.zip (List.range 4)).foldl (fun n p => if p.1.isSome then n + 2 ^ p.2 else n) 0
  word ((if u.wrap then 256 else 0) + u.acc.toNat * 16 + armed)

/-- An entry of a table of a stack as it was last written; a write that waits for its frame boundary reads back (log entry
47). -/
def tableEntry (now : List Word) (new : List (Nat × Word)) (n : Nat) : Word := look (now.getD n 0) new n

/-- A register read (R234): the state and its value. A record of the sample buffer counts as read once any of its words is (log
entry 45). -/
def State.readControl (s : State) : ControlReg → State × Word
  | .gctl d => (s, (s.die d).gctl)
  | .cbud d c => (s, s.cbud (128 * d + c))
  | .ftstat d => (s, (s.die d).ft.status)
  | .ftrsvn d => (s, word (s.die d).ft.reserve.length)
  | .ftfill8k _ | .ftfill8m _ | .ftrsvfill _ => (s, 0)
  | .tustat n => (s, (s.unit n).status)
  | .swidx n => (s, word (s.unit n).swidx)
  | .sbuf n o =>
    let u := s.unit n
    let bs := look [] u.samples (o / 128)
    (s.setUnit n { u with read := if u.read.contains (o / 128) then u.read else u.read ++ [o / 128] },
      word (leNat ((List.range 8).map fun i => bs.getD (o % 128 + i) 0)))
  | .mstat => (s, word s.clk.phase)
  | .plsat k n => (s, tableEntry (s.stack k).sat (s.stack k).satNew n)
  | .plpg k n => (s, tableEntry (s.stack k).pg (s.stack k).pgNew n)
  | .ctxend => (s, s.clk.ctxend)

/-- A register written (R234); a write of a read-only one is ignored. -/
def State.writeControl (s : State) (r : ControlReg) (v : Word) : Out :=
  match r with
  | .gctl d => .next (s.writeGctl d v)
  | .cbud d c => execCbudWrite d c v s
  | .ftstat d => execFtstatClear d v s
  | .ftfill8k d => execFtfill8k d v s
  | .ftfill8m d => execFtfill8m d v s
  | .ftrsvfill d => execFtrsvfill d v s
  | .tustat n => execTustatClear n v s
  | .plsat k n => execPlsatWrite k n v s
  | .plpg k n => execPlpgWrite k n v s
  | .ctxend => execCtxend v s
  | .ftrsvn _ | .swidx _ | .sbuf _ _ | .mstat => .next s

/-- A load of `n` bytes from a control space (R234): an unassigned offset, another width or another alignment reads zero. -/
def State.loadControl (s : State) (a n : Nat) : State × Word :=
  match controlReg a n with
  | some r => s.readControl r
  | none => (s, 0)

/-- A store of `n` bytes to a control space (R234): an unassigned offset, another width or another alignment is ignored. -/
def State.storeControl (s : State) (a n : Nat) (v : Word) : Out :=
  match controlReg a n with
  | some r => s.writeControl r v
  | none => .next s

-- Words of a control core.

/-- A write of an integer register of the hart; x0 discards it. -/
def Hart.set (h : Hart) (r : BitVec 5) (x : Word) : Hart := if r = 0 then h else { h with x := h.x.set r.toNat x r.isLt }

/-- The RISC-V FENCE with predecessor and successor RW (R273; the encoding is PRESUMED, log entry 9). The control core's
accesses are performed in their order, so that the fence finds each earlier one performed. -/
def fenceRw (w : W32) : Bool := w == 0x0330000F#32

/-- A RISC-V load or store that the hart makes to a control space (R234; the encodings are PRESUMED, log entry 9); none where the
word is another, or its address lies elsewhere. -/
def State.hartAccess (s : State) (w : W32) : Option Out :=
  let h := s.hart
  let f3 := (w.extractLsb' 12 3).toNat
  let n := 2 ^ (f3 % 4)
  if w.extractLsb' 0 7 == 0x03#7 && f3 != 7 then
    let a := (h.get (w.extractLsb' 15 5) + (w.extractLsb' 20 12).signExtend 64).toNat
    if !inControl a then none
    else
      let (s, x) := s.loadControl a n
      some (.next { s with hart := (s.hart.set (w.extractLsb' 7 5) x).advance })
  else if w.extractLsb' 0 7 == 0x23#7 && f3 ≤ 3 then
    let imm : BitVec 12 := w.extractLsb' 25 7 ++ w.extractLsb' 7 5
    let a := (h.get (w.extractLsb' 15 5) + imm.signExtend 64).toNat
    if !inControl a then none
    else some ({ s with hart := h.advance }.storeControl a n (h.get (w.extractLsb' 20 5)))
  else none

/-- A word of the hart that the decoder of R241 does not read: FENCE RW,RW, an access of a control space, a word of custom-0,
which is illegal, or one that the spec does not describe. -/
def State.hartOther (s : State) (w : W32) : Out :=
  if fenceRw w then .next { s with hart := s.hart.advance }
  else
    match s.hartAccess w with
    | some o => o
    | none => if isCustom0 w then .next s.hartIllegal else .refused (.hartWordOutsideSpec w)

end Sys2Proof.Machine
end

