-- ==== Sys2Proof/Machine/LaneFloat.lean ====
section
/-! DEFINITION. The lane floating-point words and conversions (R185 to R195). -/

namespace Sys2Proof.Machine

open Sys2Proof

/-- A 32-bit result with its flags. -/
def flagged (r : Nat × Flags) : BitVec 128 × Flags := (BitVec.ofNat 128 r.1, r.2)

/-- The rounding code of md8[1:0] (R173). -/
def roundCode (w : LaneW) : Rc := rcOf w.md8.toNat

/-- An operand read as F32. -/
def LaneOp.srcF (o : LaneOp) (f : BitVec 9) (i : Nat) : FVal := f32.value (o.src f i).toNat

/-- An F32 form of one source that rounds (R185, R189), of the deferred class. -/
def float1 (i : Instr) (f : Rc → FVal → Nat × Flags) (s : State) : Out :=
  laneLater i 1 (fun o k => flagged (f (roundCode o.w) (o.srcF o.w.a k))) s
/-- An F32 form of two sources (R185). -/
def float2 (i : Instr) (f : Rc → FVal → FVal → Nat × Flags) (s : State) : Out :=
  laneNow i 1 (fun o k => flagged (f (roundCode o.w) (o.srcF o.w.a k) (o.srcF o.w.b k))) s

/-- `fadd` (R185). -/
def execFadd (w : LaneW) (s : State) : Out := float2 (.fadd w) (fun rc a b => f32.add rc a b) s
/-- `fsub` (R185). -/
def execFsub (w : LaneW) (s : State) : Out := float2 (.fsub w) (fun rc a b => f32.add rc a b.negate) s
/-- `fmul` (R185). -/
def execFmul (w : LaneW) (s : State) : Out := float2 (.fmul w) (fun rc a b => f32.mul rc a b) s
/-- `ffma` (R185). -/
def execFfma (w : LaneW) (s : State) : Out :=
  laneNow (.ffma w) 1 (fun o k => flagged (f32.fma (roundCode o.w) (o.srcF o.w.a k) (o.srcF o.w.b k) (o.srcF o.w.c k))) s
/-- `fmin` (R186). -/
def execFmin (w : LaneW) (s : State) : Out :=
  laneNow (.fmin w) 1 (fun o k => flagged (f32.minMax false (o.src o.w.a k).toNat (o.src o.w.b k).toNat)) s
/-- `fmax` (R186). -/
def execFmax (w : LaneW) (s : State) : Out :=
  laneNow (.fmax w) 1 (fun o k => flagged (f32.minMax true (o.src o.w.a k).toNat (o.src o.w.b k).toNat)) s
/-- `fsetp` (R187). -/
def execFsetp (w : LaneW) (s : State) : Out :=
  laneMask (.fsetp w) (fun o k =>
    let (t, fl) := fcondition (bits o.w.fn6 2 0) (o.srcF o.w.a k) (o.srcF o.w.b k)
    (combine (bits o.w.fn6 4 3) (o.oldBit k) t, fl)) s
/-- `fclass` (R188). -/
def execFclass (w : LaneW) (s : State) : Out := int1 (.fclass w) (fun _ a => half (fclassWord a.toNat)) s
/-- `frcp` (R189). -/
def execFrcp (w : LaneW) (s : State) : Out := float1 (.frcp w) (fun rc a => f32.div rc (.num false 1 0) a) s
/-- `frsq` (R189). -/
def execFrsq (w : LaneW) (s : State) : Out := float1 (.frsq w) (fun rc a => f32.rsqrt rc a) s
/-- `fsqrt` (R189). -/
def execFsqrt (w : LaneW) (s : State) : Out := float1 (.fsqrt w) (fun rc a => f32.sqrt rc a) s
/-- `fexp2` (R189). -/
def execFexp2 (w : LaneW) (s : State) : Out := float1 (.fexp2 w) (fun rc a => f32.exp2 rc a) s
/-- `flog2` (R189). -/
def execFlog2 (w : LaneW) (s : State) : Out := float1 (.flog2 w) (fun rc a => f32.log2 rc a) s
/-- `fsin` (R189). -/
def execFsin (w : LaneW) (s : State) : Out := float1 (.fsin w) (fun rc a => f32.turns false rc a) s
/-- `fcos` (R189). -/
def execFcos (w : LaneW) (s : State) : Out := float1 (.fcos w) (fun rc a => f32.turns true rc a) s
/-- `fdiv` (R189). -/
def execFdiv (w : LaneW) (s : State) : Out :=
  laneLater (.fdiv w) 1 (fun o k => flagged (f32.div (roundCode o.w) (o.srcF o.w.a k) (o.srcF o.w.b k))) s

-- Packed halves (R190).

/-- The format of a packed-half word. -/
def halfFormat (w : LaneW) : Format := if mdBit w 2 then bf16 else f16

/-- Half `j` of a word. -/
def halfOf (x : W32) (j : Nat) : Nat := x.toNat / 2 ^ (16 * j) % 2 ^ 16

/-- Half `j` of operand b, exchanged by `.x` (R190). -/
def LaneOp.halfB (o : LaneOp) (k j : Nat) : Nat := halfOf (o.src o.w.b k) (if mdBit o.w 3 then 1 - j else j)

/-- A packed-half result of its two halves. -/
def packHalves (lo hi : Nat × Flags) : BitVec 128 × Flags := (BitVec.ofNat 128 (lo.1 + 2 ^ 16 * hi.1), lo.2 ||| hi.2)

/-- A packed-half word: `f` acts on the halves of a, b and c (R190). -/
def halves (i : Instr) (f : LaneW → Nat → Nat → Nat → Nat × Flags) (s : State) : Out :=
  laneNow i 1 (fun o k =>
    let r (j : Nat) := f o.w (halfOf (o.src o.w.a k) j) (o.halfB k j) (halfOf (o.src o.w.c k) j)
    packHalves (r 0) (r 1)) s

/-- `pkadd` (R190). -/
def execPkadd (w : LaneW) (s : State) : Out :=
  halves (.pkadd w) (fun w a b _ => (halfFormat w).add (roundCode w) ((halfFormat w).value a) ((halfFormat w).value b)) s
/-- `pkmul` (R190). -/
def execPkmul (w : LaneW) (s : State) : Out :=
  halves (.pkmul w) (fun w a b _ => (halfFormat w).mul (roundCode w) ((halfFormat w).value a) ((halfFormat w).value b)) s
/-- `pkfma` (R190). -/
def execPkfma (w : LaneW) (s : State) : Out :=
  halves (.pkfma w) (fun w a b c =>
    (halfFormat w).fma (roundCode w) ((halfFormat w).value a) ((halfFormat w).value b) ((halfFormat w).value c)) s
/-- `pkmnx` (R190). -/
def execPkmnx (w : LaneW) (s : State) : Out :=
  halves (.pkmnx w) (fun w a b _ => (halfFormat w).minMax (w.fn6.getLsbD 0) a b) s

-- Conversions.

/-- `fcvt` (R191). -/
def execFcvt (w : LaneW) (s : State) : Out :=
  laneNow (.fcvt w) 1 (fun o k =>
    flagged (cvtDest (bits o.w.fn6 2 0) (roundCode o.w) (mdBit o.w 2) (cvtSource (bits o.w.fn6 5 3) (o.src o.w.a k).toNat))) s

/-- `f2i` (R192). -/
def execF2i (w : LaneW) (s : State) : Out :=
  laneNow (.f2i w) (if w.fn6.toNat < 2 then 1 else 2) (fun o k =>
    let a := o.srcF o.w.a k
    flagged (match bits o.w.fn6 1 0 with
      | 0 => toInteger 32 (-(2 ^ 31)) (2 ^ 31 - 1) (roundCode o.w) a
      | 1 => toInteger 32 0 (2 ^ 32 - 1) (roundCode o.w) a
      | 2 => toInteger 64 (-(2 ^ 63)) (2 ^ 63 - 1) (roundCode o.w) a
      | _ => toInteger 64 0 (2 ^ 64 - 1) (roundCode o.w) a)) s

/-- `i2f` (R192). -/
def execI2f (w : LaneW) (s : State) : Out :=
  laneNow (.i2f w) 1 (fun o k =>
    let x : Int := match bits o.w.fn6 1 0 with
      | 0 => (o.src o.w.a k).toInt
      | 1 => (o.src o.w.a k).toNat
      | 2 => (o.src2 o.w.a k).toInt
      | _ => (o.src2 o.w.a k).toNat
    flagged (f32.ofVal (roundCode o.w) (ofInteger x))) s

/-- `frnd` (R193). -/
def execFrnd (w : LaneW) (s : State) : Out :=
  laneNow (.frnd w) 1 (fun o k => flagged (roundIntegral (roundCode o.w) (o.src o.w.a k).toNat)) s

/-- `fscale` (R193). -/
def execFscale (w : LaneW) (s : State) : Out :=
  laneNow (.fscale w) 1 (fun o k => flagged (scaleBy (roundCode o.w) (o.srcF o.w.a k) (o.src o.w.b k).toInt)) s

/-- A word with element `e` of width `n` replaced (R194). -/
def putElement (x : W32) (n e v : Nat) : W32 :=
  let m : W32 := half ((2 ^ n - 1) * 2 ^ (n * e))
  (x &&& ~~~m) ||| (half (v * 2 ^ (n * e)) &&& m)

/-- `pack` (R194). -/
def execPack (w : LaneW) (s : State) : Out :=
  laneNow (.pack w) 1 (fun o k =>
    let fmt := bits o.w.fn6 3 0
    let n := packWidth fmt
    let p := bits o.w.md8 6 4
    let x := packDest fmt (roundCode o.w) (mdBit o.w 2) (o.srcF o.w.a k)
    let y := packDest fmt (roundCode o.w) (mdBit o.w 2) (o.srcF o.w.b k)
    ((putElement (putElement (o.src o.w.c k) n (2 * p) x.1) n (2 * p + 1) y.1).setWidth 128, x.2 ||| y.2)) s

/-- `unpack` (R195). -/
def execUnpack (w : LaneW) (s : State) : Out :=
  laneNow (.unpack w) 1 (fun o k =>
    let fmt := bits o.w.fn6 3 0
    let n := packWidth fmt
    flagged (f32.ofVal .rne (packSource fmt ((o.src o.w.a k).toNat / 2 ^ (n * bits o.w.md8 6 4) % 2 ^ n)))) s

end Sys2Proof.Machine
end

