-- ==== Sys2Proof/Machine/LaneCross.lean ====
section
/-! DEFINITION. The cross-lane words (R196 to R201). G, the set of lanes they act over, is the active lanes. -/

namespace Sys2Proof.Machine

open Sys2Proof

/-- The lane that `shfl` takes from (R197). -/
def shuffleFrom (mode i : Nat) (b : W32) : Nat :=
  match mode with
  | 0 => bits b 4 0
  | 1 => (i + bits b 4 0) % 32
  | 2 => i ^^^ bits b 4 0
  | _ => 4 * bits b 2 0 + i % 4

/-- `shfl` (R197). -/
def execShfl (w : LaneW) (s : State) : Out :=
  laneLater (.shfl w) 1 (fun o k =>
    let j := shuffleFrom (bits o.w.fn6 1 0) k (o.src o.w.b k)
    plain (if o.act.contains j then o.src o.w.a j else o.src o.w.c k)) s

/-- The lanes of G whose a is not zero (R198). -/
def LaneOp.nonzero (o : LaneOp) : List Nat := o.act.filter fun j => o.src o.w.a j != 0

/-- What `vote` gives (R198). -/
def voteResult (o : LaneOp) : Bool :=
  match bits o.w.fn6 1 0 with
  | 0 => o.nonzero.length == o.act.length
  | 1 => !o.nonzero.isEmpty
  | 2 => match o.act with
    | [] => true
    | j :: r => r.all fun i => o.src o.w.a i == o.src o.w.a j
  | _ => o.nonzero.length % 2 == 1

/-- `vote` (R198). -/
def execVote (w : LaneW) (s : State) : Out :=
  laneNow (.vote w) 1 (fun o _ => plain (if voteResult o then 1 else 0)) s

/-- `ballot` (R198). -/
def execBallot (w : LaneW) (s : State) : Out :=
  laneNow (.ballot w) 1 (fun o _ => plain (maskOf fun j => o.nonzero.contains j)) s

/-- `match` (R199). -/
def execLmatch (w : LaneW) (s : State) : Out :=
  laneLater (.lmatch w) 1 (fun o k =>
    let same (j : Nat) : Bool :=
      if mdBit o.w 0 then o.src2 o.w.a j == o.src2 o.w.a k else o.src o.w.a j == o.src o.w.a k
    plain (maskOf fun j => o.act.contains j && same j)) s

/-- One combination step of `redux` and `scan` (R200). -/
def reduceStep (op : Nat) (rc : Rc) (x y : W32) : W32 × Flags :=
  let float (r : Nat × Flags) : W32 × Flags := (half r.1, r.2)
  match op with
  | 0 => (x + y, 0)
  | 1 => (minSigned x y, 0)
  | 2 => (maxSigned x y, 0)
  | 3 => (minNatural x y, 0)
  | 4 => (maxNatural x y, 0)
  | 5 => (x &&& y, 0)
  | 6 => (x ||| y, 0)
  | 7 => (x ^^^ y, 0)
  | 8 => float (f32.add rc (f32.value x.toNat) (f32.value y.toNat))
  | 9 => float (f32.minMax false x.toNat y.toNat)
  | _ => float (f32.minMax true x.toNat y.toNat)

/-- The identity of an operation (R200). -/
def reduceIdentity (op : Nat) : W32 :=
  match op with
  | 1 => 0x7FFFFFFF
  | 2 => 0x80000000
  | 3 | 5 => 0xFFFFFFFF
  | 8 => 0x80000000
  | 9 => 0x7F800000
  | 10 => 0xFF800000
  | _ => 0

/-- A value that meets no combination step (R200). -/
def reduceAlone (op : Nat) (x : W32) : W32 × Flags :=
  if op < 8 then (x, 0)
  else
    match f32.value x.toNat with
    | .nan s => (half f32.nan, if s then flagNV else 0)
    | _ => (x, 0)

/-- The reduction of values, left to right (R200). -/
def reduce (op : Nat) (rc : Rc) : List W32 → W32 × Flags
  | [] => (reduceIdentity op, 0)
  | [x] => reduceAlone op x
  | x :: y :: r => r.foldl (fun p z => let q := reduceStep op rc p.1 z; (q.1, p.2 ||| q.2)) (reduceStep op rc x y)

/-- The rounding code of `redux` and `scan`: md8[1:0] for fadd, and RNE for the rest (R200). -/
def reduceRc (w : LaneW) : Rc := if bits w.fn6 3 0 == 8 then roundCode w else .rne

/-- A result with its flags. -/
def reduced (r : W32 × Flags) : BitVec 128 × Flags := (r.1.setWidth 128, r.2)

/-- `redux` (R200). -/
def execRedux (w : LaneW) (s : State) : Out :=
  laneLater (.redux w) 1 (fun o _ =>
    reduced (reduce (bits o.w.fn6 3 0) (reduceRc o.w) (o.act.map fun j => o.src o.w.a j))) s

/-- `scan` (R200). -/
def execScan (w : LaneW) (s : State) : Out :=
  laneLater (.scan w) 1 (fun o k =>
    let before := o.act.filter fun j => decide (j < k) || (j == k && !mdBit o.w 4)
    reduced (reduce (bits o.w.fn6 3 0) (reduceRc o.w) (before.map fun j => o.src o.w.a j))) s

/-- `lid` (R201). -/
def execLid (w : LaneW) (s : State) : Out :=
  laneNow (.lid w) 1 (fun o k =>
    plain (half (match bits o.w.fn6 1 0 with
      | 0 => (o.act.filter fun j => decide (j < k)).length
      | 1 => o.act.length
      | _ => o.act.headD 0))) s

end Sys2Proof.Machine
end

