-- ==== Sys2Proof/Machine/Dispatch.lean ====
section
/-! DEFINITION. The dispatch of every row of the opcode table to its meaning. -/

namespace Sys2Proof.Machine

open Sys2Proof

/-- The meaning of an instruction (spec/opcode_table.json). -/
def exec (i : Instr) (s : State) : Host.Outcome State Fault Refusal :=
  match i with
  -- scalar and control-core words
  | .add d a b => Sys2Proof.Machine.execAdd d a b s
  | .sub d a b => Sys2Proof.Machine.execSub d a b s
  | .and d a b => Sys2Proof.Machine.execAnd d a b s
  | .or d a b => Sys2Proof.Machine.execOr d a b s
  | .xor d a b => Sys2Proof.Machine.execXor d a b s
  | .andn d a b => Sys2Proof.Machine.execAndn d a b s
  | .shl d a b => Sys2Proof.Machine.execShl d a b s
  | .shr d a b => Sys2Proof.Machine.execShr d a b s
  | .sar d a b => Sys2Proof.Machine.execSar d a b s
  | .rol d a b => Sys2Proof.Machine.execRol d a b s
  | .min d a b => Sys2Proof.Machine.execMin d a b s
  | .max d a b => Sys2Proof.Machine.execMax d a b s
  | .minn d a b => Sys2Proof.Machine.execMinn d a b s
  | .maxn d a b => Sys2Proof.Machine.execMaxn d a b s
  | .mul d a b => Sys2Proof.Machine.execMul d a b s
  | .mulh d a b => Sys2Proof.Machine.execMulh d a b s
  | .mulhn d a b => Sys2Proof.Machine.execMulhn d a b s
  | .div d a b => Sys2Proof.Machine.execDiv d a b s
  | .divn d a b => Sys2Proof.Machine.execDivn d a b s
  | .rem d a b => Sys2Proof.Machine.execRem d a b s
  | .remn d a b => Sys2Proof.Machine.execRemn d a b s
  | .clz d a => Sys2Proof.Machine.execClz d a s
  | .ctz d a => Sys2Proof.Machine.execCtz d a s
  | .popc d a => Sys2Proof.Machine.execPopc d a s
  | .brev d a => Sys2Proof.Machine.execBrev d a s
  | .cmp a b k c => Sys2Proof.Machine.execCmp a b k c s
  | .addi d a im => Sys2Proof.Machine.execAddi d a im s
  | .andi d a im => Sys2Proof.Machine.execAndi d a im s
  | .ori d a im => Sys2Proof.Machine.execOri d a im s
  | .xori d a im => Sys2Proof.Machine.execXori d a im s
  | .shli d a n => Sys2Proof.Machine.execShli d a n s
  | .shri d a n => Sys2Proof.Machine.execShri d a n s
  | .sari d a n => Sys2Proof.Machine.execSari d a n s
  | .roli d a n => Sys2Proof.Machine.execRoli d a n s
  | .cmpi k c a im => Sys2Proof.Machine.execCmpi k c a im s
  | .muli d a im => Sys2Proof.Machine.execMuli d a im s
  | .lui d im => Sys2Proof.Machine.execLui d im s
  | .addpc d im => Sys2Proof.Machine.execAddpc d im s
  | .sel d a b n c => Sys2Proof.Machine.execSel d a b n c s
  | .cset d a => Sys2Proof.Machine.execCset d a s
  | .cand d a b => Sys2Proof.Machine.execCand d a b s
  | .cor d a b => Sys2Proof.Machine.execCor d a b s
  | .cxor d a b => Sys2Proof.Machine.execCxor d a b s
  | .cnot d a => Sys2Proof.Machine.execCnot d a s
  | .movc d a => Sys2Proof.Machine.execMovc d a s
  | .br c n o => Sys2Proof.Machine.execBr c n o s
  | .jmp d o => Sys2Proof.Machine.execJmp d o s
  | .jr d a im => Sys2Proof.Machine.execJr d a im s
  | .nop => Sys2Proof.Machine.execNop s
  | .exit => Sys2Proof.Machine.execExit s
  | .yield => Sys2Proof.Machine.execYield s
  | .bkpt => Sys2Proof.Machine.execBkpt s
  | .trap a => Sys2Proof.Machine.execTrap a s
  | .tret => Sys2Proof.Machine.execTret s
  | .idemb => Sys2Proof.Machine.execIdemb s
  | .ideme => Sys2Proof.Machine.execIdeme s
  | .halt => Sys2Proof.Machine.execHalt s
  | .sleep => Sys2Proof.Machine.execSleep s
  | .ldb d a o => Sys2Proof.Machine.execLdb d a o s
  | .ldh d a o => Sys2Proof.Machine.execLdh d a o s
  | .ldw d a o => Sys2Proof.Machine.execLdw d a o s
  | .ldd d a o => Sys2Proof.Machine.execLdd d a o s
  | .ldbs d a o => Sys2Proof.Machine.execLdbs d a o s
  | .ldhs d a o => Sys2Proof.Machine.execLdhs d a o s
  | .ldws d a o => Sys2Proof.Machine.execLdws d a o s
  | .stb d a o => Sys2Proof.Machine.execStb d a o s
  | .sth d a o => Sys2Proof.Machine.execSth d a o s
  | .stw d a o => Sys2Proof.Machine.execStw d a o s
  | .std d a o => Sys2Proof.Machine.execStd d a o s
  | .ldqRlx d a sc z => Sys2Proof.Machine.execLdqRlx d a sc z s
  | .ldqAcq d a sc z => Sys2Proof.Machine.execLdqAcq d a sc z s
  | .stqRlx a b sc z => Sys2Proof.Machine.execStqRlx a b sc z s
  | .stqRel a b sc z => Sys2Proof.Machine.execStqRel a b sc z s
  | .amoAdd d a b w => Sys2Proof.Machine.execAmoAdd d a b w s
  | .amoAnd d a b w => Sys2Proof.Machine.execAmoAnd d a b w s
  | .amoOr d a b w => Sys2Proof.Machine.execAmoOr d a b w s
  | .amoXor d a b w => Sys2Proof.Machine.execAmoXor d a b w s
  | .amoMin d a b w => Sys2Proof.Machine.execAmoMin d a b w s
  | .amoMax d a b w => Sys2Proof.Machine.execAmoMax d a b w s
  | .amoMinn d a b w => Sys2Proof.Machine.execAmoMinn d a b w s
  | .amoMaxn d a b w => Sys2Proof.Machine.execAmoMaxn d a b w s
  | .amoSwap d a b w => Sys2Proof.Machine.execAmoSwap d a b w s
  | .cas d a b w => Sys2Proof.Machine.execCas d a b w s
  | .fenceAcq sc => Sys2Proof.Machine.execFenceAcq sc s
  | .fenceRel sc => Sys2Proof.Machine.execFenceRel sc s
  | .fenceAcqrel sc => Sys2Proof.Machine.execFenceAcqrel sc s
  | .fenceSc sc => Sys2Proof.Machine.execFenceSc sc s
  | .ldspB d a o => Sys2Proof.Machine.execLdspB d a o s
  | .ldspH d a o => Sys2Proof.Machine.execLdspH d a o s
  | .ldspW d a o => Sys2Proof.Machine.execLdspW d a o s
  | .ldspD d a o => Sys2Proof.Machine.execLdspD d a o s
  | .ldspBs d a o => Sys2Proof.Machine.execLdspBs d a o s
  | .ldspHs d a o => Sys2Proof.Machine.execLdspHs d a o s
  | .ldspWs d a o => Sys2Proof.Machine.execLdspWs d a o s
  | .stspB d a o => Sys2Proof.Machine.execStspB d a o s
  | .stspH d a o => Sys2Proof.Machine.execStspH d a o s
  | .stspW d a o => Sys2Proof.Machine.execStspW d a o s
  | .stspD d a o => Sys2Proof.Machine.execStspD d a o s
  | .datumSet a n => Sys2Proof.Machine.execDatumSet a n s
  | .datumClear n => Sys2Proof.Machine.execDatumClear n s
  | .datumQuery d n => Sys2Proof.Machine.execDatumQuery d n s
  | .getsr d im => Sys2Proof.Machine.execGetsr d im s
  | .setsr a im => Sys2Proof.Machine.execSetsr a im s
  | .lrun a im => Sys2Proof.Machine.execLrun a im s
  | .lwait a => Sys2Proof.Machine.execLwait a s
  | .lget d v l => Sys2Proof.Machine.execLget d v l s
  | .lset a v l => Sys2Proof.Machine.execLset a v l s
  | .lmaskRead d m => Sys2Proof.Machine.execLmaskRead d m s
  | .lmaskWrite a m => Sys2Proof.Machine.execLmaskWrite a m s
  | .mma d a b => Sys2Proof.Machine.execMma d a b s
  | .mgang a => Sys2Proof.Machine.execMgang a s
  | .mwait a => Sys2Proof.Machine.execMwait a s
  | .accz a b => Sys2Proof.Machine.execAccz a b s
  | .accv d a b => Sys2Proof.Machine.execAccv d a b s
  | .cpyG2s d a u x l => Sys2Proof.Machine.execCpyG2s d a u x l s
  | .cpyS2g d a u x l => Sys2Proof.Machine.execCpyS2g d a u x l s
  | .cpyGth d a u x l => Sys2Proof.Machine.execCpyGth d a u x l s
  | .cpySct d a u x l => Sys2Proof.Machine.execCpySct d a u x l s
  | .cpyG2g d a u x l => Sys2Proof.Machine.execCpyG2g d a u x l s
  | .cpyw d a => Sys2Proof.Machine.execCpyw d a s
  | .cpywPoll d a => Sys2Proof.Machine.execCpywPoll d a s
  | .yieldc a im => Sys2Proof.Machine.execYieldc a im s
  | .collSum d a t sc => Sys2Proof.Machine.execCollSum d a t sc s
  | .collMax d a t sc => Sys2Proof.Machine.execCollMax d a t sc s
  | .collMin d a t sc => Sys2Proof.Machine.execCollMin d a t sc s
  | .collGather d a t sc => Sys2Proof.Machine.execCollGather d a t sc s
  | .collBcast d a t sc => Sys2Proof.Machine.execCollBcast d a t sc s
  | .barInit a b => Sys2Proof.Machine.execBarInit a b s
  | .barArvRlx d a => Sys2Proof.Machine.execBarArvRlx d a s
  | .barArvRel d a => Sys2Proof.Machine.execBarArvRel d a s
  | .barWait d a b => Sys2Proof.Machine.execBarWait d a b s
  | .barArw d a => Sys2Proof.Machine.execBarArw d a s
  | .barArvx a => Sys2Proof.Machine.execBarArvx a s
  | .barQuery d a => Sys2Proof.Machine.execBarQuery d a s
  | .plst d a b => Sys2Proof.Machine.execPlst d a b s
  | .plamoAdd d a b => Sys2Proof.Machine.execPlamoAdd d a b s
  | .plamoMax d a b => Sys2Proof.Machine.execPlamoMax d a b s
  | .plamoCas d a b => Sys2Proof.Machine.execPlamoCas d a b s
  | .plfence => Sys2Proof.Machine.execPlfence s
  | .plwait => Sys2Proof.Machine.execPlwait s
  | .plsync d => Sys2Proof.Machine.execPlsync d s
  | .thnew d a b => Sys2Proof.Machine.execThnew d a b s
  | .thcopy d a => Sys2Proof.Machine.execThcopy d a s
  | .thdrop a => Sys2Proof.Machine.execThdrop a s
  | .thbind a b => Sys2Proof.Machine.execThbind a b s
  | .tver d a => Sys2Proof.Machine.execTver d a s
  | .thinfo d a b => Sys2Proof.Machine.execThinfo d a b s
  | .ckclr k => Sys2Proof.Machine.execCkclr k s
  | .ckrd d k => Sys2Proof.Machine.execCkrd d k s
  | .ckchk a => Sys2Proof.Machine.execCkchk a s
  | .ckadd k a => Sys2Proof.Machine.execCkadd k a s
  | .launch d a => Sys2Proof.Machine.execLaunch d a s
  | .gwait d a => Sys2Proof.Machine.execGwait d a s
  | .gquery d a => Sys2Proof.Machine.execGquery d a s
  | .rolesw a => Sys2Proof.Machine.execRolesw a s
  | .roleq d a => Sys2Proof.Machine.execRoleq d a s
  | .evt a b => Sys2Proof.Machine.execEvt a b s
  | .tarm d a b => Sys2Proof.Machine.execTarm d a b s
  | .tdisarm d a => Sys2Proof.Machine.execTdisarm d a s
  | .sopen d a b => Sys2Proof.Machine.execSopen d a b s
  | .sadd d a b => Sys2Proof.Machine.execSadd d a b s
  | .sclose d a => Sys2Proof.Machine.execSclose d a s
  | .dtlbi b a => Sys2Proof.Machine.execDtlbi b a s
  | .dtlbf => Sys2Proof.Machine.execDtlbf s
  -- lane words
  | .iadd w => Sys2Proof.Machine.execIadd w s
  | .isub w => Sys2Proof.Machine.execIsub w s
  | .imul w => Sys2Proof.Machine.execImul w s
  | .imulh w => Sys2Proof.Machine.execImulh w s
  | .imad w => Sys2Proof.Machine.execImad w s
  | .imin w => Sys2Proof.Machine.execImin w s
  | .imax w => Sys2Proof.Machine.execImax w s
  | .iabs w => Sys2Proof.Machine.execIabs w s
  | .laneAnd w => Sys2Proof.Machine.execLaneAnd w s
  | .laneOr w => Sys2Proof.Machine.execLaneOr w s
  | .laneXor w => Sys2Proof.Machine.execLaneXor w s
  | .blut w => Sys2Proof.Machine.execBlut w s
  | .laneShl w => Sys2Proof.Machine.execLaneShl w s
  | .laneShr w => Sys2Proof.Machine.execLaneShr w s
  | .laneSar w => Sys2Proof.Machine.execLaneSar w s
  | .laneRol w => Sys2Proof.Machine.execLaneRol w s
  | .lanePopc w => Sys2Proof.Machine.execLanePopc w s
  | .laneClz w => Sys2Proof.Machine.execLaneClz w s
  | .laneBrev w => Sys2Proof.Machine.execLaneBrev w s
  | .bfe w => Sys2Proof.Machine.execBfe w s
  | .bfi w => Sys2Proof.Machine.execBfi w s
  | .isetp w => Sys2Proof.Machine.execIsetp w s
  | .laneSel w => Sys2Proof.Machine.execLaneSel w s
  | .mov w => Sys2Proof.Machine.execMov w s
  | .iadd64 w => Sys2Proof.Machine.execIadd64 w s
  | .imul64 w => Sys2Proof.Machine.execImul64 w s
  | .idiv w => Sys2Proof.Machine.execIdiv w s
  | .irem w => Sys2Proof.Machine.execIrem w s
  | .dot4 w => Sys2Proof.Machine.execDot4 w s
  | .bsel w => Sys2Proof.Machine.execBsel w s
  | .lea w => Sys2Proof.Machine.execLea w s
  | .fadd w => Sys2Proof.Machine.execFadd w s
  | .fsub w => Sys2Proof.Machine.execFsub w s
  | .fmul w => Sys2Proof.Machine.execFmul w s
  | .ffma w => Sys2Proof.Machine.execFfma w s
  | .fmin w => Sys2Proof.Machine.execFmin w s
  | .fmax w => Sys2Proof.Machine.execFmax w s
  | .fsetp w => Sys2Proof.Machine.execFsetp w s
  | .fclass w => Sys2Proof.Machine.execFclass w s
  | .frcp w => Sys2Proof.Machine.execFrcp w s
  | .frsq w => Sys2Proof.Machine.execFrsq w s
  | .fsqrt w => Sys2Proof.Machine.execFsqrt w s
  | .fexp2 w => Sys2Proof.Machine.execFexp2 w s
  | .flog2 w => Sys2Proof.Machine.execFlog2 w s
  | .fsin w => Sys2Proof.Machine.execFsin w s
  | .fcos w => Sys2Proof.Machine.execFcos w s
  | .fdiv w => Sys2Proof.Machine.execFdiv w s
  | .pkadd w => Sys2Proof.Machine.execPkadd w s
  | .pkmul w => Sys2Proof.Machine.execPkmul w s
  | .pkfma w => Sys2Proof.Machine.execPkfma w s
  | .pkmnx w => Sys2Proof.Machine.execPkmnx w s
  | .fcvt w => Sys2Proof.Machine.execFcvt w s
  | .f2i w => Sys2Proof.Machine.execF2i w s
  | .i2f w => Sys2Proof.Machine.execI2f w s
  | .frnd w => Sys2Proof.Machine.execFrnd w s
  | .fscale w => Sys2Proof.Machine.execFscale w s
  | .pack w => Sys2Proof.Machine.execPack w s
  | .unpack w => Sys2Proof.Machine.execUnpack w s
  | .ld w => Sys2Proof.Machine.execLd w s
  | .st w => Sys2Proof.Machine.execSt w s
  | .atom w => Sys2Proof.Machine.execAtom w s
  | .atcas w => Sys2Proof.Machine.execAtcas w s
  | .red w => Sys2Proof.Machine.execRed w s
  | .fenceL w => Sys2Proof.Machine.execFenceL w s
  | .send w => Sys2Proof.Machine.execSend w s
  | .recv w => Sys2Proof.Machine.execRecv w s
  | .lsmap w => Sys2Proof.Machine.execLsmap w s
  | .shfl w => Sys2Proof.Machine.execShfl w s
  | .vote w => Sys2Proof.Machine.execVote w s
  | .ballot w => Sys2Proof.Machine.execBallot w s
  | .lmatch w => Sys2Proof.Machine.execLmatch w s
  | .redux w => Sys2Proof.Machine.execRedux w s
  | .scan w => Sys2Proof.Machine.execScan w s
  | .lid w => Sys2Proof.Machine.execLid w s
  | .bra w => Sys2Proof.Machine.execBra w s
  | .regang w => Sys2Proof.Machine.execRegang w s
  | .lend w => Sys2Proof.Machine.execLend w s
  | .fresume w => Sys2Proof.Machine.execFresume w s
  | .lnop w => Sys2Proof.Machine.execLnop w s
  | .evtl w => Sys2Proof.Machine.execEvtl w s
  | .ckacc w => Sys2Proof.Machine.execCkacc w s
  | .ltrap w => Sys2Proof.Machine.execLtrap w s
  | .accld w => Sys2Proof.Machine.execAccld w s
  | .accst w => Sys2Proof.Machine.execAccst w s
  -- steps of the part with no word of their own
  | .scalarResultWrite g k => Sys2Proof.Machine.execScalarResultWrite g k s
  | .laneResultWrite g k => Sys2Proof.Machine.execLaneResultWrite g k s
  | .holdParkComplete g => Sys2Proof.Machine.execHoldParkComplete g s
  | .laneHoldComplete g => Sys2Proof.Machine.execLaneHoldComplete g s
  | .trapEntry g => Sys2Proof.Machine.execTrapEntry g s
  | .laneTrapEntry g => Sys2Proof.Machine.execLaneTrapEntry g s
  | .asyncCauseTaken g => Sys2Proof.Machine.execAsyncCauseTaken g s
  | .walkComplete w => Sys2Proof.Machine.execWalkComplete w s
  | .heldPteReread w => Sys2Proof.Machine.execHeldPteReread w s
  | .heldPteTimeout w => Sys2Proof.Machine.execHeldPteTimeout w s
  | .firstTouch w => Sys2Proof.Machine.execFirstTouch w s
  | .regangRelease g => Sys2Proof.Machine.execRegangRelease g s
  | .blockAppend g => Sys2Proof.Machine.execBlockAppend g s
  | .blockStart g => Sys2Proof.Machine.execBlockStart g s
  | .blockEnd g => Sys2Proof.Machine.execBlockEnd g s
  | .lwaitComplete g => Sys2Proof.Machine.execLwaitComplete g s
  | .laneStateWaitEnd g => Sys2Proof.Machine.execLaneStateWaitEnd g s
  | .groupRetire g => Sys2Proof.Machine.execGroupRetire g s
  | .sleepEnd g => Sys2Proof.Machine.execSleepEnd g s
  | .fenceParkComplete lane g => Sys2Proof.Machine.execFenceParkComplete lane g s
  | .haltStop g => Sys2Proof.Machine.execHaltStop g s
  | .roleswComplete g => Sys2Proof.Machine.execRoleswComplete g s
  | .idembSnapshot g => Sys2Proof.Machine.execIdembSnapshot g s
  | .idemeComplete g => Sys2Proof.Machine.execIdemeComplete g s
  | .storeQueueDrain g => Sys2Proof.Machine.execStoreQueueDrain g s
  | .scAccessComplete lane g => Sys2Proof.Machine.execScAccessComplete lane g s
  | .homeRequest core k => Sys2Proof.Machine.execHomeRequest core k s
  | .nearCacheReplacement core k => Sys2Proof.Machine.execNearCacheReplacement core k s
  | .sendSlotWrite g => Sys2Proof.Machine.execSendSlotWrite g s
  | .recvDelivery g => Sys2Proof.Machine.execRecvDelivery g s
  | .barWaitRelease g => Sys2Proof.Machine.execBarWaitRelease g s
  | .barArvxAcknowledge g => Sys2Proof.Machine.execBarArvxAcknowledge g s
  | .rendezvous quad k => Sys2Proof.Machine.execRendezvous quad k s
  | .latchTimeout quad k => Sys2Proof.Machine.execLatchTimeout quad k s
  | .mmaAccept op => Sys2Proof.Machine.execMmaAccept op s
  | .mmaPartComplete op => Sys2Proof.Machine.execMmaPartComplete op s
  | .mwaitComplete g => Sys2Proof.Machine.execMwaitComplete g s
  | .copyStart op => Sys2Proof.Machine.execCopyStart op s
  | .copyDone op => Sys2Proof.Machine.execCopyDone op s
  | .cpywComplete g => Sys2Proof.Machine.execCpywComplete g s
  | .yieldcContinuation g => Sys2Proof.Machine.execYieldcContinuation g s
  | .collectiveComplete op => Sys2Proof.Machine.execCollectiveComplete op s
  | .collectiveTimeout op => Sys2Proof.Machine.execCollectiveTimeout op s
  | .teamPlacement core => Sys2Proof.Machine.execTeamPlacement core s
  | .waitClockExpiry grid => Sys2Proof.Machine.execWaitClockExpiry grid s
  | .gridComplete grid => Sys2Proof.Machine.execGridComplete grid s
  | .gwaitComplete g => Sys2Proof.Machine.execGwaitComplete g s
  | .thReturnApply k => Sys2Proof.Machine.execThReturnApply k s
  | .tensorUnitAnswer g => Sys2Proof.Machine.execTensorUnitAnswer g s
  | .tarmAnswer g => Sys2Proof.Machine.execTarmAnswer g s
  | .plumbSlot stack => Sys2Proof.Machine.execPlumbSlot stack s
  | .plwaitComplete g => Sys2Proof.Machine.execPlwaitComplete g s
  | .plsyncComplete g => Sys2Proof.Machine.execPlsyncComplete g s
  | .frameBoundary stack => Sys2Proof.Machine.execFrameBoundary stack s
  | .snapshotInstall die => Sys2Proof.Machine.execSnapshotInstall die s
  | .sliceExpiry core ctx => Sys2Proof.Machine.execSliceExpiry core ctx s
  | .groupRestore g => Sys2Proof.Machine.execGroupRestore g s
  | .uncorrectableError site => Sys2Proof.Machine.execUncorrectableError site s
  | .grazerVisit site => Sys2Proof.Machine.execGrazerVisit site s
  | .grazerRetry sector => Sys2Proof.Machine.execGrazerRetry sector s
  | .deferredFaultReport k => Sys2Proof.Machine.execDeferredFaultReport k s
  | .resume die value => Sys2Proof.Machine.execResume die value s
  | .discard die value => Sys2Proof.Machine.execDiscard die value s
  | .fatal die value => Sys2Proof.Machine.execFatal die value s
  | .stop die value => Sys2Proof.Machine.execStop die value s
  | .evict die value => Sys2Proof.Machine.execEvict die value s
  | .ctxend value => Sys2Proof.Machine.execCtxend value s
  | .cbudWrite die core value => Sys2Proof.Machine.execCbudWrite die core value s
  | .ftfill8k die value => Sys2Proof.Machine.execFtfill8k die value s
  | .ftfill8m die value => Sys2Proof.Machine.execFtfill8m die value s
  | .ftrsvfill die value => Sys2Proof.Machine.execFtrsvfill die value s
  | .ftstatClear die value => Sys2Proof.Machine.execFtstatClear die value s
  | .tustatClear unit value => Sys2Proof.Machine.execTustatClear unit value s
  | .plsatWrite stack entry value => Sys2Proof.Machine.execPlsatWrite stack entry value s
  | .plpgWrite stack entry value => Sys2Proof.Machine.execPlpgWrite stack entry value s
  | .registerWrite offset value => Sys2Proof.Machine.execRegisterWrite offset value s
  | .start ctx value => Sys2Proof.Machine.execStart ctx value s
  | .hostPostedWrite pasid addr data => Sys2Proof.Machine.execHostPostedWrite pasid addr data s
  | .hostRead pasid addr len => Sys2Proof.Machine.execHostRead pasid addr len s
  | .fabricIngress r => Sys2Proof.Machine.execFabricIngress r s
  | .linkKeyRotation => Sys2Proof.Machine.execLinkKeyRotation s
  | .endToEndRetry k => Sys2Proof.Machine.execEndToEndRetry k s
  | .translationFetch k => Sys2Proof.Machine.execTranslationFetch k s
  | .invalidation ctx page => Sys2Proof.Machine.execInvalidation ctx page s
  | .invalidationTimeout source => Sys2Proof.Machine.execInvalidationTimeout source s
  | .migration ctx dest => Sys2Proof.Machine.execMigration ctx dest s
  | .migrationConfirmation ctx => Sys2Proof.Machine.execMigrationConfirmation ctx s
  | .scloseComplete g => Sys2Proof.Machine.execScloseComplete g s
  | .eventStep unit => Sys2Proof.Machine.execEventStep unit s
  | .timer unit a j => Sys2Proof.Machine.execTimer unit a j s
  | .watermark unit source => Sys2Proof.Machine.execWatermark unit source s
  | .overflow unit source => Sys2Proof.Machine.execOverflow unit source s
  | .counterCorrection die ahead => Sys2Proof.Machine.execCounterCorrection die ahead s
  | .dieSleep die => Sys2Proof.Machine.execDieSleep die s
  | .dieWake die => Sys2Proof.Machine.execDieWake die s
  | .referenceLoss => Sys2Proof.Machine.execReferenceLoss s
  | .referenceReturn => Sys2Proof.Machine.execReferenceReturn s
  | .holdoverExpiry => Sys2Proof.Machine.execHoldoverExpiry s
  | .fatalModuleError cause => Sys2Proof.Machine.execFatalModuleError cause s
  | .moduleReset => Sys2Proof.Machine.execModuleReset s
  | .phaseChange => Sys2Proof.Machine.execPhaseChange s
  | .fullService => Sys2Proof.Machine.execFullService s
  | .worldAssignment die world => Sys2Proof.Machine.execWorldAssignment die world s
  | .spdmRequest r => Sys2Proof.Machine.execSpdmRequest r s
  | .dumpRead piece => Sys2Proof.Machine.execDumpRead piece s
  | .contextCreation c => Sys2Proof.Machine.execContextCreation c s
  | .linkDeath peer => Sys2Proof.Machine.execLinkDeath peer s
  | .outboundAcknowledgement k => Sys2Proof.Machine.execOutboundAcknowledgement k s

end Sys2Proof.Machine
end

