-- ==== Sys2Proof/Machine/Outside.lean ====
section
/-! DEFINITION. What the device supervisor, Tramir and other modules do that no row of the opcode table names: the supervisor's
MSI-X (R436), grant keys (R440), recalled pages (R442), a migration at its destination and its failure (R372, R448), and correctable
errors (R373, R375). -/

namespace Sys2Proof.Machine

open Sys2Proof

-- A context that comes from another module (R448). Its keys are renumbered, so that they meet no key of this module.

/-- A key renumbered. -/
def rekeyed (b : Nat) (m : Option Nat) : Option Nat := m.map fun n => n + b

/-- A word being executed, with its group's key renumbered. -/
def Cur.shift (b : Nat) (c : Cur) : Cur := { c with g := c.g + b }

/-- What a scalar stream waits for, renumbered. An evicted group waits in no other wait that holds a key (R367). -/
def ScalarWait.shift (b : Nat) : ScalarWait → ScalarWait
  | .fence acquire scope m => .fence acquire scope (rekeyed b m)
  | .gwait d grid => .gwait d (grid + b)
  | .copyToken op => .copyToken (op + b)
  | w => w

/-- The same of a lane unit. -/
def LaneWait.shift (b : Nat) : LaneWait → LaneWait
  | .fence c acquire scope m => .fence (c.shift b) acquire scope (rekeyed b m)
  | .send c w => .send (c.shift b) w
  | .recv c w => .recv (c.shift b) w
  | w => w

/-- A group of the image. -/
def Group.shift (b : Nat) (g : Group) : Group :=
  { g with
    uid := g.uid + b
    place := { g.place with grid := g.place.grid + b, team := g.place.team + b }
    sc := { g.sc with wait := g.sc.wait.shift b }
    ln := { g.ln with wait := g.ln.wait.shift b }
    plFence := rekeyed b g.plFence }

/-- A team of the image; the releases of its sends stay behind, since nothing here reads behind its memory. -/
def Team.shift (b : Nat) (t : Team) : Team :=
  { t with
    uid := t.uid + b
    grid := t.grid + b
    members := t.members.map fun u => u + b
    channels := t.channels.map fun c => { c with data := c.data.map fun d => (d.1, []) } }

/-- A grid of the image. -/
def Grid.shift (b : Nat) (t : Grid) : Grid := { t with uid := t.uid + b, release := rekeyed b t.release }

/-- An engine operation of the image. -/
def EngOp.shift (b : Nat) (o : EngOp) : EngOp :=
  { o with uid := o.uid + b, who := { o.who with g := o.who.g + b, grid := o.who.grid + b, team := o.who.team + b } }

/-- An image that may be installed: its context is a protected one that may be created here, and is alone in it; every group is
evicted, its lane registers stand in their canonical form, every team's windows are saved, and nothing is under way. -/
def State.mayInstall (s : State) (m : Image) : Bool :=
  let n := m.ctx.spec.number
  m.ctx.spec.prot && s.mayCreate m.ctx.spec && sliceLegal m.ctx.spec.slice && !m.ctx.ending
    && (m.grids.all fun t => t.ctx == n && decide (t.uid < m.bound) && t.reading.isNone)
    && (m.teams.all fun t => decide (t.uid < m.bound) && t.saved.isSome)
    && (m.groups.all fun g => g.place.ctx == n && decide (g.uid < m.bound) && (g.life == .evicted || g.life == .restart)
      && g.sq.isEmpty && g.sc.outst.isEmpty && g.ln.outst.isEmpty && cellsWf g.ln.v && cellsWf g.ln.hv)
    && (m.engs.all fun o => o.who.ctx == n && decide (o.uid < m.bound) && o.started.isNone)

/-- The destination installs the context with its memory under its world's key, and confirms (R448). -/
def State.install (s : State) (m : Image) : State :=
  let n := m.ctx.spec.number
  let w := m.ctx.spec.world
  let b := s.sched.uid
  let s := { s with sched := { s.sched with uid := b + m.bound } }.createKeys w
  let s := m.bytes.foldl (fun s p => (s.homeWrite w p.1 p.2).wall p.1 p.2.length) s
  ({ s with
    ctxs := s.ctxs ++ [{ m.ctx with cond := rekeyed b m.ctx.cond }]
    grids := s.grids ++ m.grids.map (Grid.shift b)
    teams := s.teams ++ m.teams.map (Team.shift b)
    groups := s.groups ++ m.groups.map (Group.shift b)
    engs := s.engs ++ m.engs.map (EngOp.shift b)
    tramir := { s.tramir with arrived := s.tramir.arrived ++ [n] } }).send (.migrationConfirmed n)

/-- A context that has come and is not started any more waits no longer. -/
def State.dropArrived (s : State) (n : Nat) : State :=
  { s with tramir := { s.tramir with arrived := s.tramir.arrived.filter fun x => x != n } }

/-- The source has erased its keys, and the destination starts the context (R448). -/
def State.startMigrated (s : State) (n : Nat) : State := s.dropArrived n

/-- The context is lost: the source's keys went before the confirmation came. The destination discards its copy (R448). -/
def State.loseMigrated (s : State) (n : Nat) : State :=
  match s.ctx? n with
  | none => s
  | some c => if s.tramir.arrived.contains n then ((s.finishEnd c).eraseWorld c).dropArrived n else s

/-- A migration has failed, and Tramir ends the context at its source (R372). -/
def State.failMigration (s : State) (n : Nat) : State :=
  match s.ctx? n, s.tramir.moving.find? fun m => m.ctx == n with
  | some c, some _ =>
    { s with tramir := { s.tramir with moving := s.tramir.moving.filter fun m => m.ctx != n } }.beginEnd c
  | _, _ => s

/-- An act of `SystemAct`. The supervisor's MSI-X goes out behind the outbound writes that the port has accepted (R436). -/
def State.systemAct (s : State) : SystemAct → State
  | .supervisorInterrupt n => s.send (.supervisorInterrupt n)
  | .grantKeyRotation => { s with fabric := { s.fabric with grantGen := s.fabric.grantGen + 1 } }
  | .recall ctx page => s.recall ctx page
  | .migrationIn m => if s.mayInstall m then s.install m else s
  | .migrationStart ctx => s.startMigrated ctx
  | .migrationLost ctx => s.loseMigrated ctx
  | .migrationFailed ctx => s.failMigration ctx
  | .corrected site => s.correct site
  | .writeBack n => s.writeBack n

end Sys2Proof.Machine
end

