-- ==== Sys2Proof/Machine/Step.lean ====
section
/-! DEFINITION. One step of the machine: the agent that the state names moves, and the next one is named (log entry 1).
With it, the placing of an instruction where the next step fetches. -/

namespace Sys2Proof.Machine

open Sys2Proof

/-- The next agent is named by a free value, before the one that moves now does so. -/
def State.advance (s : State) : State :=
  { s with sched := { s.sched with turn := Config.nextTurn s.sched.turns, turns := s.sched.turns + 1 } }

/-- An issue opportunity carried out. -/
def State.runIssue : Issue → Host.Outcome State Fault Refusal
  | .idle s => .next s
  | .word i s => exec i s

/-- One step. -/
def step (s : State) : Host.Outcome State Fault Refusal :=
  let turn := s.sched.turn
  let s := s.advance
  match turn with
  | .tick =>
    let s' := s.clockTick
    .next (if s.issues then (s'.clockUnits (s'.clk.tick != s.clk.tick)).timeLocks else s')
  | .replace core k => .next (s.replaceTlb core k)
  | .replaceDie die big k => .next (s.replaceDieTlb die big k)
  | .device k => .next (if s.issues then s.runDevice k else s)
  | .engine op row k => .next (if s.issues then s.moveWord op row k else s)
  | .matRead op => .next (if s.issues then s.readPart op else s)
  | .land g => .next (if s.issues then s.land g else s)
  | .system a => .next (if s.issues then s.systemAct a else s)
  | .scalar core part => if s.issues then State.runIssue (s.issueScalar exec core part) else .next s
  | .lane core part => if s.issues then State.runIssue (s.issueLane exec core part) else .next s
  | .hart =>
    if !s.issues then .next s
    else
      let w := s.fetchHart
      match decodeHart w with
      | .ok i => exec i s
      | .error _ => s.hartOther w
  | .event i => if isStep i && (s.issues || whileFenced i) then exec i s else .next s

/-- The virtual address at which `withFetchWord` places a scalar word, and the page it lies on. -/
def fetchVa : Word := 0x4000000000
/-- The physical page that holds the placed word. -/
def fetchPa : Nat := 0x10000

/-- The page of the placed word, as a translation that may be executed, read and written. -/
def fetchLeaf (world : BitVec 4) : Leaf := ⟨0x4000000000, 8192, fetchPa, true, true, true, true, false, 0, world⟩

/-- The group that `withFetchWord` makes resident: group 0 of a team on core 0, in slot 0 (log entry 8). -/
def fetchGroup : Group :=
  Group.start 1 ⟨1, 1, 1, 0, 0, 0, 0, 1, 1, fetchVa, 0, 0, 4096, 0, 4096, 0⟩ ⟨0, 256, 0⟩ fetchVa 0x4000001000 0

/-- The lane unit of that group with a block that stands at LPC 0 in every lane. -/
def fetchLanes : Lanes :=
  { Lanes.start with
    cur := some ⟨0, Vector.replicate 64 0, List.replicate 8 Datum.clear, 0⟩
    frags := (List.range 8).map (fun k => ⟨k, BitVec.ofNat 32 (15 * 16 ^ k), 0, false, .ready, 0, 0, []⟩) }

/-- The state with an instruction stored where the next step fetches. A scalar or lane word needs a group that is
resident on core 0, which placement would make (log entry 8): nothing is resident after reset. A control-core word is
stored at the hart's pc. -/
def State.withFetchWord (s : State) (nbits w : Nat) : State :=
  let bytes := leBytes (nbits / 8) w
  match decodeTableWord nbits w with
  | some (.dtlbi _ _) | some .dtlbf =>
    { s with
      sched := { s.sched with turn := .hart }
      clk := { s.clk with fenced := false }
      mem := { s.mem with bytes := memWrite s.mem.bytes s.hart.pc.toNat bytes } }
  | _ =>
    let lane := nbits == 96
    let g := if lane then { fetchGroup with ln := fetchLanes } else fetchGroup
    let c := s.core 0
    { s with
      sched := { s.sched with turn := if lane then .lane 0 0 else .scalar 0 0 }
      clk := { s.clk with fenced := false }
      mem := { s.mem with bytes := memWrite s.mem.bytes fetchPa bytes }
      groups := [g]
      teams := [⟨1, 1, 0, 0, [1], 0, 4096, 0, 4096, 0, none, [], [], 0, none, false⟩]
      cores := put s.cores 0 { c with
        tlb := [⟨1, fetchLeaf (s.die 0).world⟩]
        issued := if lane then [(0, s.clk.clock + 1)] else [] } }

end Sys2Proof.Machine
end

