-- ==== Sys2Proof/Safety.lean ====
section
/-! DEFINITION. The terms that the claims use: a word that meets every check before its own effect, what the stream that
executed it has become, the values that the spec's arithmetic gives the register words, written with numbers and not
with the operations of the model, and the canonical form of every store of a state. -/

namespace Sys2Proof.Machine

open Sys2Proof

-- Words that run.

/-- The s and c registers that a scalar word names, in the order in which R20 and R76 check them, numbered as TVAL numbers
them: 0 to 63 for s, 64 to 71 for c. -/
def namedRegs (i : Instr) : List Nat :=
  match i with
  | .add d a b | .sub d a b | .and d a b | .or d a b | .xor d a b | .andn d a b | .shl d a b | .shr d a b | .sar d a b
  | .rol d a b | .min d a b | .max d a b | .minn d a b | .maxn d a b | .mul d a b | .mulh d a b | .mulhn d a b | .div d a b
  | .divn d a b | .rem d a b | .remn d a b | .mma d a b | .accv d a b | .barWait d a b | .plst d a b | .plamoAdd d a b
  | .plamoMax d a b | .plamoCas d a b | .thnew d a b | .thinfo d a b | .tarm d a b | .sopen d a b | .sadd d a b =>
    [d.toNat, a.toNat, b.toNat]
  | .amoAdd d a b _ | .amoAnd d a b _ | .amoOr d a b _ | .amoXor d a b _ | .amoMin d a b _ | .amoMax d a b _
  | .amoMinn d a b _ | .amoMaxn d a b _ | .amoSwap d a b _ | .cas d a b _ => [d.toNat, a.toNat, b.toNat]
  | .clz d a | .ctz d a | .popc d a | .brev d a | .cpyw d a | .cpywPoll d a | .barArvRlx d a | .barArvRel d a
  | .barArw d a | .barQuery d a | .thcopy d a | .tver d a | .launch d a | .gwait d a | .gquery d a | .roleq d a
  | .tdisarm d a | .sclose d a => [d.toNat, a.toNat]
  | .addi d a _ | .andi d a _ | .ori d a _ | .xori d a _ | .muli d a _ | .jr d a _ => [d.toNat, a.toNat]
  | .shli d a _ | .shri d a _ | .sari d a _ | .roli d a _ => [d.toNat, a.toNat]
  | .ldb d a _ | .ldh d a _ | .ldw d a _ | .ldd d a _ | .ldbs d a _ | .ldhs d a _ | .ldws d a _ | .stb d a _ | .sth d a _
  | .stw d a _ | .std d a _ | .ldspB d a _ | .ldspH d a _ | .ldspW d a _ | .ldspD d a _ | .ldspBs d a _ | .ldspHs d a _
  | .ldspWs d a _ | .stspB d a _ | .stspH d a _ | .stspW d a _ | .stspD d a _ => [d.toNat, a.toNat]
  | .ldqRlx d a _ _ | .ldqAcq d a _ _ => [d.toNat, a.toNat]
  | .stqRlx a b _ _ | .stqRel a b _ _ => [a.toNat, b.toNat]
  | .cpyG2s d a _ _ _ | .cpyS2g d a _ _ _ | .cpyGth d a _ _ _ | .cpySct d a _ _ _ | .cpyG2g d a _ _ _ => [d.toNat, a.toNat]
  | .collSum d a _ _ | .collMax d a _ _ | .collMin d a _ _ | .collGather d a _ _ | .collBcast d a _ _ => [d.toNat, a.toNat]
  | .cmp a b _ c => [a.toNat, b.toNat, 64 + c.toNat]
  | .cmpi _ c a _ => [64 + c.toNat, a.toNat]
  | .sel d a b _ c => [d.toNat, a.toNat, b.toNat, 64 + c.toNat]
  | .cset d a => [64 + d.toNat, a.toNat]
  | .cand d a b | .cor d a b | .cxor d a b => [64 + d.toNat, 64 + a.toNat, 64 + b.toNat]
  | .cnot d a => [64 + d.toNat, 64 + a.toNat]
  | .movc d a => [d.toNat, 64 + a.toNat]
  | .br c _ _ => [64 + c.toNat]
  | .lui d _ | .addpc d _ | .jmp d _ | .getsr d _ => [d.toNat]
  | .datumQuery d _ | .lmaskRead d _ => [d.toNat]
  | .lget d _ _ => [d.toNat]
  | .plsync d => [d.toNat]
  | .ckrd d _ => [d.toNat]
  | .trap a | .lwait a | .mgang a | .mwait a | .barArvx a | .thdrop a | .ckchk a | .rolesw a => [a.toNat]
  | .setsr a _ | .yieldc a _ => [a.toNat]
  | .datumSet a _ | .lmaskWrite a _ => [a.toNat]
  | .lset a _ _ => [a.toNat]
  | .ckadd _ a => [a.toNat]
  | .accz a b | .barInit a b | .thbind a b | .evt a b => [a.toNat, b.toNat]
  -- R108: an `lrun` reads every s register
  | .lrun _ _ => (List.range 64).drop 1
  | _ => []

/-- A word of the scalar stream (R55 to R61). -/
def isScalarWord (i : Instr) : Bool :=
  match i with
  | .dtlbi _ _ | .dtlbf => false
  | _ => encode.encodable i && (laneSpec i).isNone

/-- The words that only supervisor mode executes (R114, R398, R399). -/
def supervisorOnly (i : Instr) : Bool :=
  match i with
  | .halt | .tarm _ _ _ | .tdisarm _ _ => true
  | _ => false

/-- The word `i` of group `g` meets every check that precedes its effect (R20, R25, R62): the step has named `g` as the
one that issues it, its fields and the mode admit it, and no register that it names is pending. -/
abbrev Runs (s : State) (c : Cur) (g : Group) (i : Instr) : Prop :=
  s.issuer = some (c, g) ∧ s.legal i = true ∧ (supervisorOnly i = true → g.sc.sup = true)
    ∧ ∀ r ∈ namedRegs i, g.pending r = false

/-- The group once a scalar word of its has completed (R14, R19, R105): SPC names the successor, a word with H = 1 has
parked the stream, and SCNT has counted the word. -/
def Group.completed (g : Group) (hold : Bool) (next : Word) : Group :=
  { g with
    sc := { g.sc with
      spc := next
      wait := if hold then .hold else .ready
      hold := false
      walked := []
      vector := none }
    cnt := { g.cnt with scnt := g.cnt.scnt + 1 } }

/-- The group with s[n] = x, where a write to s0 is discarded (R8). -/
def Group.withS (g : Group) (n : BitVec 6) (x : Word) : Group :=
  if n = 0 then g else { g with sc := { g.sc with s := g.sc.s.set n.toNat x n.isLt } }

/-- c registers with c[n] = b, where a write to c7 is discarded (R8): bit k of the result. -/
def cBits (old : BitVec 8) (n : BitVec 3) (b : Bool) : BitVec 8 :=
  BitVec.ofNat 8 ((List.range 8).foldr (fun k x => 2 * x + if (if k = n.toNat && k != 7 then b else old.getLsbD k) then 1 else 0) 0)

/-- The group with c[n] = b. -/
def Group.withC (g : Group) (n : BitVec 3) (b : Bool) : Group := { g with sc := { g.sc with c := cBits g.sc.c n b } }

-- The arithmetic of the register words (R32, R63, R77 to R84), over numbers.

/-- A number as a 64-bit word, modulo 2^64. -/
def wordOf (x : Int) : Word := BitVec.ofInt 64 x

/-- R63: the condition with a code, over natural and signed values. -/
def holdsFor {n : Nat} (code : Nat) (x y : BitVec n) : Bool :=
  match code with
  | 0 => decide (x.toNat = y.toNat)
  | 1 => decide (x.toNat ≠ y.toNat)
  | 2 => decide (x.toInt < y.toInt)
  | 3 => decide (y.toInt ≤ x.toInt)
  | 4 => decide (x.toNat < y.toNat)
  | 5 => decide (y.toNat ≤ x.toNat)
  | 6 => (List.range n).any fun k => x.getLsbD k && y.getLsbD k
  | _ => !((List.range n).any fun k => x.getLsbD k && y.getLsbD k)

/-- R77: the value of an immediate-class operation of two registers. -/
def aluNowValue (i : Instr) (x y : Word) : Option Word :=
  let n := y.toNat % 64
  match i with
  | .add _ _ _ => some (wordOf (x.toNat + y.toNat))
  | .sub _ _ _ => some (wordOf (x.toNat - y.toNat))
  | .and _ _ _ => some (x &&& y)
  | .or _ _ _ => some (x ||| y)
  | .xor _ _ _ => some (x ^^^ y)
  | .andn _ _ _ => some (x &&& ~~~y)
  | .shl _ _ _ => some (wordOf (x.toNat * 2 ^ n))
  | .shr _ _ _ => some (wordOf (x.toNat / 2 ^ n))
  | .sar _ _ _ => some (wordOf (x.toInt / 2 ^ n))
  | .rol _ _ _ => some (wordOf (x.toNat * 2 ^ n + x.toNat / 2 ^ (64 - n)))
  | .min _ _ _ => some (if x.toInt < y.toInt then x else y)
  | .max _ _ _ => some (if x.toInt < y.toInt then y else x)
  | .minn _ _ _ => some (if x.toNat < y.toNat then x else y)
  | .maxn _ _ _ => some (if x.toNat < y.toNat then y else x)
  | _ => none

/-- R32, R77: the value of a deferred-class operation of two registers. -/
def aluLaterValue (i : Instr) (x y : Word) : Option Word :=
  match i with
  | .mul _ _ _ => some (wordOf (x.toNat * y.toNat))
  | .mulh _ _ _ => some (wordOf (x.toInt * y.toInt / 2 ^ 64))
  | .mulhn _ _ _ => some (wordOf (x.toNat * y.toNat / 2 ^ 64))
  | .div _ _ _ => some (if y.toNat = 0 then wordOf (-1) else wordOf (x.toInt.tdiv y.toInt))
  | .divn _ _ _ => some (if y.toNat = 0 then wordOf (-1) else wordOf (x.toNat / y.toNat))
  | .rem _ _ _ => some (if y.toNat = 0 then x else wordOf (x.toInt.tmod y.toInt))
  | .remn _ _ _ => some (if y.toNat = 0 then x else wordOf (x.toNat % y.toNat))
  | _ => none

/-- R77: the value of an operation of one register. -/
def unaryValue (i : Instr) (x : Word) : Option Word :=
  match i with
  | .clz _ _ => some (word (((List.range 64).find? fun k => x.getLsbD (63 - k)).getD 64))
  | .ctz _ _ => some (word (((List.range 64).find? fun k => x.getLsbD k).getD 64))
  | .popc _ _ => some (word ((List.range 64).filter fun k => x.getLsbD k).length)
  | .brev _ _ => some (word ((List.range 64).foldl (fun n k => 2 * n + if x.getLsbD k then 1 else 0) 0))
  -- R78: the immediate is sign-extended
  | .addi _ _ i => some (wordOf (x.toInt + i.toInt))
  | .andi _ _ i => some (x &&& wordOf i.toInt)
  | .ori _ _ i => some (x ||| wordOf i.toInt)
  | .xori _ _ i => some (x ^^^ wordOf i.toInt)
  -- R79
  | .shli _ _ n => some (wordOf (x.toNat * 2 ^ n.toNat))
  | .shri _ _ n => some (wordOf (x.toNat / 2 ^ n.toNat))
  | .sari _ _ n => some (wordOf (x.toInt / 2 ^ n.toNat))
  | .roli _ _ n => some (wordOf (x.toNat * 2 ^ n.toNat + x.toNat / 2 ^ (64 - n.toNat)))
  | _ => none

/-- The s register that a word of the immediate class writes, and the value (R17). -/
def sWrite (i : Instr) (g : Group) : Option (BitVec 6 × Word) :=
  match i with
  | .add d a b | .sub d a b | .and d a b | .or d a b | .xor d a b | .andn d a b | .shl d a b | .shr d a b | .sar d a b
  | .rol d a b | .min d a b | .max d a b | .minn d a b | .maxn d a b =>
    (aluNowValue i (g.getS a) (g.getS b)).map fun x => (d, x)
  | .clz d a | .ctz d a | .popc d a | .brev d a | .addi d a _ | .andi d a _ | .ori d a _ | .xori d a _ | .shli d a _
  | .shri d a _ | .sari d a _ | .roli d a _ => (unaryValue i (g.getS a)).map fun x => (d, x)
  -- R80
  | .lui d i => some (d, wordOf (i.toInt * 2 ^ 13))
  | .addpc d i => some (d, wordOf (g.sc.spc.toNat + 4 * i.toInt))
  -- R83, R84
  | .sel d a b n c => some (d, if (if n then !g.getC c else g.getC c) then g.getS a else g.getS b)
  | .movc d a => some (d, if g.getC a then 1 else 0)
  | _ => none

/-- The c register that a word writes, and the bit (R81, R82, R84). -/
def cWrite (i : Instr) (g : Group) : Option (BitVec 3 × Bool) :=
  match i with
  | .cmp a b k c => some (c, holdsFor k.toNat (g.getS a) (g.getS b))
  | .cmpi k c a i => some (c, holdsFor k.toNat (g.getS a) (wordOf i.toInt))
  | .cset d a => some (d, decide ((g.getS a).toNat ≠ 0))
  | .cand d a b => some (d, g.getC a && g.getC b)
  | .cor d a b => some (d, g.getC a || g.getC b)
  | .cxor d a b => some (d, decide (g.getC a ≠ g.getC b))
  | .cnot d a => some (d, !g.getC a)
  | _ => none

/-- The s register and the value of a deferred-class word that computes from s registers (R17, R77, R78). -/
def sLater (i : Instr) (g : Group) : Option (BitVec 6 × Word) :=
  match i with
  | .mul d a b | .mulh d a b | .mulhn d a b | .div d a b | .divn d a b | .rem d a b | .remn d a b =>
    (aluLaterValue i (g.getS a) (g.getS b)).map fun x => (d, x)
  | .muli d a i => some (d, wordOf ((g.getS a).toInt * i.toInt))
  | _ => none

-- Waits, traps and the system words.

/-- The group with its scalar stream parked in a word of its own, which has not completed: SPC stays at it (R111). A word that has
yet to issue is taken back from those that have (R394). -/
def Group.waiting (g : Group) (hold : Bool) (w : ScalarWait) : Group :=
  { g with
    sc := { g.sc with wait := w, hold := hold, vector := none }
    trail := match w with
      | .walk _ | .stall _ => g.trail.eraseP fun x => x.1 == false
      | _ => g.trail }

/-- The group parked by a word that has completed and that a wait follows (R90, R116). -/
def Group.parkedAfter (g : Group) (hold : Bool) (w : ScalarWait) : Group :=
  { g with
    sc := { g.sc with spc := g.sc.spc + 4, wait := w, hold := hold, walked := [], vector := none }
    cnt := { g.cnt with scnt := g.cnt.scnt + 1 } }

/-- The sleep of a scalar stream, if it is in one, ends, and the hold of the `sleep` follows (R116). -/
def Group.sleepEnded (g : Group) : Group :=
  match g.sc.wait with
  | .sleep _ => { g with sc := { g.sc with wait := if g.sc.hold then .hold else .ready, hold := false } }
  | _ => g

/-- The handler's address for a cause (R26). -/
def handlerOf (tvb : Word) (cause : Nat) : Word := wordOf (tvb.toNat / 4096 * 4096 + 16 * cause)

/-- Nothing delays or diverts a trap entry of the group (R26, R351, R358): it is resident, no stop waits for it, its scalar
stream is not parked, no result of either stream is outstanding, TVB.BASE is not 0, and the vector can be fetched. -/
abbrev TrapReady (s : State) (g : Group) (cause : Nat) : Prop :=
  s.group? g.uid = some g ∧ g.life = .resident ∧ g.stop = none ∧ g.sc.wait = .ready ∧ g.sc.outst = []
    ∧ g.ln.outst = [] ∧ g.ln.wait.binding = false ∧ 4096 ≤ g.sr.tvb.toNat ∧ cause < 256
    ∧ s.fetchFails g (handlerOf g.sr.tvb cause) = some false

/-- The group in the handler of a cause (R26, R351), entered in clock `now`: `tpc` and `tval` are what the cause states, and `lanes`
and `lpc` the gang and the LPC of a cause that a lane word raised. `told` says that the cause has emitted FAULT (R380). -/
def Group.inHandler (g : Group) (now cause : Nat) (told lane : Bool) (tpc tval : Word) (lanes lpc : BitVec 32) : Group :=
  { g with
    entered := some now
    sr := { g.sr with
      tpc := tpc
      tcause := wordOf (cause + (if g.sc.sup then 256 else 0) + (if lane then 512 else 0))
      tval := tval
      tmask := wordOf (if lane then lanes.toNat else 0)
      tlpc := wordOf (if lane then lpc.toNat else 0) }
    sc := { g.sc with
      spc := handlerOf g.sr.tvb cause
      sup := true
      pend := 0
      wait := .ready
      hold := false
      entry := none
      walked := []
      vector := some ⟨told, false⟩ }
    ln := { g.ln with frozen := true, pend := 0, wait := .ready }
    evicting := g.evicting.map fun _ => true }

/-- The state once the group has taken the trap: FAULT is emitted, but for SWTRAP and BKPT, then the group is in the handler
and TRAP is emitted (R26, R351, R380). -/
def State.trapped (s : State) (g : Group) (cause : Nat) (lane : Bool) (tpc tval : Word) (lanes lpc : BitVec 32) : State :=
  let tag := cause + if lane then 256 else 0
  let told : Bool := decide (cause ≠ 9 ∧ cause ≠ 10)
  let s := if told then s.emitG g 0x09 tag (tval.toNat % 2 ^ 32) else s
  (s.setGroup (g.inHandler s.clk.clock cause told lane tpc tval lanes lpc)).emitG g 0x0A tag (tpc.toNat % 2 ^ 32)

/-- The causes of scalar words that R25 and R26 name. -/
def causeIllegal : Nat := 0x01
def causeHoldv : Nat := 0x02
def causeMisalign : Nat := 0x05
def causeSwtrap : Nat := 0x09
def causeBkpt : Nat := 0x0A

/-- The special registers of R105: number, whether user mode reads it, whether user mode writes it, whether supervisor mode
writes it, and its value. -/
def srTable (s : State) (g : Group) : List (Nat × Bool × Bool × Bool × Word) :=
  [ (0x000, true, false, false, g.place.gid), (0x001, true, false, false, g.place.tidx),
    (0x002, true, false, false, word (g.place.core % 128)), (0x003, true, false, false, word (g.place.core / 128)),
    (0x004, true, false, false, word g.role.role), (0x005, true, false, false, g.place.ngrp),
    (0x006, true, false, false, word g.place.gser.toNat),
    (0x007, true, false, false, ((s.grid? g.place.grid).map fun t => t.handle).getD 0),
    (0x010, true, false, false, g.place.lcb), (0x011, true, false, true, g.sr.tvb), (0x012, true, false, true, g.sr.lsv),
    (0x013, true, false, true, g.sr.tpc), (0x014, true, false, true, g.sr.tcause), (0x015, true, false, true, g.sr.tval),
    (0x016, true, false, true, g.sr.tmask), (0x017, true, false, true, g.sr.tlpc),
    (0x018, true, true, true, word g.fflags.toNat),
    (0x019, false, false, true, g.sr.tsave[0]), (0x01A, false, false, true, g.sr.tsave[1]),
    (0x01B, false, false, true, g.sr.tsave[2]), (0x01C, false, false, true, g.sr.tsave[3]),
    (0x020, true, false, false, s.meridian (g.place.core / 128)), (0x021, true, false, false, word s.clk.clock),
    (0x022, true, false, false,
      word ((if g.ln.frozen then 2 ^ 5 else 0) + (if g.ln.cur.isSome then 2 ^ 4 else 0) + g.ln.queue.length)),
    (0x023, true, false, false, if g.idem then 1 else 0),
    (0x030, true, false, false, g.place.args), (0x031, true, false, false, g.place.sxbase),
    (0x032, true, false, false, g.place.accbase), (0x033, true, false, false, g.place.sxsize),
    (0x034, true, false, false, g.place.accsize), (0x035, true, false, false, word g.role.vregs),
    (0x040, true, false, false, word (s.core g.place.core).part.toNat), (0x041, true, false, false, word g.role.prio),
    (0x042, true, false, false, g.place.eclass),
    (0x1000, true, false, true, g.cnt.scnt), (0x1001, true, false, true, g.cnt.lcnt),
    (0x1002, true, false, true, g.cnt.parkc), (0x1003, true, false, true, g.cnt.stallc) ]

/-- The bits that a write of a special register reaches (R10, R11, R38, R105). -/
def srMask (n : Nat) : Word :=
  match n with
  | 0x011 => ~~~0xFFF#64
  | 0x014 => 0x3FF
  | 0x016 | 0x017 => 0xFFFFFFFF
  | 0x018 => 0x1F
  | _ => BitVec.allOnes 64

/-- The groups of the two states agree but for the special registers that software writes (R105). -/
abbrev SameButSr (g h : Group) : Prop := h = { g with sr := h.sr, fflags := h.fflags, cnt := h.cnt }

/-- Blocks queued or running, and the lane unit idle or frozen (R108, R112). -/
def Group.blocksOut (g : Group) : Nat := g.ln.queue.length + (if g.ln.cur.isSome then 1 else 0)
abbrev Group.laneQuiet (g : Group) : Prop := g.ln.frozen = true ∨ g.blocksOut = 0

/-- What the end of a wait for lane blocks makes the scalar stream's own (R39, R98, R110, R206). -/
def Group.covered (g : Group) : Group :=
  { g with
    fflags := g.fflags ||| g.ln.endFl
    k := Vector.ofFn fun (i : Fin 4) => g.k[i] + g.ln.endK[i]
    ln := { g.ln with endFl := 0, endK := Vector.replicate 4 0 }
    sc := { g.sc with laneSeq := g.ln.endSeq } }

/-- The query word of a datum register (R102), by bit positions. -/
def queryWord (d : Datum) : Word :=
  if d.v then
    wordOf (2 ^ 63 + 2 ^ 59 * d.world.toNat + (if d.sc then 2 ^ 58 else 0) + 2 ^ 56 * d.tier.toNat
      + (if d.a then 2 ^ 55 else 0) + (if d.x then 2 ^ 54 else 0) + (if d.w then 2 ^ 53 else 0)
      + (if d.r then 2 ^ 52 else 0) + d.limit % 2 ^ 34)
  else 0

/-- The group with a result of a deferred-class word under way (R17, R18): the register is pending, but for s0, and the
value is written by a step of its own. -/
def Group.awaiting (g : Group) (reg : Nat) (x : Word) : Group :=
  { g with sc := { g.sc with
    pend := if reg = 0 ∨ reg = 71 then g.sc.pend else g.sc.pend ||| (1#72 <<< reg)
    outst := g.sc.outst ++ [⟨reg, 0, .ext 8 false, g.sc.spc, some x, none, none⟩] } }

-- Scalar memory words (R88 to R97).

/-- What a scalar load names: the register, the address or the window offset, whether it is a scratch access, the size, whether
it sign-extends, and its acquire scope (R88, R91, R93). -/
structure LoadForm where
  d       : BitVec 6
  ea      : Word
  scratch : Bool
  size    : Nat
  signed  : Bool
  acquire : Bool
  scope   : Nat
  deriving DecidableEq, Repr

/-- s[a] plus a scaled offset (R88). -/
def offsetEa (g : Group) (a : BitVec 6) (o : BitVec 10) (n : Nat) : Word := wordOf ((g.getS a).toNat + n * o.toInt)

def loadForm (i : Instr) (g : Group) : Option LoadForm :=
  match i with
  | .ldb d a o => some ⟨d, offsetEa g a o 1, false, 1, false, false, 0⟩
  | .ldh d a o => some ⟨d, offsetEa g a o 2, false, 2, false, false, 0⟩
  | .ldw d a o => some ⟨d, offsetEa g a o 4, false, 4, false, false, 0⟩
  | .ldd d a o => some ⟨d, offsetEa g a o 8, false, 8, false, false, 0⟩
  | .ldbs d a o => some ⟨d, offsetEa g a o 1, false, 1, true, false, 0⟩
  | .ldhs d a o => some ⟨d, offsetEa g a o 2, false, 2, true, false, 0⟩
  | .ldws d a o => some ⟨d, offsetEa g a o 4, false, 4, true, false, 0⟩
  | .ldspB d a o => some ⟨d, offsetEa g a o 1, true, 1, false, false, 0⟩
  | .ldspH d a o => some ⟨d, offsetEa g a o 2, true, 2, false, false, 0⟩
  | .ldspW d a o => some ⟨d, offsetEa g a o 4, true, 4, false, false, 0⟩
  | .ldspD d a o => some ⟨d, offsetEa g a o 8, true, 8, false, false, 0⟩
  | .ldspBs d a o => some ⟨d, offsetEa g a o 1, true, 1, true, false, 0⟩
  | .ldspHs d a o => some ⟨d, offsetEa g a o 2, true, 2, true, false, 0⟩
  | .ldspWs d a o => some ⟨d, offsetEa g a o 4, true, 4, true, false, 0⟩
  | .ldqRlx d a sc z => some ⟨d, g.getS a, false, 2 ^ z.toNat, false, false, sc.toNat⟩
  | .ldqAcq d a sc z => some ⟨d, g.getS a, false, 2 ^ z.toNat, false, true, sc.toNat⟩
  | _ => none

/-- What a scalar store names: the address or the window offset, whether it is a scratch access, the size, the value and its
release scope (R88, R91, R94). -/
structure StoreForm where
  ea      : Word
  scratch : Bool
  size    : Nat
  x       : Word
  rel     : Option Nat
  deriving DecidableEq, Repr

def storeForm (i : Instr) (g : Group) : Option StoreForm :=
  match i with
  | .stb d a o => some ⟨offsetEa g a o 1, false, 1, g.getS d, none⟩
  | .sth d a o => some ⟨offsetEa g a o 2, false, 2, g.getS d, none⟩
  | .stw d a o => some ⟨offsetEa g a o 4, false, 4, g.getS d, none⟩
  | .std d a o => some ⟨offsetEa g a o 8, false, 8, g.getS d, none⟩
  | .stspB d a o => some ⟨offsetEa g a o 1, true, 1, g.getS d, none⟩
  | .stspH d a o => some ⟨offsetEa g a o 2, true, 2, g.getS d, none⟩
  | .stspW d a o => some ⟨offsetEa g a o 4, true, 4, g.getS d, none⟩
  | .stspD d a o => some ⟨offsetEa g a o 8, true, 8, g.getS d, none⟩
  | .stqRlx a b _ z => some ⟨g.getS a, false, 2 ^ z.toNat, g.getS b, none⟩
  | .stqRel a b sc z => some ⟨g.getS a, false, 2 ^ z.toNat, g.getS b, some sc.toNat⟩
  | _ => none

/-- What a scalar atomic does at its home: the operation code of R95, the width in bytes and the operand. -/
def amoForm (i : Instr) (g : Group) : Option (BitVec 6 × Word × Nat × MemOp) :=
  let n (w : Bool) : Nat := if w then 8 else 4
  let x (w : Bool) (r : BitVec 6) : Nat := (g.getS r).toNat % 2 ^ (8 * n w)
  match i with
  | .amoAdd d a b w => some (d, g.getS a, n w, .rmw 0 (n w) (x w b))
  | .amoAnd d a b w => some (d, g.getS a, n w, .rmw 1 (n w) (x w b))
  | .amoOr d a b w => some (d, g.getS a, n w, .rmw 2 (n w) (x w b))
  | .amoXor d a b w => some (d, g.getS a, n w, .rmw 3 (n w) (x w b))
  | .amoMin d a b w => some (d, g.getS a, n w, .rmw 4 (n w) (x w b))
  | .amoMax d a b w => some (d, g.getS a, n w, .rmw 5 (n w) (x w b))
  | .amoMinn d a b w => some (d, g.getS a, n w, .rmw 6 (n w) (x w b))
  | .amoMaxn d a b w => some (d, g.getS a, n w, .rmw 7 (n w) (x w b))
  | .amoSwap d a b w => some (d, g.getS a, n w, .rmw 8 (n w) (x w b))
  -- R96: s[sd] is the expected value
  | .cas d a b w => some (d, g.getS a, n w, .cas (n w) [(x w d, x w b)])
  | _ => none

/-- A global access of `n` bytes at `ea` reaches the page of the leaf `l`: it is aligned (R22), it is translated (R23) and the
page permits it (R233). -/
abbrev Reaches (s : State) (g : Group) (ea : Word) (n : Nat) (acc : Acc) (l : Leaf) : Prop :=
  ea.toNat % n = 0 ∧ s.xlate g.place.core g.place.ctx g.sc.walked ea = some (.leaf l) ∧ l.check acc (s.worldOf g) = none

/-- A scratch access of `n` bytes at the window offset `o` lies in the window, is aligned and meets no lock (R91, R92). -/
abbrev InWindow (s : State) (g : Group) (o : Word) (n : Nat) (writes : Bool) : Prop :=
  o.toNat % n = 0 ∧ o.toNat + n ≤ g.place.sxsize.toNat
    ∧ (s.core g.place.core).locked g.place.ctx 0 (g.place.sxbase.toNat + o.toNat) n writes = false

/-- The memories of two states agree: every byte of HBM and LPDDR, of every scratchpad and accumulator and of every Plumb
replica. -/
abbrev SameMemory (s t : State) : Prop :=
  t.mem = s.mem ∧ (∀ n, (t.core n).scratch = (s.core n).scratch ∧ (t.core n).acc = (s.core n).acc)
    ∧ ∀ d, (t.die d).replica = (s.die d).replica

/-- The other groups of two states agree, and so does what placement gave group `g`. -/
abbrev OnlyGroup (s t : State) (u : Nat) : Prop := ∀ v, v ≠ u → t.group? v = s.group? v

-- Lane words (R66 to R72, R171 to R201).

/-- The word `w` of group `g` as it issues with its active lanes (R66). -/
def laneOpOf (c : Cur) (g : Group) (w : LaneW) : LaneOp := ⟨c, g, w, lanesOf (selected c g.ln w)⟩

/-- The lane word `i`, with fields `w` that it uses as `p` says, meets every check of R72 that precedes its effect: ILLEGAL,
ALLOT and HOLDV; and no active lane reads a register with an error (R373, R374). -/
abbrev LaneRuns (s : State) (c : Cur) (g : Group) (i : Instr) (w : LaneW) (p : LaneSpec) : Prop :=
  s.issuer = some (c, g) ∧ laneSpec i = some (w, p) ∧ s.legal i = true
    ∧ beyondAllotment g.role.vregs (positions p w) = none ∧ g.ln.firstPending c.sup (positions p w) = none
    ∧ (laneOpOf c g w).firstBad p = none ∧ (laneOpOf c g w).oneBad p = []

/-- The group once a lane word of its has completed (R149, R176, R105): the gang stands at the next LPC, a word with H = 1 has
parked the lane stream, and LCNT has counted the issue. -/
def Group.laneDone (g : Group) (c : Cur) : Group :=
  { g with
    ln := { g.ln with
      frags := g.ln.frags.map fun f => if f.inGang c.sup c.lpc then { f with lpc := f.lpc + 1 } else f
      wait := if c.hold then .hold else .ready
      hold := false
      walked := [] }
    cnt := { g.cnt with lcnt := g.cnt.lcnt + 1 } }

/-- The group with its lane stream in a wait. A word that has yet to issue is taken back from those that have (R394), and its fragments
have waited one opportunity more (R150). -/
def Group.laneWaiting (g : Group) (c : Cur) (w : LaneWait) : Group :=
  match w with
  | .walk _ | .stall _ =>
    { g with
      trail := g.trail.eraseP fun x => x.1 == true
      ln := { g.ln with
        wait := w
        frags := g.ln.frags.map fun f => if f.inGang c.sup c.lpc then { f with waited := f.prior } else f } }
  | _ => { g with ln := { g.ln with wait := w } }

/-- A 32-bit word from a number, modulo 2^32. -/
def laneWordOf (x : Int) : W32 := BitVec.ofInt 32 x

/-- A number held to a range. -/
def clampTo (lo hi x : Int) : Int := if x < lo then lo else if hi < x then hi else x

/-- A word as a natural or a signed number. -/
def valueOf (natural : Bool) (x : W32) : Int := if natural then x.toNat else x.toInt

/-- A number by its bits, bit k of it being `f k`, for k below n. -/
def numberOf (n : Nat) (f : Nat → Bool) : Nat := (List.range n).foldr (fun k x => 2 * x + if f k then 1 else 0) 0

/-- Bit field [pos + len - 1 : pos] of R179. -/
def fieldPos (ctl : W32) : Nat := ctl.toNat % 32
def fieldLen (ctl : W32) : Nat := min (ctl.toNat / 256 % 64) (32 - fieldPos ctl)

/-- Byte j of a number. -/
def byteOf (x j : Nat) : Nat := x / 256 ^ j % 256

/-- Byte j as a natural or a signed number (R182). -/
def byteNumber (natural : Bool) (x : W32) (j : Nat) : Int :=
  let b := byteOf x.toNat j
  if natural || b < 128 then b else (b : Int) - 256

/-- R32: a quotient or a remainder of `n`-bit operands, natural or signed. -/
def dividedBy (n : Nat) (natural rem : Bool) (x y : BitVec n) : Int :=
  if y.toNat = 0 then (if rem then x.toNat else -1)
  else if natural then (if rem then x.toNat % y.toNat else x.toNat / y.toNat)
  else if rem then x.toInt.tmod y.toInt else x.toInt.tdiv y.toInt

/-- The results of the integer words of the immediate class with a 32-bit result (R178, R179, R182, R183). -/
def laneIntValue (i : Instr) (w : LaneW) (a b c : W32) : Option W32 :=
  let n := b.toNat % 32
  let natural := w.md8.toNat % 2 = 1
  match i with
  | .iadd _ => some (match w.md8.toNat with
    | 1 => laneWordOf (clampTo (-(2 ^ 31)) (2 ^ 31 - 1) (a.toInt + b.toInt))
    | 2 => laneWordOf (clampTo 0 (2 ^ 32 - 1) (a.toNat + b.toNat))
    | _ => laneWordOf (a.toNat + b.toNat))
  | .isub _ => some (match w.md8.toNat with
    | 1 => laneWordOf (clampTo (-(2 ^ 31)) (2 ^ 31 - 1) (a.toInt - b.toInt))
    | 2 => laneWordOf (clampTo 0 (2 ^ 32 - 1) ((a.toNat : Int) - b.toNat))
    | _ => laneWordOf ((a.toNat : Int) - b.toNat))
  | .imul _ => some (laneWordOf (a.toNat * b.toNat))
  | .imulh _ => some (laneWordOf (valueOf natural a * valueOf natural b / 2 ^ 32))
  | .imad _ => some (laneWordOf (a.toNat * b.toNat + c.toNat))
  | .imin _ => some (if valueOf natural a < valueOf natural b then a else b)
  | .imax _ => some (if valueOf natural a < valueOf natural b then b else a)
  | .iabs _ => some (laneWordOf (if natural then clampTo 0 (2 ^ 31 - 1) a.toInt.natAbs else a.toInt.natAbs))
  | .laneAnd _ => some (a &&& b)
  | .laneOr _ => some (a ||| b)
  | .laneXor _ => some (a ^^^ b)
  | .blut _ => some (half (numberOf 32 fun k =>
      w.md8.getLsbD ((if a.getLsbD k then 1 else 0) + (if b.getLsbD k then 2 else 0) + (if c.getLsbD k then 4 else 0))))
  | .laneShl _ => some (half (a.toNat * 2 ^ n))
  | .laneShr _ => some (half (a.toNat / 2 ^ n))
  | .laneSar _ => some (laneWordOf (a.toInt / 2 ^ n))
  | .laneRol _ => some (half (a.toNat * 2 ^ n + a.toNat / 2 ^ (32 - n)))
  | .lanePopc _ => some (half ((List.range 32).filter fun k => a.getLsbD k).length)
  | .laneClz _ => some (half (((List.range 32).find? fun k => a.getLsbD (31 - k)).getD 32))
  | .laneBrev _ => some (half (numberOf 32 fun k => a.getLsbD (31 - k)))
  | .bfe _ =>
    let f := a.toNat / 2 ^ fieldPos b % 2 ^ fieldLen b
    some (if w.md8.toNat % 2 = 1 ∧ 0 < fieldLen b ∧ 2 ^ (fieldLen b - 1) ≤ f then laneWordOf ((f : Int) - 2 ^ fieldLen b)
      else half f)
  | .bfi _ => some (half (numberOf 32 fun k =>
      if fieldPos c ≤ k ∧ k < fieldPos c + fieldLen c then a.getLsbD (k - fieldPos c) else b.getLsbD k))
  | .mov _ => some a
  | .dot4 _ =>
    let sum := c.toInt + ((List.range 4).map fun j =>
      byteNumber (w.md8.getLsbD 0) a j * byteNumber (w.md8.getLsbD 1) b j).sum
    some (laneWordOf (if w.md8.getLsbD 2 then clampTo (-(2 ^ 31)) (2 ^ 31 - 1) sum else sum))
  | .bsel _ => some (half ((List.range 4).foldr (fun j x => 256 * x +
      (let sel := byteOf c.toNat j
       if 128 ≤ sel then 0 else byteOf (a.toNat + 2 ^ 32 * b.toNat) (sel % 8))) 0))
  | _ => none

/-- The results of the floating-point words of the immediate class with their flags, in the functions of Num.lean, which
round once (R34 to R38, R185, R186, R188, R190 to R195). -/
def laneFloatValue (i : Instr) (w : LaneW) (a b c : W32) (a2 : Word) : Option (Nat × Flags) :=
  let rc := rcOf (w.md8.toNat % 4)
  let v (x : W32) : FVal := f32.value x.toNat
  let f := if w.md8.getLsbD 2 then bf16 else f16
  let lo (x : W32) : Nat := x.toNat % 2 ^ 16
  let hi (x : W32) : Nat := x.toNat / 2 ^ 16
  let bl := if w.md8.getLsbD 3 then hi b else lo b
  let bh := if w.md8.getLsbD 3 then lo b else hi b
  let both (x y : Nat × Flags) : Nat × Flags := (x.1 + 2 ^ 16 * y.1, x.2 ||| y.2)
  let fmt := w.fn6.toNat % 16
  let p := w.md8.toNat / 16 % 8
  match i with
  | .fadd _ => some (f32.add rc (v a) (v b))
  | .fsub _ => some (f32.add rc (v a) (v b).negate)
  | .fmul _ => some (f32.mul rc (v a) (v b))
  | .ffma _ => some (f32.fma rc (v a) (v b) (v c))
  | .fmin _ => some (f32.minMax false a.toNat b.toNat)
  | .fmax _ => some (f32.minMax true a.toNat b.toNat)
  | .fclass _ => some (fclassWord a.toNat, 0)
  | .pkadd _ => some (both (f.add rc (f.value (lo a)) (f.value bl)) (f.add rc (f.value (hi a)) (f.value bh)))
  | .pkmul _ => some (both (f.mul rc (f.value (lo a)) (f.value bl)) (f.mul rc (f.value (hi a)) (f.value bh)))
  | .pkfma _ => some (both (f.fma rc (f.value (lo a)) (f.value bl) (f.value (lo c)))
      (f.fma rc (f.value (hi a)) (f.value bh) (f.value (hi c))))
  | .pkmnx _ => some (both (f.minMax (w.fn6.getLsbD 0) (lo a) bl) (f.minMax (w.fn6.getLsbD 0) (hi a) bh))
  | .fcvt _ => some (cvtDest (w.fn6.toNat % 8) rc (w.md8.getLsbD 2) (cvtSource (w.fn6.toNat / 8) a.toNat))
  | .f2i _ => some (match w.fn6.toNat % 4 with
    | 0 => toInteger 32 (-(2 ^ 31)) (2 ^ 31 - 1) rc (v a)
    | 1 => toInteger 32 0 (2 ^ 32 - 1) rc (v a)
    | 2 => toInteger 64 (-(2 ^ 63)) (2 ^ 63 - 1) rc (v a)
    | _ => toInteger 64 0 (2 ^ 64 - 1) rc (v a))
  | .i2f _ => some (f32.ofVal rc (ofInteger (match w.fn6.toNat % 4 with
    | 0 => a.toInt
    | 1 => a.toNat
    | 2 => a2.toInt
    | _ => a2.toNat)))
  | .frnd _ => some (roundIntegral rc a.toNat)
  | .fscale _ => some (scaleBy rc (v a) b.toInt)
  | .pack _ =>
    let n := packWidth fmt
    let x := packDest fmt rc (w.md8.getLsbD 2) (v a)
    let y := packDest fmt rc (w.md8.getLsbD 2) (v b)
    some (numberOf 32 fun k =>
      if k / n = 2 * p then x.1.testBit (k % n) else if k / n = 2 * p + 1 then y.1.testBit (k % n) else c.getLsbD k,
      x.2 ||| y.2)
  | .unpack _ => some (f32.ofVal .rne (packSource fmt (a.toNat / 2 ^ (packWidth fmt * p) % 2 ^ packWidth fmt)))
  | _ => none

/-- The result of a lane word of the immediate class for lane k: how many registers, their value, the low one in the lowest
bits, and the flags (R174). -/
def laneNowValue (i : Instr) (o : LaneOp) (k : Nat) : Option (Nat × Nat × Flags) :=
  let a := o.src o.w.a k
  let b := o.src o.w.b k
  let c := o.src o.w.c k
  let a2 := o.src2 o.w.a k
  let nz (j : Nat) : Bool := decide ((o.src o.w.a j).toNat ≠ 0)
  match laneIntValue i o.w a b c, laneFloatValue i o.w a b c a2 with
  | some x, _ => some (1, x.toNat, 0)
  | none, some (x, fl) => some ((match i with | .f2i w => (if w.fn6.toNat < 2 then 1 else 2) | _ => 1), x, fl)
  | none, none =>
    match i with
    -- R181
    | .laneSel w =>
      let m := (o.g.ln.mask (w.fn6.toNat % 8)).getLsbD k
      some (1, (if (if w.fn6.getLsbD 3 then !m else m) then a else b).toNat, 0)
    | .iadd64 _ => some (2, (a2.toNat + (o.src2 o.w.b k).toNat) % 2 ^ 64, 0)
    -- R184
    | .lea w =>
      let x : Int := if w.md8.getLsbD 3 then b.toNat else b.toInt
      some (2, (wordOf (a2.toNat + x * 2 ^ (w.md8.toNat % 8))).toNat, 0)
    -- R198
    | .vote w => some (1, (if (match w.fn6.toNat % 4 with
      | 0 => decide (∀ j ∈ o.act, nz j = true)
      | 1 => decide (∃ j ∈ o.act, nz j = true)
      | 2 => decide (∀ j ∈ o.act, o.src o.w.a j = a)
      | _ => decide ((o.act.filter nz).length % 2 = 1)) then 1 else 0), 0)
    | .ballot _ => some (1, numberOf 32 fun j => decide (j ∈ o.act) && nz j, 0)
    -- R201
    | .lid w => some (1, (match w.fn6.toNat with
      | 0 => (o.act.filter fun j => decide (j < k)).length
      | 1 => o.act.length
      | _ => o.act.headD 0), 0)
    | _ => none

/-- The reduction of values in lane order (R200): `op` combines, and a value that meets no combination is `alone`. -/
def reduceFrom (op : Nat) (rc : Rc) (xs : List W32) : W32 × Flags :=
  let word (r : Nat × Flags) : W32 × Flags := (half r.1, r.2)
  let step (x y : W32) : W32 × Flags :=
    match op with
    | 0 => (laneWordOf (x.toNat + y.toNat), 0)
    | 1 => (if x.toInt < y.toInt then x else y, 0)
    | 2 => (if x.toInt < y.toInt then y else x, 0)
    | 3 => (if x.toNat < y.toNat then x else y, 0)
    | 4 => (if x.toNat < y.toNat then y else x, 0)
    | 5 => (x &&& y, 0)
    | 6 => (x ||| y, 0)
    | 7 => (x ^^^ y, 0)
    | 8 => word (f32.add rc (f32.value x.toNat) (f32.value y.toNat))
    | 9 => word (f32.minMax false x.toNat y.toNat)
    | _ => word (f32.minMax true x.toNat y.toNat)
  match xs with
  | [] => ([0, 0x7FFFFFFF, 0x80000000, 0xFFFFFFFF, 0, 0xFFFFFFFF, 0, 0, 0x80000000, 0x7F800000, 0xFF800000].getD op 0, 0)
  | [x] =>
    if 8 ≤ op then
      match f32.value x.toNat with
      | .nan sig => (0x7FC00000, if sig then flagNV else 0)
      | _ => (x, 0)
    else (x, 0)
  | x :: y :: r => r.foldl (fun p z => let q := step p.1 z; (q.1, p.2 ||| q.2)) (step x y)

/-- The result of a lane word of the deferred class that reads no memory, for lane k (R174). -/
def laneLaterValue (i : Instr) (o : LaneOp) (k : Nat) : Option (Nat × Nat × Flags) :=
  let rc := rcOf (o.w.md8.toNat % 4)
  let a := o.src o.w.a k
  let b := o.src o.w.b k
  let v : FVal := f32.value a.toNat
  let one (r : Nat × Flags) : Option (Nat × Nat × Flags) := some (1, r.1, r.2)
  let divide (rem : Bool) : Option (Nat × Nat × Flags) :=
    if o.w.md8.getLsbD 1 then
      some (2, (wordOf (dividedBy 64 (o.w.md8.getLsbD 0) rem (o.src2 o.w.a k) (o.src2 o.w.b k))).toNat, 0)
    else some (1, (laneWordOf (dividedBy 32 (o.w.md8.getLsbD 0) rem a b)).toNat, 0)
  match i with
  | .imul64 _ => some (2, (o.src2 o.w.a k).toNat * (o.src2 o.w.b k).toNat % 2 ^ 64, 0)
  | .idiv _ => divide false
  | .irem _ => divide true
  | .frcp _ => one (f32.div rc (.num false 1 0) v)
  | .frsq _ => one (f32.rsqrt rc v)
  | .fsqrt _ => one (f32.sqrt rc v)
  | .fexp2 _ => one (f32.exp2 rc v)
  | .flog2 _ => one (f32.log2 rc v)
  | .fsin _ => one (f32.turns false rc v)
  | .fcos _ => one (f32.turns true rc v)
  | .fdiv _ => one (f32.div rc v (f32.value b.toNat))
  -- R197
  | .shfl w =>
    let j := match w.fn6.toNat % 4 with
      | 0 => b.toNat % 32
      | 1 => (k + b.toNat % 32) % 32
      | 2 => k ^^^ (b.toNat % 32)
      | _ => 4 * (b.toNat % 8) + k % 4
    some (1, (if j ∈ o.act then o.src w.a j else o.src w.c k).toNat, 0)
  -- R199
  | .lmatch w => some (1, numberOf 32 fun j => decide (j ∈ o.act) &&
      (if w.md8.getLsbD 0 then decide (o.src2 w.a j = o.src2 w.a k) else decide (o.src w.a j = a)), 0)
  -- R200
  | .redux w =>
    let r := reduceFrom w.fn6.toNat (if w.fn6.toNat = 8 then rc else .rne) (o.act.map fun j => o.src w.a j)
    some (1, r.1.toNat, r.2)
  | .scan w =>
    let r := reduceFrom w.fn6.toNat (if w.fn6.toNat = 8 then rc else .rne)
      ((o.act.filter fun j => decide (j < k ∨ (j = k ∧ w.md8.getLsbD 4 = false))).map fun j => o.src w.a j)
    some (1, r.1.toNat, r.2)
  | _ => none

/-- The bit that a lane word gives a mask register for lane k, and the flags (R180, R187). -/
def laneMaskValue (i : Instr) (o : LaneOp) (k : Nat) : Option (Bool × Flags) :=
  let old := (o.g.ln.mask o.w.d.toNat).getLsbD k
  let comb (t : Bool) : Bool :=
    match o.w.fn6.toNat / 8 % 4 with
    | 0 => t
    | 1 => old && t
    | 2 => old || t
    | _ => decide (old ≠ t)
  let code := o.w.fn6.toNat % 8
  match i with
  | .isetp w =>
    some (comb (if w.md8.getLsbD 0 then holdsFor code (o.src2 w.a k) (o.src2 w.b k)
      else holdsFor code (o.src w.a k) (o.src w.b k)), 0)
  | .fsetp w =>
    let r := fcondition code (f32.value (o.src w.a k).toNat) (f32.value (o.src w.b k).toNat)
    some (comb r.1, r.2)
  | _ => none

-- Lane memory words (R247 to R258, R317).

/-- The bytes of a size code (R247). -/
def laneBytes (w : LaneW) : Nat := [1, 2, 4, 8, 16, 1, 2].getD (w.md8.toNat % 8) 0

/-- The registers that a datum of `n` bytes takes (R68, R247). -/
def datumRegs (n : Nat) : Nat := if n = 16 then 4 else if n = 8 then 2 else 1

/-- The offset that an active lane forms, and its virtual address; a window offset stands for itself (R248). -/
def laneOff (o : LaneOp) (k : Nat) : Int := (o.src o.w.a k).toNat + o.w.imm.toInt
def laneVa (o : LaneOp) (k : Nat) : Word :=
  match o.w.md8.toNat / 8 % 4 with
  | 0 => wordOf ((o.src2 o.w.a k).toNat + o.w.imm.toInt)
  | 1 => wordOf ((o.g.ln.datum (o.w.md8.toNat / 32)).base.toNat + laneOff o k)
  | _ => wordOf (laneOff o k)

/-- A global access of a lane at `va` reaches `pa` on a page that permits it (R23, R233). -/
abbrev LaneReaches (s : State) (g : Group) (va : Word) (acc : Acc) (pa : Nat) (sc : Bool) : Prop :=
  ∃ l, s.xlate g.place.core g.place.ctx g.ln.walked va = some (.leaf l) ∧ l.check acc (s.worldOf g) = none
    ∧ pa = l.phys va ∧ sc = l.sc

/-- The datum register of a word covers a lane's offset (R103). -/
abbrev datumCovers (d : Datum) (x : Int) : Prop := d.v = true ∧ 0 ≤ x ∧ x < d.limit

/-- The access of lane `k` of a memory word meets none of the checks of R249 and reaches `pa`. -/
abbrev LaneAt (s : State) (o : LaneOp) (acc : Acc) (k pa : Nat) (sc : Bool) : Prop :=
  let g := o.g
  let n := laneBytes o.w
  let free : Prop := acc = .load ∨ s.storeLocked g (laneVa o k) n = false
  (laneVa o k).toNat % n = 0 ∧
    match o.w.md8.toNat / 8 % 4 with
    | 0 => free ∧ LaneReaches s g (laneVa o k) acc pa sc
    | 1 =>
      let d := g.ln.datum (o.w.md8.toNat / 32)
      free ∧
        if datumCovers d (laneOff o k) then
          rights d.r d.w d.x d.a d.world acc (s.worldOf g) = none ∧ pa = d.frame + (laneOff o k).toNat ∧ sc = d.sc
        else LaneReaches s g (laneVa o k) acc pa sc
    | 2 =>
      0 ≤ laneOff o k ∧ laneOff o k + n ≤ (g.place.sxsize.toNat : Int) ∧
        (s.core g.place.core).locked g.place.ctx 0 (g.place.sxbase.toNat + (laneOff o k).toNat) n (acc != .load) = false ∧
        pa = g.place.sxbase.toNat + (laneOff o k).toNat ∧ sc = false
    | _ => False

/-- The access of lane `k` of a word that reaches global memory faults with a cause (R249 step 7). -/
abbrev LaneFaultsAt (s : State) (o : LaneOp) (acc : Acc) (k : Nat) (cause : BitVec 8) (untouched : Bool) : Prop :=
  let g := o.g
  let va := laneVa o k
  let d := g.ln.datum (o.w.md8.toNat / 32)
  va.toNat % laneBytes o.w = 0 ∧ (acc = .load ∨ s.storeLocked g va (laneBytes o.w) = false) ∧
    if o.w.md8.toNat / 8 % 4 = 1 ∧ datumCovers d (laneOff o k) then
      rights d.r d.w d.x d.a d.world acc (s.worldOf g) = some cause ∧ untouched = false
    else
      (o.w.md8.toNat / 8 % 4 = 1 ∨ (o.w.md8.toNat / 8 % 4 = 0 ∧ canonical va = true)) ∧
        ((s.xlate g.place.core g.place.ctx g.ln.walked va = some (.fault untouched) ∧ cause = 0x10) ∨
          ∃ l, s.xlate g.place.core g.place.ctx g.ln.walked va = some (.leaf l) ∧ l.check acc (s.worldOf g) = some cause ∧
            untouched = false)

/-- The accesses of a word of `n` bytes: lane by lane, a quad as two of 8 bytes (R252, R271). -/
def laneParts (n : Nat) (ks : List Nat) : List (Nat × Nat) :=
  ks.flatMap fun k => if n = 16 then [(k, 0), (k, 8)] else [(k, 0)]

/-- The request number `x` of a lane word. -/
def laneRequest (s : State) (c : Cur) (g : Group) (x slots : Nat) (scratch : Bool) (addr : Nat) (va : Word) (sc : Bool)
    (rel : Option Nat) (op : MemOp) : MemReq :=
  ⟨s.sched.uid + x, g.origin (s.worldOf g) true (wordOf c.lpc.toNat), g.seq + x, g.blockSeq, g.seq, slots, scratch, addr, va, sc,
    rel, 0, op⟩

/-- The keys of the requests to SC pages. -/
def scKeys (rs : List MemReq) : List Nat := (rs.filter fun r => r.sc).map fun r => r.id

/-- The group with `n` registers from `d` pending and their result under way in pieces (R174, R175). -/
def Group.laneAwaiting (g : Group) (c : Cur) (d n : Nat) (pieces : List LanePiece) : Group :=
  { g with ln := { g.ln with
    pend := (List.range n).foldl (fun p k => p ||| (1#264 <<< regNumber c.sup (d + k))) g.ln.pend
    outst := g.ln.outst ++ [⟨d, n, namesHandler c.sup d, c.lpc, pieces⟩] } }

/-- The group once a lane word with `n` requests has issued: accesses to SC pages keep the lane stream waiting (R253). -/
def Group.laneSent (g : Group) (c : Cur) (n : Nat) (waits : List Nat) : Group :=
  let h := { g with seq := g.seq + n }.laneDone c
  if waits = [] then h else { h with ln := { h.ln with wait := .scAccess waits, hold := c.hold } }

/-- A piece whose value is known at issue. -/
def pieceOf (lane x : Nat) : LanePiece := ⟨lane, 0, 0, .ext 16 false, some (BitVec.ofNat 128 x), none, none⟩

/-- A number of `n` bytes as a register holds it, sign-extended or not, and as a lane takes it: 32 bits for a datum of at most
4 bytes (R247, R251). -/
def extended (n : Nat) (signed : Bool) (x : Nat) : Nat :=
  if signed && decide (2 ^ (8 * n - 1) ≤ x) then x + 2 ^ 64 - 2 ^ (8 * n) else x

/-- The operand of a memory word of `n` bytes, as a number. -/
def LaneOp.datumOf (o : LaneOp) (f : BitVec 9) (n k : Nat) : Nat :=
  if n = 16 then (o.src4 f k).toNat else if n = 8 then (o.src2 f k).toNat else (o.src f k).toNat

/-- R254: `Comb(x, y)` on operands of 4 or 8 bytes. -/
def combNumber (op n x y : Nat) : Nat :=
  let m := 2 ^ (8 * n)
  let less : Bool := if 2 * x < m then (if 2 * y < m then decide (x < y) else false)
    else (if 2 * y < m then true else decide (x < y))
  match op with
  | 0 => (x + y) % m
  | 1 => x &&& y
  | 2 => x ||| y
  | 3 => x ^^^ y
  | 4 => if less then x else y
  | 5 => if less then y else x
  | 6 => min x y
  | 7 => max x y
  | 8 => y
  | _ => (f32.add .rne (f32.value x) (f32.value y)).1

/-- The operands combined from left to right, none for no operand (R256). -/
def combAll (op n : Nat) (xs : List Nat) : Option Nat :=
  match xs with
  | [] => none
  | x :: r => some (r.foldl (fun p y => combNumber op n p y) x)

/-- The address classes of the active lanes in the order of their lowest lanes (R256). -/
def laneClasses (o : LaneOp) : List (List Nat) :=
  (o.act.map fun k => laneVa o k).eraseDups.map fun a => o.act.filter fun k => laneVa o k == a

/-- What the request of one class does, and what each of its lanes does with the value that it returns (R256, R257). -/
def classRequest (i : Instr) (o : LaneOp) (ks : List Nat) : MemOp × List (Nat × Post) :=
  let n := laneBytes o.w
  let op := o.w.fn6.toNat % 16
  let b := ks.map fun k => o.datumOf o.w.b n k
  let pairs := ks.map fun k => (o.datumOf o.w.b n k, o.datumOf o.w.c n k)
  match i with
  | .atcas _ => (.cas n pairs, ks.zipIdx.map fun x => (x.1, .cas n (pairs.take x.2)))
  | _ => (.rmw op n ((combAll op n b).getD 0), ks.zipIdx.map fun x => (x.1, .comb op n (combAll op n (b.take x.2))))

/-- The near cache of a core without the lines of some writes (R252). -/
def nearWithout (near : List (Nat × Nat × List Byte)) (ws : List (Nat × Nat)) : List (Nat × Nat × List Byte) :=
  near.filter fun l => !(ws.any fun w => decide (w.1 / 128 ≤ l.1) && decide (l.1 ≤ (w.1 + w.2 - 1) / 128))

/-- Lane `k` of an accumulator word of `n` bytes meets none of the checks of R317, and reads no word with an error. -/
abbrev AccAt (s : State) (o : LaneOp) (n k : Nat) (writes : Bool) : Prop :=
  let a := o.g.place.accbase.toNat + (laneOff o k).toNat
  laneOff o k % n = 0 ∧ 0 ≤ laneOff o k ∧ laneOff o k + n ≤ (o.g.place.accsize.toNat : Int)
    ∧ (s.core o.g.place.core).locked o.g.place.ctx 1 a n writes = false
    ∧ (writes = false → a / 8 ∉ (s.core o.g.place.core).poisonA ∧ (a + n - 1) / 8 ∉ (s.core o.g.place.core).poisonA)

-- Channels (R226 to R228, R259 to R261).

/-- A `send` or `recv` names an end of channel `ch` of its team `t`, and meets the checks of R72 with the registers that the
slot takes. -/
abbrev ChannelRuns (s : State) (c : Cur) (g : Group) (i : Instr) (w : LaneW) (t : Team) (ch : Channel) : Prop :=
  let n := w.fn6.toNat % 16
  s.issuer = some (c, g) ∧ s.legal i = true ∧ s.team? g.place.team = some t ∧ t.channels[n]? = some ch
    ∧ ∃ p0, laneSpec i = some (w, p0) ∧
      match i with
      | .send _ =>
        let p := if ch.wide then { p0 with a := .w128 } else p0
        s.isEnd g ch.prodRole ch.prodGrp = true ∧ (ch.wide = true → SrcKind.w128.accepts w.a = true)
          ∧ beyondAllotment g.role.vregs (positions p w) = none ∧ g.ln.firstPending c.sup (positions p w) = none
          ∧ (laneOpOf c g w).firstBad p = none ∧ (laneOpOf c g w).oneBad p = []
      | .recv _ =>
        let p := if ch.wide then { p0 with d := .w128 } else p0
        s.isEnd g ch.consRole ch.consGrp = true ∧ (ch.wide = true → DstKind.w128.accepts w.d = true)
          ∧ beyondAllotment g.role.vregs (positions p w) = none ∧ g.ln.firstPending c.sup (positions p w) = none
          ∧ (laneOpOf c g w).firstBad p = none ∧ (laneOpOf c g w).oneBad p = []
      | _ => False

/-- The words of a slot, and where slot number `k` lies in the scratchpad (R158, R226). -/
def slotWords (ch : Channel) : Nat := if ch.wide then 4 else 1
def slotOf (t : Team) (ch : Channel) (k : Nat) : Nat := t.sxbase + ch.buffer / 8 * 8 + k % ch.slots * (128 * slotWords ch)

/-- The bytes that a `send` of the word `w` gives its slot: the registers of the active lanes, and zeros (R260). -/
def slotBytes (c : Cur) (g : Group) (w : LaneW) (ch : Channel) : List Byte :=
  (List.range (128 * slotWords ch)).map fun j => BitVec.ofNat 8
    ((if j / 4 % 32 ∈ (laneOpOf c g w).act then (g.ln.readV c.sup (w.a.toNat + j / 128) (j / 4 % 32)).toNat else 0) / 256 ^ (j % 4))

/-- A `send` of the word `w` has completed (R260, R293): the slot holds its bytes, the producer's count has advanced, the channel keeps
the send's data and releases where somebody may take them, and nothing else of memory and of the team has changed. -/
abbrev SendDone (s t : State) (c : Cur) (g : Group) (w : LaneW) (tm : Team) (ch : Channel) : Prop :=
  let bs := slotBytes c g w ch
  let base := slotOf tm ch ch.p
  t.group? g.uid = some ({ g with used := true }.laneDone c) ∧ OnlyGroup s t g.uid ∧ t.mem = s.mem ∧
    t.team? tm.uid = some { tm with channels := tm.channels.set (w.fn6.toNat % 16) { ch with
      p := ch.p + 1
      data := if ch.deaf then ch.data else ch.data ++ [(bs, s.sendSays g (w.fn6.getLsbD 4))] } } ∧
    (∀ n, (t.core n).acc = (s.core n).acc ∧ (n ≠ g.place.core → (t.core n).scratch = (s.core n).scratch)) ∧
    ∀ x, cellGet (t.core g.place.core).scratch x =
      if ch.deaf = false ∧ base ≤ x ∧ x < base + bs.length then bs.getD (x - base) 0
      else cellGet (s.core g.place.core).scratch x

/-- The lane masks with the active lanes' bits of mask `m` set to `x`; none for m = 0 (R261). -/
abbrev StatusWritten (g h : Group) (act : List Nat) (m : Nat) (x : Bool) : Prop :=
  h = { g with ln := { g.ln with m := h.ln.m } } ∧
    ∀ (j : Fin 8) (k : Nat), k < 32 → h.ln.m[j].getLsbD k = if j.val = m ∧ m ≠ 0 ∧ k ∈ act then x else g.ln.m[j].getLsbD k

/-- A `recv` of the word `w` has completed (R227, R261): with the words of the oldest send that is not taken under way to the active
lanes, or with nothing where the channel is closed and empty. -/
abbrev RecvDone (s t : State) (c : Cur) (g : Group) (w : LaneW) (tm : Team) (ch : Channel) : Prop :=
  let o := laneOpOf c g w
  let bs := match ch.data with
    | x :: _ => x.1
    | [] => memRead (s.core g.place.core).scratch (slotOf tm ch ch.c) (128 * slotWords ch)
  let value (i : Nat) : Nat := ((List.range (slotWords ch)).map fun r =>
    2 ^ (32 * r) * leNat ((bs.drop (128 * r + 4 * i)).take 4)).sum
  let ready : Bool := decide (ch.c < ch.p)
  ∃ h, StatusWritten g h o.act (w.md8.toNat % 8) ready ∧ OnlyGroup s t g.uid ∧ SameMemory s t ∧
    t.group? g.uid = some ((h.laneAwaiting c w.d.toNat (slotWords ch)
      (if ready then o.act.map fun i => pieceOf i (value i) else [])).laneDone c) ∧
    (ready = true → t.team? tm.uid = some { tm with channels := tm.channels.set (w.fn6.toNat % 16) { ch with
      c := ch.c + 1
      data := ch.data.drop 1 } }) ∧
    (ready = false → t.team? tm.uid = some tm)

-- Barriers (R265 to R270).

/-- The barrier word after `more` arrivals and the test of R267, and whether the phase completes. -/
def barAfter (killed more : Nat) (w : Nat) : Nat × Bool :=
  let expected := w % 2 ^ 16
  let arrived := w / 2 ^ 16 % 2 ^ 16 + more
  let phase := w / 2 ^ 32 % 2 ^ 16
  let ab := w / 2 ^ 48 % 2
  if arrived ≠ 0 ∧ expected ≤ killed + arrived then
    (2 ^ 48 * (if arrived < expected then 1 else ab) + 2 ^ 32 * ((phase + 1) % 2 ^ 16) + expected, true)
  else if more = 0 then (w, false)
  else (2 ^ 48 * ab + 2 ^ 32 * phase + 2 ^ 16 * (arrived % 2 ^ 16) + expected, false)

/-- The barrier word at `a` of a core's scratchpad. -/
def barNumber (s : State) (core a : Nat) : Nat := leNat (memRead (s.core core).scratch a 8)

/-- The group once the word at `a` has the value `w`: a member parked on an ended phase goes on with its result (R267). -/
def releasedBy (tm : Team) (a w : Nat) (h : Group) : Group :=
  match h.sc.wait with
  | .barWait d o phase arw =>
    if h.uid ∈ tm.members ∧ o = a ∧ phase ≠ w / 2 ^ 32 % 2 ^ 16 then
      { h with sc := { h.sc with
        wait := .barDone d (wordOf (2 ^ 32 * (phase % 2 ^ 16) + w / 2 ^ 48 % 2)) (tm.phaseScope a phase) arw } }
    else h
  | _ => h

/-- A `bar` word at the window offset `o` meets the checks of R266, and no access of its own comes before it. -/
abbrev BarAt (s : State) (g : Group) (o : Word) (tm : Team) : Prop :=
  InWindow s g o 8 true ∧ s.team? g.place.team = some tm ∧ tm.core = g.place.core
    ∧ s.barOrder g (g.place.sxbase.toNat + o.toNat) = true ∧ memWf (s.core g.place.core).scratch = true
    ∧ (g.place.sxbase.toNat + o.toNat) / 8 ∉ (s.core g.place.core).poisonS

/-- Of memory only the barrier word at `a` has changed, to `w`. -/
abbrev OnlyBarrier (s t : State) (core a w : Nat) : Prop :=
  t.mem = s.mem ∧ (∀ n, (t.core n).acc = (s.core n).acc ∧ (n ≠ core → (t.core n).scratch = (s.core n).scratch)) ∧
    ∀ x, cellGet (t.core core).scratch x =
      if a ≤ x ∧ x < a + 8 then BitVec.ofNat 8 (w / 256 ^ (x - a)) else cellGet (s.core core).scratch x

-- The matrix arrays (R299 to R321).

/-- Entry j of a gang word, and the words that `mgang` takes for a group (R299, R300). -/
def entryAt (x j : Nat) : Nat := x / 2 ^ (3 + 6 * j) % 64
abbrev GangWord (g : Group) (x : Nat) : Prop :=
  1 ≤ x % 8 ∧ x % 8 ≤ 6 ∧ (∀ j < 6, x % 8 ≤ j → entryAt x j = 0) ∧ x / 2 ^ 39 = 0
    ∧ (∀ j < x % 8, ∀ k < j, entryAt x j ≠ entryAt x k)
    ∧ ∃ j < x % 8, entryAt x j = 16 * (g.place.core % 4) + g.place.slot

/-- The words of an `mma` break no limit of R49 and R301 to R303, its share lies in the allotment and its regions lie in the
windows (R307). -/
abbrev MmaWordsOk (g : Group) (fb shape ow : Word) (w : MmaWords) : Prop :=
  1 ≤ w.count ∧ fb.toNat < 2 ^ 18 ∧ shape.toNat < 2 ^ 53 ∧ ow.toNat < 2 ^ 51
    ∧ pairLegal w.afmt w.bfmt = true ∧ (w.sa = false → w.ablk = 0 ∧ w.ascl = 0) ∧ (w.sb = false → w.bblk = 0 ∧ w.bscl = 0)
    ∧ 1 ≤ w.m ∧ w.m ≤ 64 ∧ 16 ≤ w.n ∧ w.n ≤ 512 ∧ w.n % (16 * w.count) = 0 ∧ w.k % 16 = 0 ∧ w.k ≤ 2048
    ∧ (w.sa = true → w.k % (16 * 2 ^ w.ablk) = 0) ∧ (w.sb = true → w.k % (16 * 2 ^ w.bblk) = 0)
    ∧ (w.k ≠ 0 → w.bbase + w.bRegs ≤ g.role.vregs)
    ∧ (w.aBytes = 0 ∨ 8 * w.aaddr + w.aBytes ≤ g.place.sxsize.toNat)
    ∧ (w.asclBytes = 0 ∨ 8 * w.ascl + w.asclBytes ≤ g.place.sxsize.toNat)
    ∧ (w.bsclBytes = 0 ∨ 8 * w.bscl + w.bsclBytes ≤ g.place.sxsize.toNat)
    ∧ 16 * w.accoff + w.tileBytes ≤ g.place.accsize.toNat

/-- A matrix operation of the group alone (R315, R316). -/
def matOpOf (s : State) (g : Group) (kind : MatKind) : MatOp :=
  ⟨s.sched.uid, g.origin (s.worldOf g) false g.sc.spc, g.seq, g.place.team, g.place.sxbase.toNat, g.place.accbase.toNat, true,
    none, none, kind⟩

/-- The matrix operations of a group that have been accepted and are not complete (R314). -/
def matCount (s : State) (u : Nat) : Nat := (s.mats.filter fun o => o.who.g == u && o.accepted).length

/-- The checksum registers once the parts that an `mwait` covers have been added (R318, R319): exact for integer parts, and by
the functions of Num.lean for the others. -/
abbrev Covered (g h : Group) : Prop :=
  h = { g with k := h.k, kacc := [] } ∧ h.k[0] = g.k[0] ∧ h.k[1] = g.k[1] ∧
    ((∀ c ∈ g.kacc, c.int = true) →
      h.k[2] = g.k[2] + (g.kacc.flatMap fun c => c.t2).sum ∧ h.k[3] = g.k[3] + (g.kacc.flatMap fun c => c.t3).sum)

/-- The bytes of a pool once `new` has replaced those of [lo, lo + length). -/
abbrev BytesAt (old new : Mem) (lo : Nat) (bs : List Byte) : Prop :=
  ∀ x, cellGet new x = if lo ≤ x ∧ x < lo + bs.length then bs.getD (x - lo) 0 else cellGet old x

-- Records and the copy engines (R160, R322 to R344).

/-- A record of `n` bytes at `va`, which lies on one page, is read whole: its page permits it, the accesses before it are
performed, its home's die is awake, no port refuses it, and its data is good (R25, R233, R279, R374, R412, R415). The read, one
indivisible act that finds what some prefix of the writes leaves (R281), gives the bytes `bs` and the state `t`. -/
abbrev RecordAt (s : State) (g : Group) (va : Word) (n : Nat) (t : State) (bs : List Byte) : Prop :=
  0 < n ∧ va.toNat % 8192 + n ≤ 8192 ∧ ∃ l, s.xlate g.place.core g.place.ctx g.sc.walked va = some (.leaf l)
    ∧ l.check .load (s.worldOf g) = none ∧ s.recordReady g [(l.phys va, n)] = true ∧ s.asleepAt (l.phys va) = false
    ∧ s.portRefuses g.die (s.worldOf g) (l.phys va) = false ∧ s.badIn (l.phys va) n = none
    ∧ (t, bs) = (s.nextFree).2.recordBytes g (s.scPage g.place.ctx va) [(l.phys va, n)]

/-- The state with `n` more free values taken and `k` more keys given (log entries 1 and 3). -/
def State.counted (s : State) (n k : Nat) : State :=
  { s with sched := { s.sched with free := s.sched.free + n, uid := s.sched.uid + k } }

/-- The forms of `cpy` and `coll`: the kind, sd, sa and the modifiers (R327, R340). -/
def cpyForm (i : Instr) : Option (Nat × BitVec 6 × BitVec 6 × Bool × Bool × Bool) :=
  match i with
  | .cpyG2s d a u x l => some (0, d, a, u, x, l)
  | .cpyS2g d a u x l => some (1, d, a, u, x, l)
  | .cpyGth d a u x l => some (2, d, a, u, x, l)
  | .cpySct d a u x l => some (3, d, a, u, x, l)
  | .cpyG2g d a u x l => some (4, d, a, u, x, l)
  | _ => none
def collForm (i : Instr) : Option (Nat × BitVec 6 × BitVec 6 × Bool × Nat) :=
  match i with
  | .collSum d a t sc => some (0, d, a, t, sc.toNat)
  | .collMax d a t sc => some (1, d, a, t, sc.toNat)
  | .collMin d a t sc => some (2, d, a, t, sc.toNat)
  | .collGather d a t sc => some (3, d, a, t, sc.toNat)
  | .collBcast d a t sc => some (4, d, a, t, sc.toNat)
  | _ => none

/-- An engine operation as the word at SPC issues it (R322). -/
def engOpOf (s : State) (g : Group) (d : BitVec 6) (kind : EngKind) : EngOp :=
  ⟨s.sched.uid, g.origin (s.worldOf g) false g.sc.spc, g.seq, g.sc.laneSeq, none, d.toNat, 0, g.place.sxbase.toNat,
    g.place.sxsize.toNat, 0, none, none, false, none, none, [], [], [], kind⟩

/-- The lowest token that is not outstanding in the order that starts after the last one taken (R322). -/
abbrev TokenFor (g : Group) (t : Nat) : Prop :=
  g.tokens.length = 16 ∧ t < 16 ∧ (g.token t).op = none ∧
    ∃ k, k < 16 ∧ t = (g.lastTok + 1 + k) % 16 ∧ ∀ j < k, (g.token ((g.lastTok + 1 + j) % 16)).op ≠ none

/-- No trap entry and no stop waits for the group. -/
abbrev Group.unhindered (g : Group) : Prop := g.sc.entry = none ∧ g.stop = none

/-- The completed tokens of a mask. -/
def doneTokens (g : Group) (m : Word) : List Nat := (List.range 16).filter fun t => m.getLsbD t && (g.token t).op.isNone

/-- The lines that the completed tokens of a mask wrote have left the near cache, the tokens have forgotten them, and the group's later
accesses see what the operations have seen and written (R219, R291). -/
def nearObserved (s : State) (g : Group) (m : Word) : State :=
  (s.setCore g.place.core { s.core g.place.core with near := (s.core g.place.core).near.filter fun l =>
    !((doneTokens g m).any fun t => (g.token t).wrote.contains l.1) }).learnAt g false false
      (joinAll ((doneTokens g m).flatMap fun t => (s.told (.token g.uid t)).map fun r => r.view)) []
abbrev Observed (g h : Group) (m : Word) : Prop :=
  h = { g with tokens := h.tokens } ∧ h.tokens.length = g.tokens.length ∧ ∀ t < 16,
    h.token t = if m.getLsbD t && (g.token t).op.isNone then { g.token t with wrote := [] } else g.token t

/-- Every byte of HBM and LPDDR as the requests of a world read it, once the cells have been written in their order, where memory
is in its canonical form; the cells are no part of a tensor or of the fatal-state dump. -/
abbrev OnlyCells (s t : State) (world : BitVec 4) (cells : List (Nat × Byte)) : Prop :=
  memWf s.mem.bytes = true → ∀ a, a < 0x40000000000 → t.physByte world a =
    match cells.reverse.find? fun p => p.1 == a with
    | some p => p.2
    | none => s.physByte world a
abbrev plainCells (s : State) (cells : List (Nat × Byte)) : Prop :=
  s.tramir.ranges = [] ∧ ∀ p ∈ cells, p.1 < 0x3FE00000000

/-- The engine word `i` has read its records, which leaves the state `t`, and they are valid; `kind` is what its operation does and
`base` the base of the view (R324 to R328, R332, R340). -/
abbrev EngineWord (s : State) (g : Group) (i : Instr) (d : BitVec 6) (kind : EngKind) (t : State) (base : Word) : Prop :=
  (∃ k a u x l s1 rb pb, cpyForm i = some (k, d, a, u, x, l) ∧ (g.getS a).toNat % 64 = 0 ∧
    RecordAt s g (g.getS a) 64 s1 rb ∧ (copyRec rb).shapep.toNat % 128 = 0 ∧
    RecordAt s1 g (copyRec rb).shapep 128 t pb ∧ copyValid k x u rb pb = true ∧
    (k = 4 ∨ ∀ r < copyRows k (copyRec rb) (shapeRec pb), (copyRec rb).xaddr.toNat + r * rowStep (copyRec rb) (shapeRec pb)
      + (shapeRec pb).rowBytes ≤ g.place.sxsize.toNat) ∧
    kind = .copy k x u l (copyRec rb) (shapeRec pb) ∧
    t.resolveView (engOpOf t g d kind) u x (shapeRec pb) = (base, none)) ∨
  (∃ k a int sc rb, collForm i = some (k, d, a, int, sc) ∧ (g.getS a).toNat % 64 = 0 ∧ RecordAt s g (g.getS a) 64 t rb ∧
    collValid k rb = true ∧ kind = .coll k sc (!int) (collRec rb) ∧ base = 0)

/-- Whether an operation is a collective. -/
def EngKind.isColl : EngKind → Bool
  | .coll _ _ _ _ => true
  | .copy _ _ _ _ _ _ => false

-- Plumb (R402 to R413).

/-- The Plumb write forms: the function, sd, sa and sb (R408). -/
def plumbForm (i : Instr) : Option (Nat × BitVec 6 × BitVec 6 × BitVec 6) :=
  match i with
  | .plst d a b => some (0, d, a, b)
  | .plamoAdd d a b => some (1, d, a, b)
  | .plamoMax d a b => some (2, d, a, b)
  | .plamoCas d a b => some (3, d, a, b)
  | _ => none

/-- New(fn, old, x, e) of R408. -/
def plumbValue (fn : Nat) (old x e : Word) : Word :=
  match fn with
  | 0 => x
  | 1 => wordOf (old.toNat + x.toNat)
  | 2 => if old.toInt < x.toInt then x else old
  | _ => if old = e then x else old

/-- The group with a deferred result of a unit under way (R17, R18). -/
def Group.expecting (g : Group) (reg id : Nat) : Group :=
  { g with sc := { g.sc with
    pend := if reg = 0 ∨ reg = 71 then g.sc.pend else g.sc.pend ||| (1#72 <<< reg)
    outst := g.sc.outst ++ [⟨reg, id, .ext 8 false, g.sc.spc, none, none, none⟩] } }

/-- Only die `d` differs between two states, of the dies, and no group but `u`. -/
abbrev OnlyDie (s t : State) (d : Nat) : Prop := ∀ e, e ≠ d → t.die e = s.die e

-- Counted tensors (R416 to R424).

/-- The exponent and the die of a handle; a malformed handle; the tensor ID (R418, R420). -/
def expOf (h : Word) : Nat := h.toNat / 2 ^ 40 % 2 ^ 6
def homeOf (h : Word) : Nat := h.toNat / 2 ^ 36 % 2 ^ 4
abbrev Malformed (h : Word) : Prop := 2 ^ 63 ≤ h.toNat ∨ expOf h = 63 ∨ h.toNat % 2 ^ 36 = 0

/-- The lowest FREE index of a die (R417). -/
abbrev LowestFree (d : Die) (i : Nat) : Prop :=
  1 ≤ i ∧ i < 2 ^ 36 ∧ (∀ t ∈ d.tensors, t.index ≠ i) ∧ ∀ j, 1 ≤ j → j < i → ∃ t ∈ d.tensors, t.index = j

/-- A handle by its fields (R418). -/
def handleWith (gen : BitVec 16) (ind : Bool) (e die index : Nat) : Word :=
  wordOf (2 ^ 47 * gen.toNat + (if ind then 2 ^ 46 else 0) + 2 ^ 40 * e + 2 ^ 36 * die + index)

/-- A creation record that R421 and R446 allow. -/
abbrev CreationOk (world : BitVec 4) (bs : List Byte) : Prop :=
  field bs 0x21 31 = 0 ∧ field bs 0x20 1 ≤ 2 ∧ (field bs 0x20 1 < 2 → field bs 0x18 8 = 0)
    ∧ (field bs 0x20 1 = 2 → field bs 0x18 8 ≠ 0)
    ∧ (field bs 0x20 1 ≠ 0 → world ≠ 0 ∧ field bs 8 8 % 128 = 0 ∧ field bs 0x10 8 % 128 = 0)

/-- A new entry of an issuer (R421). -/
def entryOf (g : Group) (world : BitVec 4) (i state : Nat) (shapep data bytes total parent : Word) : Tensor :=
  ⟨i, state, world, 0, g.place.ctx, shapep, data, bytes, if state = 1 then 1 else 0, 0, 0, total, 0, parent, 0⟩

-- Grids (R144, R155 to R170).

/-- The group may launch: its role has the launch right, or it is the conductor group (R160, R167). -/
abbrev MayLaunch (s : State) (g : Group) : Prop :=
  ∃ t, s.grid? g.place.grid = some t ∧ (t.conductor = true ∨ (t.lrec.role g.role.role).right = true)

/-- The channel declarations that a launch record names (R157, R160): none, or the bytes of a second record. -/
abbrev ChannelsOf (s : State) (g : Group) (b : List Byte) (t : State) (cb : List Byte) : Prop :=
  (field b 0x45 1 = 0 ∧ cb = [] ∧ t = s.counted 1 0) ∨
    (field b 0x45 1 ≠ 0 ∧ field b 0x50 8 % 16 = 0 ∧ RecordAt s g (word (field b 0x50 8)) (16 * field b 0x45 1) t cb)

/-- A status word (R165). -/
def statusOf (code reason nlog : Nat) : Word := wordOf (2 ^ 16 * min nlog 0xFFFF + 2 ^ 8 * reason + code)

/-- The near cache of a core empty, as an acquire at die scope or wider leaves it (R219). -/
def nearEmpty (s : State) (core : Nat) : State := s.setCore core { s.core core with near := [] }

/-- The waits of `rolesw` to the role `r` are over (R155). -/
abbrev RoleFits (s : State) (g : Group) (r : RoleRec) : Prop :=
  g.blocksOut = 0 ∧ g.sc.outst = [] ∧
    (r.vregs ≤ g.role.vregs ∨ (r.vregs - g.role.vregs) * 128 * s.copies g ≤ s.freeRegs g.place.core)

/-- The group in the role `n` (R155): the registers below both allotments keep their values, the others of the new allotment read
zero, the pending bits are clear, and a region it had open has ended. -/
abbrev InRole (g h : Group) (n : Nat) (r : RoleRec) : Prop :=
  h = { g with
    role := ⟨n, r.vregs, r.prio⟩
    idem := false
    snap := none
    sc := { g.sc with pend := 0, last := none }
    ln := { g.ln with v := h.ln.v, bad := h.ln.bad, badOne := h.ln.badOne, pend := 0, last := none } } ∧
  ∀ k, cellGet h.ln.v k = if k < 32 * min g.role.vregs r.vregs then cellGet g.ln.v k else 0

/-- The state in which the distributor scans: budgets applied, waiting finalisers launched and waiting records read (R454, R423,
R167). -/
def State.scanned (s : State) : State := s.applyBudgets.launchWaiting.readWaiting

/-- What a `gwait` or `gquery` of a complete grid acquires at pkg: the near cache empties, and the group's later accesses see what the
grid's groups have released (R163, R164, R219). -/
def gridObserved (s : State) (g : Group) (grid : Nat) : State :=
  (nearEmpty s g.place.core).acquires g false 4 (s.told (.grid grid))

/-- Grids but for their wait clocks, which start as dependences complete (R170). -/
def untimed (gs : List Grid) : List Grid := gs.map fun x => { x with since := none }

/-- Of the state, only the grids and what the end of one releases have changed, and of the grids only `x`, but for wait clocks. -/
abbrev OnlyGrid (s t : State) (x : Grid) : Prop :=
  t = { s with grids := t.grids, order := t.order } ∧ untimed t.grids = untimed (s.setGrid x).grids

/-- The instance serial after `n` more groups (R105): 0 is skipped. -/
def serialAfter : (n : Nat) → W32 → W32
  | 0, x => x
  | n + 1, x => serialAfter n (if x = 0xFFFFFFFF then 1 else x + 1)

/-- A group of a team as placement starts it (R29, R105, R144). -/
abbrev StartsAs (g : Group) (x : Grid) (k : Context) (core gid slot : Nat) (serial : W32) (sx acc : Nat) : Prop :=
  let n := x.lrec.roleAt gid
  let r := x.lrec.role n
  g.sc = Scalar.start (x.lrec.entry + word r.entryOff) ∧ g.ln = Lanes.start ∧ g.role = ⟨n, r.vregs, r.prio⟩ ∧
    g.life = .resident ∧ g.idem = false ∧ g.gang = 0 ∧ g.fflags = 0 ∧ g.k = Vector.replicate 4 0 ∧ g.cnt = ⟨0, 0, 0, 0⟩ ∧
    g.dm = List.replicate 8 Datum.clear ∧
    g.sr = ⟨wordOf (k.spec.trapBase.toNat / 4096 * 4096), k.spec.laneEntry, 0, 0, 0, 0, 0, Vector.replicate 4 0⟩ ∧
    g.place.core = core ∧ g.place.slot = slot ∧ g.place.gid = word gid ∧ g.place.gser = serial ∧
    g.place.tidx = wordOf (x.placed % x.lrec.gx + 2 ^ 16 * (x.placed / x.lrec.gx % x.lrec.gy)
      + 2 ^ 32 * (x.placed / (x.lrec.gx * x.lrec.gy))) ∧
    g.place.ngrp = word x.lrec.groups ∧ g.place.lcb = x.lrec.lcb ∧ g.place.args = x.lrec.argp ∧ g.place.sxbase = word sx ∧
    g.place.sxsize = word x.lrec.sxbytes ∧ g.place.accbase = word acc ∧ g.place.accsize = word x.lrec.accbytes ∧
    g.place.eclass = word x.lrec.eclass

/-- Every group, write, operation and return of a grid is gone (R163). -/
abbrev GridGone (s : State) (x : Grid) : Prop :=
  (∀ t ∈ s.teams, t.grid ≠ x.uid) ∧ (∀ g ∈ s.groups, g.place.grid ≠ x.uid) ∧ (∀ o ∈ s.mats, o.who.grid ≠ x.uid) ∧
    (∀ o ∈ s.engs, o.who.grid ≠ x.uid) ∧ (∀ r ∈ s.allReqs, r.who.grid ≠ x.uid) ∧ (∀ r ∈ s.arrivals, r.who.grid ≠ x.uid) ∧
    (∀ r ∈ s.returns, r.posted = false → r.who.grid ≠ x.uid) ∧ (∀ r ∈ s.reports, r.who.grid ≠ x.uid) ∧
    (∀ r ∈ s.outb, ∀ o, r.who = some o → o.grid ≠ x.uid) ∧
    ∀ d ∈ s.dies, (∀ r ∈ d.2.port ++ d.2.portWait, ∀ o, r.who = some o → o.grid ≠ x.uid) ∧
      ∀ y, d.2.resync = some y → ∀ e ∈ y.buffer, ∀ o, e.2.who = some o → o.grid ≠ x.uid

-- Trigger units and seals (R377 to R399, R449 to R451).

/-- The control word of `tarm` and `tdisarm` (R398): the unit and the automaton. -/
def unitNamed (g : Group) (x : Word) : Nat := if x.toNat / 4 % 2 = 1 then 16 else g.place.core / 128
def autoNamed (x : Word) : Nat := x.toNat % 4

/-- A unit has its four automata, none of which is being disarmed. -/
abbrev UnitCalm (u : TrigUnit) : Prop :=
  u.autos.length = 4 ∧ ∀ x, some x ∈ u.autos →
    x.ending = none ∧ x.cn.length = 4 ∧ x.cap.length = 4 ∧ x.tm.length = 2

/-- Field [hi:lo] of a row (R390). -/
def rowAt (r hi lo : Nat) : Nat := r / 2 ^ lo % 2 ^ (hi - lo + 1)

/-- What a row does to an automaton that takes an event of stamp `t` (R390 to R392). -/
abbrev RowTaken (x y : Automaton) (r t : Nat) (e : TEvent) : Prop :=
  y = { x with state := rowAt r 7 4, cn := y.cn, tm := y.tm, cap := y.cap } ∧ y.cn.length = 4 ∧ y.tm.length = 2 ∧ y.cap.length = 4 ∧
    (∀ k < 4, (y.cn.getD k 0).toNat =
      let c := (x.cn.getD k 0).toNat
      if k = rowAt r 49 48 then
        (match rowAt r 51 50 with | 0 => c | 1 => min (c + 1) 0xFFFFFFFF | 2 => 0 | _ => c - 1)
      else c) ∧
    (∀ j < 2, y.tm.getD j none =
      if j = rowAt r 52 52 then
        (match rowAt r 54 53 with | 1 => some (t + rowAt r 95 64) | 2 => none | _ => x.tm.getD j none)
      else x.tm.getD j none) ∧
    ∀ k < 4, y.cap.getD k 0 =
      if k = rowAt r 56 55 then
        (match rowAt r 58 57 with
        | 1 => wordOf (2 ^ 32 * (t % 2 ^ 32) + e.payload.toNat)
        | 2 => wordOf (2 ^ 48 * e.cls.toNat + 2 ^ 32 * e.src.toNat + 2 ^ 16 * e.tag.toNat)
        | _ => x.cap.getD k 0)
      else x.cap.getD k 0

/-- R391: an automaton after an event of stamp `t` that leads it to no accepting state; LOSTORD is R387's. -/
abbrev Stepped (x y : Automaton) (e : TEvent) (t : Nat) (timer : Option Nat) : Prop :=
  let x := { x with lostord := x.lostord || e.cls == 0x19 }
  match rowFor x e timer with
  | none => y = x
  | some r => RowTaken x y r t e ∧ (tabAccMask x.table).testBit (rowAt r 7 4) = false

/-- An access of `n` bytes at `va` from die `die`, 16 for the floor die, that no stream makes lies on one page of the context, which
permits it; the dies of the page's tables and of its home are awake, and the home's die does not refuse it (R233, R412, R415). `pa` is
its place. Its data is good (R374). -/
abbrev PageAt (s : State) (die ctx : Nat) (world : BitVec 4) (acc : Acc) (va : Word) (n pa : Nat) : Prop :=
  va.toNat % 8192 + n ≤ 8192 ∧ s.tablesAsleep ctx va = false ∧ ∃ q, s.walk ctx va = .leaf q ∧ q.check acc world = none ∧
    pa = q.phys va ∧ s.asleepAt pa = false ∧ s.portRefuses die world pa = false ∧ s.tramir.ranges = [] ∧ pa + n ≤ 0x3FE00000000
abbrev goodData (s : State) (pa n : Nat) : Prop := ∀ i < n, (pa + i) / 128 ∉ s.mem.poison

/-- A seal that a group holds (R449). -/
abbrev Holds (s : State) (g : Group) (n : Word) (l : Seal) : Prop :=
  s.tramir.seals.find? (fun l => l.n == n.toNat && l.g == g.uid) = some l

/-- The lowest seal that is not open (R449). -/
abbrev LowestSeal (s : State) (n : Nat) : Prop :=
  n < 256 ∧ (∀ l ∈ s.tramir.seals, l.n ≠ n) ∧ ∀ m < n, ∃ l ∈ s.tramir.seals, l.n = m

-- Steps of a group's streams.

/-- The group as a step about it finds it, with its scalar stream in a wait that no trap entry and no stop interrupts. -/
abbrev Waits (s : State) (g : Group) (w : ScalarWait) : Prop :=
  s.group? g.uid = some g ∧ g.life = .resident ∧ g.unhindered ∧ g.sc.wait = w

/-- The lanes of the fragments that `p` names. -/
def lanesWhere (fs : List Frag) (p : Frag → Bool) : BitVec 32 :=
  BitVec.ofNat 32 (numberOf 32 fun k => fs.any fun f => p f && f.lanes.getLsbD k)

/-- A cause can be entered now, but for the wait of the scalar stream (R26, R351, R358). -/
abbrev EntryReady (s : State) (g : Group) (cause : Nat) : Prop :=
  s.group? g.uid = some g ∧ g.life = .resident ∧ g.stop = none ∧ g.sc.wait.binding = false ∧ g.sc.outst = [] ∧ g.ln.outst = [] ∧
    g.ln.wait.binding = false ∧ cause < 256 ∧ 4096 ≤ g.sr.tvb.toNat ∧ s.fetchFails g (handlerOf g.sr.tvb cause) = some false

/-- Requests at the places of a core's store order that follow `n`. -/
def placedFrom (n : Nat) : List MemReq → List MemReq
  | [] => []
  | r :: t => { r with cso := n + 1 } :: placedFrom (n + 1) t

/-- The core's order of requests is that of `s` with the queued writes of the group behind it (R278, R296). -/
abbrev QueueFlushed (s t : State) (g : Group) : Prop :=
  (t.core g.place.core).reqs = (s.core g.place.core).reqs ++ placedFrom s.order.drains g.sq ∧ ∀ n, n ≠ g.place.core → t.core n = s.core n

/-- What the end of a group does to a channel of its team (R228): `role0` gives the first group index of a role. -/
def channelAfter (role0 : Nat → Nat) (g : Group) (c : Channel) : Channel :=
  { c with
    closed := c.closed || decide (g.place.gid.toNat = role0 c.prodRole + c.prodGrp)
    deaf := c.deaf || decide (g.place.gid.toNat = role0 c.consRole + c.consGrp) }

-- Requests at their homes, walks and removals (R89, R222, R231, R236, R242, R246).

/-- The core's order without the requests of an identity. -/
def withoutReq (s : State) (core id : Nat) : List MemReq := (s.core core).reqs.filter fun q => q.id != id

/-- The new value of a read-modify-write and what a compare-and-swap of one pair leaves (R95, R96). -/
def newValue (op : MemOp) (old : Nat) : Nat :=
  match op with
  | .rmw k n x => combNumber k n old x
  | .cas _ ps => ps.foldl (fun v p => if v = p.1 then p.2 else v) old
  | _ => old

/-- The group with the value `x` returned to the results that wait for request `id`. -/
def Group.returned (g : Group) (id x : Nat) : Group :=
  { g with
    sc := { g.sc with outst := g.sc.outst.map fun q =>
      if q.src = id then { q with value := some (wordOf x), poison := none, integ := none } else q }
    ln := { g.ln with outst := g.ln.outst.map fun q => { q with pieces := q.pieces.map fun p =>
      if p.src = id then { p with value := some (BitVec.ofNat 128 x), poison := none, integ := none } else p } } }

/-- Request `k` of a core's order may act now (R222), and is `r`. -/
abbrev ActsNow (s : State) (core k : Nat) (r : MemReq) : Prop :=
  (s.core core).reqs[k]? = some r ∧ s.mayAct core ((s.core core).reqs.take k) r = true

/-- What a read of bytes that are `now` finds: what their granule held before some of its newest writes, of those stamped after `bound`
(R281, R289). -/
abbrev PastRead (s : State) (loc bound : Nat) (now bs : List Byte) : Prop :=
  let ws := s.order.unseen (loc / 8) bound
  ∃ k, k ≤ ws.length ∧ bs = unseenBytes (ws.take k) loc now

/-- The bytes of a store, or of the new value of an atomic that finds `old`. -/
def storedBytes (op : MemOp) (old : Nat) : List Byte :=
  match op with
  | .store d => d
  | .rmw _ n _ | .cas n _ => (List.range n).map fun i => BitVec.ofNat 8 (newValue op old / 256 ^ i)
  | _ => []

/-- The operands of an atomic lie in its width (R95, R254). -/
abbrev OperandsFit (op : MemOp) : Prop :=
  match op with
  | .rmw k n x => (n = 4 ∨ n = 8) ∧ x < 2 ^ (8 * n) ∧ k ≤ 9 ∧ (k = 9 → n = 4)
  | .cas n ps => (n = 4 ∨ n = 8) ∧ ∀ p ∈ ps, p.1 < 2 ^ (8 * n) ∧ p.2 < 2 ^ (8 * n)
  | _ => True

/-- The walk `x` of a stream of the group, as a step about it names it; and the group with that walk in another state, and with
the walk ended for the word that waits (R231). -/
abbrev WalkAt (s : State) (w : Walker) (g : Group) (x : Walk) : Prop :=
  s.group? g.uid = some g ∧ ((w = .scalar g.uid ∧ g.sc.wait = .walk x) ∨ (w = .lane g.uid ∧ g.ln.wait = .walk x))
def Group.walking (g : Group) (w : Walker) (x : Walk) : Group :=
  match w with
  | .lane _ => { g with ln := { g.ln with wait := .walk x } }
  | _ => { g with sc := { g.sc with wait := .walk x } }
def Group.walkDone (g : Group) (w : Walker) (va : Word) (r : WalkEnd) : Group :=
  let p := (va.toNat % 2 ^ 53 / 8192, r)
  match w with
  | .lane _ => { g with ln := { g.ln with wait := .ready, walked := g.ln.walked ++ [p] } }
  | _ => { g with sc := { g.sc with wait := .ready, walked := g.sc.walked ++ [p] } }

/-- A TLB of `n` entries once it holds one more: the oldest entry leaves a full one (R233). -/
def tlbWith (n : Nat) (l : List TlbEntry) (e : TlbEntry) : List TlbEntry :=
  (if l.length < n then l else l.drop (l.length + 1 - n)) ++ [e]

/-- The TLB of a core and that of its die hold a translation (R233). -/
def State.holding (s : State) (core ctx : Nat) (l : Leaf) : State :=
  let d := s.die (core / 128)
  (s.setCore core { s.core core with tlb := tlbWith 64 (s.core core).tlb ⟨ctx, l⟩ }).setDie (core / 128)
    (if l.size < 2 ^ 33 then { d with tlb := tlbWith 16384 d.tlb ⟨ctx, l⟩ }
     else { d with tlbBig := tlbWith 64 d.tlbBig ⟨ctx, l⟩ })

/-- A removal of `dtlbi` reaches a translation of a context over `len` bytes from `lo` (R242). -/
def removes (va x : Word) (ctx lo len : Nat) : Bool :=
  let size := 8192 * 2 ^ min 40 (x.toNat / 2 ^ 18 % 64)
  let base := va.toNat % 2 ^ 53 / size * size
  (x.getLsbD 16 || decide (ctx = x.toNat % 2 ^ 16)) && (x.getLsbD 17 || (decide (base < lo + len) && decide (lo < base + size)))

-- The supervisor's control of groups (R359 to R372).

/-- A write of GCTL of a die names the group (R361): no operation of the die is busy, and CTX, CORE and SLOT are the group's. -/
abbrev Named (s : State) (die : Nat) (v : Word) (g : Group) : Prop :=
  let at_ (h : Group) : Prop := h.place.core = 128 * die + v.toNat / 2 ^ 4 % 2 ^ 7 ∧ h.place.slot = v.toNat % 2 ^ 4 ∧
    h.place.ctx = v.toNat / 2 ^ 32 % 2 ^ 16
  die < 16 ∧ (s.die die).busy = none ∧ s.group? g.uid = some g ∧ g.isResident = true ∧ at_ g ∧
    ∀ h ∈ s.groups, h.isResident = true → at_ h → h = g

/-- GCTL after a write of `v`, with STAT, and the group whose operation keeps it busy. -/
def State.gctlAs (s : State) (die : Nat) (v : Word) (stat : Nat) (busy : Option Nat) : State :=
  s.setDie die { s.die die with
    gctl := wordOf (v.toNat % 2 ^ 11 + 2 ^ 24 * stat + 2 ^ 28 * (v.toNat / 2 ^ 28 % 2 ^ 20))
    busy := busy }

/-- The words, or the gang issues, that a group issued after what the skids of its stop count from (R360, R394). -/
def Group.issuedSince (g : Group) (lane : Bool) (since : SkidFrom) : Nat :=
  (g.trail.filter fun x => x.1 == lane && match since with
    | .stamp n => decide (n < x.2.1)
    | .clock n => decide (n < x.2.2)).length

/-- What a stop record says of the group that stopped (R360, R394), by its bytes. -/
abbrev StopRecordOf (s : State) (g : Group) (cause : Nat) (since : SkidFrom) (lost : Bool) (bs : List Byte) : Prop :=
  bs.length = 256 ∧ field bs 0x00 8 = (((s.grid? g.place.grid).map fun (t : Grid) => t.handle).getD 0).toNat ∧
    field bs 0x08 8 = g.place.tidx.toNat ∧ field bs 0x10 4 = g.place.gser.toNat ∧ field bs 0x14 1 = g.place.gid.toNat % 2 ^ 8 ∧
    field bs 0x15 1 = cause ∧ field bs 0x16 1 = g.issuedSince false since % 2 ^ 8 ∧
    field bs 0x17 1 = g.issuedSince true since % 2 ^ 8 ∧ field bs 0x18 8 = g.sc.spc.toNat ∧
    field bs 0x20 8 = (s.meridian g.die).toNat ∧ field bs 0x28 8 = g.sr.tval.toNat ∧ field bs 0x30 8 = g.sr.tpc.toNat ∧
    field bs 0x38 4 = (if g.sc.sup then 2 else 0) + (if g.entered = some s.clk.clock then 4 else 0) +
      (if g.ln.frozen then 8 else 0) + (if lost then 16 else 0) + (match g.sc.wait with
        | .ready | .stall _ | .walk _ | .lrun _ => 0
        | _ => 32) ∧
    field bs 0x3C 4 = g.sr.tcause.toNat % 2 ^ 32 ∧
    (∀ i < 32, field bs (0x40 + 4 * i) 4 = match g.ln.frags.find? fun f => f.lanes.getLsbD i with
      | some f => f.lpc.toNat
      | none => 0xFFFFFFFF) ∧
    field bs 0xC0 4 = (lanesWhere g.ln.frags fun _ => true).toNat ∧
    field bs 0xC4 4 = (lanesWhere g.ln.frags fun f => f.sup).toNat ∧
    field bs 0xC8 4 = (lanesWhere g.ln.frags fun f => f.st != .ready).toNat ∧
    field bs 0xCC 4 = ((if g.ln.frozen then 32 else 0) + (if g.ln.cur = none then 0 else 16) + g.ln.queue.length) % 2 ^ 32 ∧
    field bs 0xD0 48 = 0

/-- The stop area of the context has a page under the record of the group's core and slot (R360): `pa` is its place. -/
abbrev StopPlace (s : State) (g : Group) (x : Context) (pa : Nat) : Prop :=
  let va := wordOf (x.spec.stopBase.toNat + 256 * (16 * g.place.core + g.place.slot))
  s.ctx? g.place.ctx = some x ∧ x.ending = false ∧ x.spec.prot = false ∧ va.toNat % 256 = 0 ∧
    PageAt s (g.place.core / 128) g.place.ctx x.spec.world .store va 256 pa

/-- An eviction has reached the group in clock `now` (R362, R367): issue stops, or one more scalar word comes first while it is
stopped or in trap entry, the clock of its completion included. An eviction that is under way goes on. -/
def Group.evictionReaches (g : Group) (now : Nat) : Group :=
  match g.evicting with
  | some _ => g
  | none => { g with evicting := some (decide (g.life ≠ .resident) || g.sc.entry.isSome || g.coming.isSome ||
      g.stop.isSome || decide (g.entered = some now)) }

/-- The group saved by its eviction (R367, R368): an access or a word that waits to issue is withdrawn. -/
def Group.saved (g : Group) (order : Nat) : Group :=
  { g with
    life := .evicted
    evict := some order
    evicting := none
    sc := (match g.sc.wait with
      | .walk _ | .stall _ => { g.sc with wait := .ready, walked := [] }
      | _ => g.sc)
    ln := (match g.ln.wait with
      | .walk _ | .stall _ => { g.ln with wait := .ready, walked := [] }
      | _ => g.ln) }

/-- What an entry of the context fault log says of the operation that an origin names (R364), by its bytes. -/
abbrev LogEntryOf (s : State) (kind cause src : Nat) (o : Origin) (pc addr : Word) (bs : List Byte) : Prop :=
  bs.length = 64 ∧ field bs 0x00 1 = kind ∧ field bs 0x01 1 = cause ∧ field bs 0x02 1 = src ∧ field bs 0x03 1 = 0 ∧
    field bs 0x04 4 = o.gser.toNat ∧ field bs 0x08 8 = (((s.grid? o.grid).map fun (t : Grid) => t.handle).getD 0).toNat ∧
    field bs 0x10 8 = o.tidx.toNat ∧ field bs 0x18 2 = o.gid.toNat % 2 ^ 16 ∧ field bs 0x1A 6 = 0 ∧ field bs 0x20 8 = pc.toNat ∧
    field bs 0x28 8 = addr.toNat ∧ field bs 0x30 8 = (s.meridian (o.core / 128)).toNat ∧ field bs 0x38 8 = 0

/-- The log of the context has room and a page under its next entry (R364, R434): `pa` is its place. -/
abbrev LogPlace (s : State) (o : Origin) (x : Context) (pa : Nat) : Prop :=
  let va := wordOf (x.spec.logBase.toNat + 64 * (x.logw.toNat % x.spec.logSize))
  s.ctx? o.ctx = some x ∧ x.spec.prot = false ∧ 0 < x.spec.logSize ∧ (x.logw - x.logr).toNat ≠ x.spec.logSize ∧
    va.toNat % 64 = 0 ∧ PageAt s (o.core / 128) o.ctx x.spec.world .store va 64 pa ∧ goodData s pa 64 ∧
    ∀ j ∈ s.jobs, ∀ d bs, j.act ≠ .logEntry o.ctx d bs

-- Errors (R374, R375).

/-- A sector of HBM or LPDDR (R220, R374). -/
abbrev Sector (n : Nat) : Prop := 128 * n + 128 ≤ 2 ^ 40 ∨ (2 ^ 41 ≤ 128 * n ∧ 128 * n + 128 ≤ 2 ^ 42)

/-- What the grazer's read of a sector comes to, after `tries` lost races (R375): an error that cannot be corrected is reported; else
there is nothing to do, or the write-back of a correction is to come. No byte changes. -/
abbrev GrazerReads (s : State) (n tries : Nat) (o : Out) : Prop :=
  let idle (l : List (Nat × Nat × Bool)) : State := { s with mem := { s.mem with
    retry := s.mem.retry.filter fun r => r.1 != n
    visits := s.mem.visits.filter (fun v => v.1 != n) ++ l } }
  if n ∈ s.mem.poison then o = .next ((idle []).emitError (sectorReport (128 * n)) false noCtx)
  else o = .next ((idle []).counted 1 0) ∨ o = .next ((idle [(n, tries, false)]).counted 1 0)

-- The host and the fabric (R167, R433 to R442).

/-- A message to the outside. -/
def State.said (s : State) (m : OutMsg) : State := { s with out := s.out ++ [m] }

/-- No earlier request of the host waits (R294, R435). -/
abbrev HostTurn (s : State) : Prop := ∀ j ∈ s.jobs, j.act.isHost = false

/-- The parts of a range that lie in one line each, as offsets and lengths (R435). -/
def lineParts (addr n : Nat) : List (Nat × Nat) :=
  if n = 0 then []
  else (List.range ((addr + n - 1) / 128 + 1 - addr / 128)).map fun k =>
    let lo := max addr (128 * (addr / 128 + k))
    (lo - addr, min (addr + n) (128 * (addr / 128 + k + 1)) - lo)

/-- The words of a context control page (R434). -/
def pageWord (s : State) (c : Context) (k : Nat) : Nat :=
  match k with
  | 1 => match c.cond with
    | none => 0xFD
    | some u => match s.grid? u with
      | some y => (y.status.getD 0xFF).toNat
      | none => 0xFF
  | 2 => c.spec.logBase.toNat
  | 3 => c.spec.logSize
  | 4 => c.logw.toNat
  | 5 => c.logr.toNat
  | 6 => c.spec.world.toNat
  | 7 => (if c.spec.xcompat then 1 else 0) + (if c.spec.prot then 2 else 0)
  | _ => 0

/-- A record that START or a finaliser names is read whole (R160, R167). -/
abbrev DeviceRecord (s : State) (ctx : Nat) (world : BitVec 4) (va : Word) (b cb : List Byte) : Prop :=
  (∃ pa, va.toNat % 128 = 0 ∧ PageAt s 16 ctx world .load va 128 pa ∧ goodData s pa 128 ∧ b = s.physRead world pa 128) ∧
    ((field b 0x45 1 = 0 ∧ cb = []) ∨
      (∃ pa, field b 0x45 1 ≠ 0 ∧ field b 0x50 8 % 16 = 0 ∧
        PageAt s 16 ctx world .load (word (field b 0x50 8)) (16 * field b 0x45 1) pa ∧ goodData s pa (16 * field b 0x45 1) ∧
        cb = s.physRead world pa (16 * field b 0x45 1)))

/-- The bytes that a fabric request touches, the right it needs and the kind of access (R440). -/
def requestBytes (op : FabricOp) : Nat :=
  match op with
  | .load n => n
  | .store d => d.length
  | .atomic _ w _ | .compareSwap w _ _ | .reduction _ w _ => if w then 8 else 4
  | .fenceSequence | .fetchTranslation | .invalidated => 0
def requestRight (op : FabricOp) : Nat :=
  match op with
  | .load _ => 1
  | .store _ => 2
  | .fenceSequence | .fetchTranslation | .invalidated => 0
  | _ => 3
def requestAcc (op : FabricOp) : Acc :=
  match op with
  | .load _ | .fenceSequence | .fetchTranslation | .invalidated => .load
  | .store _ => .store
  | _ => .atomic

/-- The token of a request is good: its MAC matches under a generation kept, and it has not expired (R440 steps 1 and 2). -/
abbrev TokenGood (s : State) (r : FabricRequest) : Prop :=
  let kgen : BitVec 4 := BitVec.ofNat 4 (r.token.toNat / 2 ^ 28)
  (kgen = s.fabric.grantGen ∨ kgen = s.fabric.grantGen - 1) ∧
    (Config.grantMac kgen (BitVec.ofNat 32 r.token.toNat) r.source r.srcCtx).toNat = r.token.toNat / 2 ^ 32 ∧
    (r.token.toNat / 2 ^ 14 % 2 ^ 14 + 2 ^ 14 - s.clk.tick * 8 / 9 / 2 ^ 20 % 2 ^ 14) % 2 ^ 14 < 2 ^ 13

/-- A grant entry admits a request (R440 steps 3 to 5); in compatibility mode a request carries no token, and the entry alone bounds
it (R442, log entry 26). -/
abbrev EntryAdmits (r : FabricRequest) (e : List Byte) : Prop :=
  field e 0x0F 1 % 2 = 1 ∧ (r.compat = true ∨ r.token.toNat % 2 ^ 12 = r.region.toNat) ∧
    requestRight r.op ≤ field e 0x0E 1 % 2 ^ 2 ∧ (r.compat = true ∨ requestRight r.op ≤ r.token.toNat / 2 ^ 12 % 2 ^ 2) ∧
    r.offset.toNat + requestBytes r.op ≤ field e 0x08 4

/-- The packet that carries an outbound access of a context again (R437, R438, R441). -/
def packetOf (ctx : Nat) (o : Outbound) : OutMsg :=
  .fabricPacket ⟨Config.planeOfLine (o.pa / 128) % 32, o.pa / 2 ^ 42 % 2 ^ 9, o.pa / 2 ^ 30 % 2 ^ 12, Config.moduleNumber, ctx,
    o.seqno, o.token, [(o.pa % 2 ^ 30, o.kind)]⟩

/-- A request has no earlier answer and no fence stands against it (R441, R442). -/
abbrev Unanswered (s : State) (r : FabricRequest) : Prop :=
  (∀ x ∈ s.fabric.answered, ¬ (x.1 = r.source ∧ x.2.1 = r.srcCtx ∧ x.2.2.1 = r.sequence)) ∧ r.source ∉ s.fabric.fenced ∧
    (r.source, r.srcCtx, r.sequence) ∉ s.fabric.fencedSeq

/-- What an admitted request leaves in its bytes, which hold `old`, and the answer (R440). -/
def requestStores (op : FabricOp) (old : Nat) : List Byte :=
  let n := requestBytes op
  let at_ (x : Nat) : List Byte := (List.range n).map fun i => BitVec.ofNat 8 (x / 256 ^ i)
  match op with
  | .store d => d
  | .atomic k _ x | .reduction k _ x => at_ (combNumber k.toNat n old (x.toNat % 2 ^ (8 * n)))
  | .compareSwap _ e x => at_ (if old = e.toNat % 2 ^ (8 * n) then x.toNat % 2 ^ (8 * n) else old)
  | _ => at_ old
def requestAnswer (op : FabricOp) (bs : List Byte) : FabricAnswer :=
  match op with
  | .store _ | .reduction _ _ _ | .fenceSequence | .fetchTranslation | .invalidated => .done
  | _ => .value bs

-- What a step runs (R14, R25, R65, R72, R159).

/-- The byte at each of `n` addresses, in little-endian order, is that of a number (R4, R22). -/
abbrev BytesHold (s : State) (world : BitVec 4) (a n x : Nat) : Prop :=
  ∀ k < n, s.physByte world (a + k) = BitVec.ofNat 8 (x / 256 ^ k)

/-- The fetch of 32 bits at a virtual address gives `x`: the address is translated, its page may be executed by the group's world, its
home's die is awake, the port takes the access, and `x` is the value that the fetch finds (R15). -/
abbrev FetchesAt (s : State) (g : Group) (walked : List (Nat × WalkEnd)) (va : Word) (x : Nat) : Prop :=
  ∃ l : Leaf, s.xlate g.place.core g.place.ctx walked va = some (.leaf l) ∧ l.check .fetch (s.worldOf g) = none ∧
    s.asleepAt (l.phys va) = false ∧ s.portRefuses g.die (s.worldOf g) (l.phys va) = false ∧ s.fetchWord g (l.phys va) = x

/-- The module issues, the next step is choice `k` of a partition of a core, whose choice of this clock is not yet made, and group
`g` is the one it takes (R159); a lane word leaves the way to its group's scalar word of the clock (R352). -/
abbrev Chosen (s : State) (core part : Nat) (lane : Bool) (g : Group) : Prop :=
  let u := s.advance
  s.sched.turn = (if lane then .lane core part else .scalar core part) ∧ s.clk.fenced = false ∧
    s.mayIssue core (2 * part + if lane then 1 else 0) = true ∧
    if lane then u.choose core part (u.laneReady exec) (fun g => g.ln.last) = some g ∧ u.scalarFirst exec core part g = false
    else u.choose core part (u.scalarReady exec) (fun g => g.sc.last) = some g

/-- The state as a choice of a partition has been made: the next agent is named, the choice is noted and the group has issued. -/
def State.choiceMade (s : State) (core k : Nat) (g : Group) : State :=
  let c := s.core core
  let s : State := { s with
    sched := { s.sched with turn := Config.nextTurn s.sched.turns, turns := s.sched.turns + 1 }
    cores := put s.cores core { c with issued := put c.issued k (s.clk.clock + 1) } }
  s.setGroup g

/-- TRAP is emitted of an entry whose vector's fetch was open, now that the fetch has not failed (R358, R380). -/
def State.vectorSaid (s : State) (g : Group) : State :=
  if g.sc.vector.any fun v => v.due then
    s.emitG g 0x0A (g.sr.tcause.toNat % 256 + if g.sr.tcause.getLsbD 9 then 256 else 0) (g.sr.tpc.toNat % 2 ^ 32)
  else s

/-- The state in which a word is executed: the step names the group, the hold bit and, for a lane word, the gang. -/
def State.executing (s : State) (c : Cur) : State := { s with sched := { s.sched with cur := some c } }

/-- A group whose scalar stream issues at the clock `n`. An eviction that waited for a word begins, but not before a stop that is on its
way (R362). -/
def Group.issuing (g : Group) (n : Nat) : Group :=
  { g with
    sc := { g.sc with wait := .ready, last := some n }
    evicting := if g.coming = none then g.evicting.map fun _ => false else g.evicting }

/-- A group whose lane unit issues at the clock `n` for the fragments at an LPC in a mode: those have waited for nothing, unless the
word has to wait, and every other ready fragment for one opportunity more (R150). -/
def Group.laneIssuing (g : Group) (frags : List Frag) (sup : Bool) (lpc : BitVec 32) (n : Nat) : Group :=
  { g with ln := { g.ln with
    frags := frags.map fun f =>
      if f.st = .ready then
        (if f.sup = sup ∧ f.lpc = lpc then { f with waited := 0, prior := f.waited + 1 } else { f with waited := f.waited + 1 })
      else f
    wait := .ready
    last := some n } }

/-- The lanes of the fragments that stand ready at an LPC in a mode. -/
def gangLanes (fs : List Frag) (sup : Bool) (lpc : BitVec 32) : BitVec 32 :=
  (fs.filter fun f => f.st == .ready && f.sup == sup && f.lpc == lpc).foldl (fun m f => m ||| f.lanes) 0

/-- The stores of a core are canonical. -/
def Core.wf (c : Core) : Bool := memWf c.scratch && memWf c.acc

/-- Every sparse store of the state is in canonical form: memory, the scratchpad and the accumulator of every core, the Plumb
replica of every die, and the lane registers of every group. -/
def State.wf (s : State) : Bool :=
  memWf s.mem.bytes && s.cores.all (fun c => c.2.wf) && s.dies.all (fun d => memWf d.2.replica)
    && s.groups.all fun g => cellsWf g.ln.v && cellsWf g.ln.hv

end Sys2Proof.Machine
end

