-- ==== Sys2Proof/Certificates/Slice0/Obligations.lean ====
section
/-! DEFINITION. The statements for the provers. -/

open Sys2Proof Sys2Proof.Machine

-- Words and steps (spec/03, spec/06).

/-- R55, R58 to R71, R241: words that the spec prints, and the instructions they stand for. -/
def Obligations.DecodeWords : Prop :=
  let lane (p2 p1 p0 : W32) : Except DecodeError Instr := decodeLane (p2 ++ p1 ++ p0)
  (decodeScalar 0x00188292 = .ok (.mulhn 3 4 5) ∧ decodeScalar 0x0010E018 = .ok (.clz 2 7) ∧
    decodeScalar 0x0C488020 = .ok (.shli 9 4 32) ∧ decodeScalar 0x0C4920A0 = .ok (.sari 9 9 32) ∧
    decodeScalar 0x0200A322 = .ok (.cmp 5 6 4 2) ∧ decodeScalar 0x1620A30A = .ok (.sel 4 5 6 true 2) ∧
    decodeScalar 0x18084188 = .ok (.cand 1 2 3) ∧ decodeScalar 0x20A00003 = .ok (.br 2 true 3)) ∧
  (decodeScalar 0x3E012011 = .ok (.setsr 9 0x011) ∧ decodeScalar 0x2600A004 = .ok (.trap 5) ∧
    decodeScalar 0x2C084047 = .ok (.ldqAcq 1 2 4 3) ∧ decodeScalar 0x2E014047 = .ok (.stqRel 10 0 4 3) ∧
    decodeScalar 0x36204802 = .ok (.ldspW 4 2 2) ∧ decodeScalar 0x3A00C008 = .ok (.datumSet 6 2) ∧
    decodeScalar 0xC4200131 = .ok (.lget 4 9 17) ∧ fH 0xC4200131 = true ∧ decodeScalar 0x42000000 = .ok (.lwait 0)) ∧
  (decodeScalar 0x50204180 = .ok (.mma 4 2 3) ∧ decodeScalar 0x56188281 = .ok (.accv 3 4 5) ∧
    decodeScalar 0x5830E008 = .ok (.cpyG2s 6 7 false false true) ∧ decodeScalar 0x5C012005 = .ok (.yieldc 9 5) ∧
    decodeScalar 0x5E290020 = .ok (.collSum 5 8 false 4) ∧ decodeScalar 0x62180006 = .ok (.plsync 3) ∧
    decodeScalar 0x6828C000 = .ok (.launch 5 6) ∧ decodeScalar 0x6A108001 = .ok (.roleq 2 4) ∧
    decodeScalar 0x6C188281 = .ok (.tarm 3 4 5)) ∧
  decodeHart 0x00B5000B = .ok (.dtlbi 11 10) ∧
  lane 0x801C1202 0xA0000000 0x00000100 = .ok (.iadd ⟨false, 3, true, 9, 2, 320, 0, 0, 0, 0x100⟩) ∧
  laneHold (0x801C1202#32 ++ 0xA0000000#32 ++ 0x00000100#32) = true ∧
  lane 0x18400000 0 0 = .ok (.regang ⟨false, 0, false, 0, 0, 0, 0, 0, 0, 0⟩)

/-- R55 to R64, R241: for every scalar and control-core word that the encoding admits, decode and encode agree: the instruction and the
hold bit come back from the word with every operand, and a word that decodes is the word of its instruction. -/
def Obligations.ScalarDecodeAndEncodeAgree : Prop :=
  (∀ (h : Bool) (i : Instr), isScalarWord i = true → i.wf = true →
    decodeScalar (encodeWord h i) = .ok i ∧ fH (encodeWord h i) = h) ∧
  (∀ (w : W32) (i : Instr), decodeScalar w = .ok i → isScalarWord i = true ∧ i.wf = true ∧ encodeWord (fH w) i = w) ∧
  (∀ (h : Bool) (a b : BitVec 5), decodeHart (encodeWord h (.dtlbi b a)) = .ok (.dtlbi b a) ∧
    decodeHart (encodeWord h .dtlbf) = .ok .dtlbf) ∧
  (∀ (w : W32) (i : Instr), decodeHart w = .ok i → encodeWord false i = w)

/-- R65 to R71: for every lane word that the encoding admits, decode and encode agree, and a word that decodes is the word of its
instruction. -/
def Obligations.LaneDecodeAndEncodeAgree : Prop :=
  (∀ (h : Bool) (i : Instr), (laneSpec i).isSome = true → i.wf = true →
    decodeLane (encodeLane h i) = .ok i ∧ laneHold (encodeLane h i) = h) ∧
  (∀ (w : BitVec 96) (i : Instr), decodeLane w = .ok i →
    (laneSpec i).isSome = true ∧ i.wf = true ∧ encodeLane (laneHold w) i = w)

/-- R14, R15, R25, R65, R72, R150, R159: a step runs the word that it fetches. Where the chosen group's word decodes to an instruction,
the step is `exec` of that instruction with the group, the hold bit and the gang named; a lane word that decodes to none raises
ILLEGAL; the control-core hart runs the word at its pc; and a row of the table with no word is a step of its own. What a fetch
finds is what stood there before some of the newest writes since the grid's launch, and what stands there now where there is none.
Where the spec leaves the manner open it follows log entries 1, 8, 9 and 10. -/
def Obligations.StepRunsTheDecodedWord : Prop :=
  (∀ (s : State) (core part : Nat) (g : Group) (w : W32) (i : Instr), Chosen s core part false g →
    let h := g.issuing s.clk.clock
    let u := (s.choiceMade core (2 * part) h).vectorSaid h
    FetchesAt s.advance g g.sc.walked g.sc.spc w.toNat → decodeScalar w = .ok i →
    step s = exec i ((u.setGroup (h.noteWord false (s.meridian g.die).toNat s.clk.clock)).executing ⟨g.uid, w.getLsbD 31, 0, 0, false⟩)) ∧
  (∀ (s : State) (core part : Nat) (g : Group) (w : BitVec 96) (sup : Bool) (lpc : BitVec 32), Chosen s core part true g →
    let frags := mergeFrags g.ln.frags
    let va := (if sup then g.sr.lsv else g.place.lcb) + wordOf (12 * lpc.toNat)
    let h := g.laneIssuing frags sup lpc s.clk.clock
    let u := s.choiceMade core (2 * part + 1) h
    let lanes := gangLanes frags sup lpc
    chooseLpc frags = some (sup, lpc) →
    (∀ k : Nat, k < 3 → FetchesAt s.advance g g.ln.walked (va + wordOf (4 * k)) (w.toNat / 2 ^ (32 * k) % 2 ^ 32)) →
    (∀ i, decodeLane w = .ok i →
      step s = exec i ((u.setGroup (h.noteWord true (s.meridian g.die).toNat s.clk.clock)).executing ⟨g.uid, w.getLsbD 95, lanes, lpc, sup⟩)) ∧
    (∀ e, decodeLane w = .error e → TrapReady u h causeIllegal →
      step s = .next (u.trapped { h with cnt := { h.cnt with lcnt := h.cnt.lcnt + 1 } } causeIllegal true g.sc.spc
        (word (w.toNat / 2 ^ 32)) lanes lpc))) ∧
  (∀ (s : State) (g : Group) (pa : Nat),
    (∃ ws, ws <+: s.fetchable g pa ∧ s.fetchWord g pa = leNat (unseenBytes ws pa (s.physRead (s.worldOf g) pa 4))) ∧
    ∀ x, x < 2 ^ 32 → s.fetchable g pa = [] → BytesHold s (s.worldOf g) pa 4 x → s.fetchWord g pa = x) ∧
  (∀ (s : State) (w : W32) (i : Instr), s.sched.turn = .hart → s.clk.fenced = false → BytesHold s 0 s.hart.pc.toNat 4 w.toNat →
    decodeHart w = .ok i → step s = exec i s.advance) ∧
  (∀ (s : State) (i : Instr), s.sched.turn = .event i → encode false i = [] → (s.clk.fenced = false ∨ whileFenced i = true) →
    step s = exec i s.advance)

/-- R29, R457: after reset no group is resident and phase 0 is under way; every store is canonical, and memory lists nothing, which
reads as zero by the model's choice (log entry 2). -/
def Obligations.ResetIsCanonical : Prop :=
  State.reset.wf = true ∧ State.reset.groups = [] ∧ State.reset.clk.phase = 0 ∧ (∀ a, cellGet State.reset.mem.bytes a = 0) ∧
    core.reset = State.reset

/-- Log entry 2: every step keeps the canonical form of every store, so that equal contents are equal data. -/
def Obligations.StepKeepsCanonical : Prop :=
  ∀ s t : State, s.wf = true → step s = .next t → t.wf = true

-- Register words of the scalar stream (spec/04).

/-- R17, R18, R77 to R84: a word of the immediate class completes with the value or the bit that its rule's arithmetic gives
in its destination, a result for s0 or c7 being discarded (R8); one of the deferred class that computes from s registers
completes with its destination pending and the rule's value under way to it. -/
def Obligations.ScalarWordsGiveTheirResult : Prop :=
  (∀ (i : Instr) (s : State) (c : Cur) (g : Group) (d : BitVec 6) (x : Word), sWrite i g = some (d, x) → Runs s c g i →
     exec i s = .next (s.setGroup ((g.withS d x).completed c.hold (g.sc.spc + 4)))) ∧
  (∀ (i : Instr) (s : State) (c : Cur) (g : Group) (d : BitVec 3) (b : Bool), cWrite i g = some (d, b) → Runs s c g i →
     exec i s = .next (s.setGroup ((g.withC d b).completed c.hold (g.sc.spc + 4)))) ∧
  (∀ (i : Instr) (s : State) (c : Cur) (g : Group) (d : BitVec 6) (x : Word), sLater i g = some (d, x) → Runs s c g i →
     exec i s = .next (s.setGroup ((g.awaiting d.toNat x).completed c.hold (g.sc.spc + 4))))

/-- The frame of the register words (R17, R76): every register but the destination keeps its value, and with it the special
registers, the checksum registers, the datum registers, the lane unit, every other group, and every byte of memory. -/
def Obligations.RegisterWordsKeepTheRest : Prop :=
  ∀ (i : Instr) (s : State) (c : Cur) (g : Group), Runs s c g i →
    (sWrite i g).isSome ∨ (cWrite i g).isSome ∨ (sLater i g).isSome →
      ∃ t h, exec i s = .next t ∧ t.group? g.uid = some h ∧ OnlyGroup s t g.uid ∧ SameMemory s t ∧
        (∀ r, (∀ x, sWrite i g ≠ some (r, x)) → h.getS r = g.getS r) ∧
        (∀ r, (∀ b, cWrite i g ≠ some (r, b)) → h.getC r = g.getC r) ∧
        (∀ r, r < 72 → (∀ d x, sLater i g = some (d, x) → d.toNat ≠ r) → h.pending r = g.pending r) ∧
        h.sr = g.sr ∧ h.fflags = g.fflags ∧ h.k = g.k ∧ h.dm = g.dm ∧ h.ln = g.ln ∧ h.sc.sup = g.sc.sup ∧
        h.cnt = { g.cnt with scnt := g.cnt.scnt + 1 } ∧ h.sq = g.sq ∧ h.tokens = g.tokens

/-- R85 to R87: the encoding of `jmp` and its effect, the link, which s0 discards, and the target; `br`; and `jr` to an
aligned target. -/
def Obligations.JumpsGoToTheirTarget : Prop :=
  (∀ (d : BitVec 6) (o : BitVec 19) (h : Bool),
     decodeScalar (BitVec.ofBool h ++ 0x11#6 ++ d ++ o) = .ok (.jmp d o) ∧
     ∀ (s : State) (c : Cur) (g : Group), Runs s c g (.jmp d o) →
       exec (.jmp d o) s =
         .next (s.setGroup ((g.withS d (g.sc.spc + 4)).completed c.hold (wordOf (g.sc.spc.toNat + 4 * o.toInt))))) ∧
  ((∀ (b : BitVec 3) (n : Bool) (o : BitVec 19) (s : State) (c : Cur) (g : Group), Runs s c g (.br b n o) →
     exec (.br b n o) s =
       .next (s.setGroup (g.completed c.hold
         (if g.getC b ≠ n then wordOf (g.sc.spc.toNat + 4 * o.toInt) else g.sc.spc + 4)))) ∧
   (∀ (d a : BitVec 6) (i : BitVec 13) (s : State) (c : Cur) (g : Group), Runs s c g (.jr d a i) →
     (g.getS a).toNat % 4 = 0 →
     exec (.jr d a i) s =
       .next (s.setGroup ((g.withS d (g.sc.spc + 4)).completed c.hold (wordOf ((g.getS a).toNat + 4 * i.toInt))))))

/-- R16: a word that would set SPC to a value that is no multiple of 4 raises MISALIGN with the target in TVAL, and TPC keeps
SPC: `jr` and `tret`, the words whose target a register gives. -/
def Obligations.MisalignedTargetTraps : Prop :=
  (∀ (d a : BitVec 6) (i : BitVec 13) (s : State) (c : Cur) (g : Group), Runs s c g (.jr d a i) →
    (g.getS a).toNat % 4 ≠ 0 → TrapReady s g causeMisalign →
    exec (.jr d a i) s =
      .next (s.trapped g causeMisalign false g.sc.spc (wordOf ((g.getS a).toNat + 4 * i.toInt)) 0 0)) ∧
  (∀ (s : State) (c : Cur) (g : Group), Runs s c g .tret → g.sr.tpc.toNat % 4 ≠ 0 → TrapReady s g causeMisalign →
    exec .tret s = .next (s.trapped g causeMisalign false g.sc.spc g.sr.tpc 0 0))

/-- R28, R117: `tret` to an aligned TPC: SPC, the mode in supervisor mode, and the thaw of the lane unit. R26, R114: `trap`
and `bkpt` take their exceptions: TPC names the next instruction and TVAL holds s[sa] or zero. -/
def Obligations.TrapsEnterAndReturn : Prop :=
  (∀ (s : State) (c : Cur) (g : Group), Runs s c g .tret → g.sr.tpc.toNat % 4 = 0 →
     exec .tret s =
       .next (s.setGroup ({ g with
         sc := { g.sc with sup := g.sc.sup && g.sr.tcause.toNat / 256 % 2 = 1 }
         ln := { g.ln with frozen := false } }.completed c.hold g.sr.tpc))) ∧
  ((∀ (a : BitVec 6) (s : State) (c : Cur) (g : Group), Runs s c g (.trap a) → TrapReady s g causeSwtrap →
     exec (.trap a) s = .next (s.trapped g causeSwtrap false (g.sc.spc + 4) (g.getS a) 0 0)) ∧
   (∀ (s : State) (c : Cur) (g : Group), Runs s c g .bkpt → TrapReady s g causeBkpt →
     exec .bkpt s = .next (s.trapped g causeBkpt false (g.sc.spc + 4) 0 0 0)))

/-- R20: a scalar word that names a pending register raises HOLDV: TPC holds its address and TVAL the number of the first such
register. -/
def Obligations.PendingRegisterRaisesHoldv : Prop :=
  ∀ (i : Instr) (s : State) (c : Cur) (g : Group) (r : Nat), isScalarWord i = true → s.issuer = some (c, g) →
    s.legal i = true → (supervisorOnly i = true → g.sc.sup = true) →
    (∀ d n, i = .getsr d n → g.mayReadSr n.toNat = true) → (∀ a n, i = .setsr a n → g.mayWriteSr n.toNat = true) →
    (namedRegs i).find? (fun r => g.pending r) = some r → TrapReady s g causeHoldv →
      exec i s = .next (s.trapped g causeHoldv false g.sc.spc (word r) 0 0)

/-- R12, R62: a scalar word that decodes to no instruction, one whose fields or service do not admit it, a supervisor-only word
in user mode, and an access to a special register that the mode does not allow raise ILLEGAL: TPC keeps the word's address, TVAL
holds the word, and the word has no effect. -/
def Obligations.IllegalScalarWordTraps : Prop :=
  (∀ (i : Instr) (s : State) (c : Cur) (g : Group), isScalarWord i = true → s.issuer = some (c, g) →
    (s.legal i = false ∨ (supervisorOnly i = true ∧ g.sc.sup = false) ∨
      (∃ d n, i = .getsr d n ∧ g.mayReadSr n.toNat = false) ∨ (∃ a n, i = .setsr a n ∧ g.mayWriteSr n.toNat = false)) →
    TrapReady s g causeIllegal →
      exec i s = .next (s.trapped g causeIllegal false g.sc.spc (word (encodeWord c.hold i).toNat) 0 0)) ∧
  (∀ (s : State) (core part : Nat) (g : Group) (w : W32) (e : DecodeError), Chosen s core part false g →
    FetchesAt s.advance g g.sc.walked g.sc.spc w.toNat → decodeScalar w = .error e →
    let h := g.issuing s.clk.clock
    let u := (s.choiceMade core (2 * part) h).vectorSaid h
    TrapReady u h causeIllegal → step s = .next (u.trapped h causeIllegal false g.sc.spc (word w.toNat) 0 0))

/-- R358: a cause that is raised while TVB.BASE is 0 is fatal: the group stops with the trap registers as entry would set
them, SPC and the mode unchanged, and its team halts. -/
def Obligations.TrapWithoutVectorIsFatal : Prop :=
  ∀ (a : BitVec 6) (s : State) (c : Cur) (g : Group) (tm : Team), Runs s c g (.trap a) → s.group? g.uid = some g →
    g.life = .resident → g.sc.wait = .ready → g.sr.tvb.toNat < 4096 → s.team? g.place.team = some tm →
      ∃ t h, exec (.trap a) s = .next t ∧ t.group? g.uid = some h ∧ h.life = .teamHalted ∧ h.sc.spc = g.sc.spc + 4 ∧
        h.sc.sup = g.sc.sup ∧ h.sr.tpc = g.sc.spc + 4 ∧ h.sr.tval = g.getS a ∧
        h.sr.tcause = wordOf (causeSwtrap + if g.sc.sup then 256 else 0) ∧
        (t.team? g.place.team).map (fun m => m.halted) = some (some (tm.halted.getD 0x09))

/-- R104, R105, R106, R107: `getsr` of a register that the mode may read writes its value. -/
def Obligations.GetsrReadsTheRegister : Prop :=
  ∀ (d : BitVec 6) (n : BitVec 13) (s : State) (c : Cur) (g : Group) (u v w : Bool) (x : Word),
    (n.toNat, u, v, w, x) ∈ srTable s g → (u = true ∨ g.sc.sup = true) → Runs s c g (.getsr d n) →
      exec (.getsr d n) s = .next (s.setGroup ((g.withS d x).completed c.hold (g.sc.spc + 4)))

/-- R10, R11, R38, R104, R105: `setsr` of a register that the mode may write completes; the register then reads the bits that
it has, SCNT having counted the `setsr` itself, and nothing else of the group changes but SPC. -/
def Obligations.SetsrWritesTheRegister : Prop :=
  ∀ (a : BitVec 6) (n : BitVec 13) (s : State) (c : Cur) (g : Group) (u v w : Bool) (x : Word),
    (n.toNat, u, v, w, x) ∈ srTable s g → (if g.sc.sup then w else v) = true → Runs s c g (.setsr a n) →
      ∃ h, exec (.setsr a n) s = .next (s.setGroup (h.completed c.hold (g.sc.spc + 4))) ∧ SameButSr g h ∧
        s.readSr h n.toNat = g.getS a &&& srMask n.toNat ∧
        ∀ m, m ≠ n.toNat → s.readSr h m = s.readSr g m

/-- R114 to R116, R118, R120: the system words that no handler is entered by. A word whose wait is over completes at once; the
others park the stream at the word.
Where the spec leaves the manner open it follows log entry 15. -/
def Obligations.SystemWordsAct : Prop :=
  ∀ (s : State) (c : Cur) (g : Group),
    (Runs s c g .nop → exec .nop s = .next (s.setGroup (g.completed c.hold (g.sc.spc + 4)))) ∧
    (Runs s c g .exit → exec .exit s = .next (s.setGroup (g.waiting c.hold .exit))) ∧
    (Runs s c g .yield →
      exec .yield s =
        .next (s.setGroup ({ g with
          sc := { g.sc with last := some s.clk.clock }
          ln := { g.ln with last := some s.clk.clock } }.completed c.hold (g.sc.spc + 4)))) ∧
    (Runs s c g .sleep → exec .sleep s = .next (s.setGroup (g.parkedAfter c.hold (.sleep s.clk.clock)))) ∧
    (Runs s c g .idemb →
      exec .idemb s = .next (s.setGroup
        (if g.blocksOut = 0 ∧ g.sc.outst = [] then
          { g.covered with
            idem := true
            snap := some ⟨g.sc.s, g.sc.c, g.dm, g.covered.k, g.sc.spc + 4, g.sc.sup⟩ }.completed c.hold (g.sc.spc + 4)
        else g.waiting c.hold .idemb))) ∧
    (Runs s c g .ideme →
      exec .ideme s = .next (s.setGroup
        (if g.blocksOut = 0 then { g.covered with idem := false, snap := none }.completed c.hold (g.sc.spc + 4)
        else g.waiting c.hold .ideme))) ∧
    (Runs s c g .halt → g.sc.outst ≠ [] → exec .halt s = .next (s.setGroup (g.waiting c.hold .halt))) ∧
    (Runs s c g .halt → g.sc.outst = [] →
      ∃ t h, exec .halt s = .next t ∧ t.group? g.uid = some h ∧ h.life = .halted ∧ h.sr = { g.sr with tpc := g.sc.spc + 4 } ∧
        h.ln = g.ln ∧ h.sc.s = g.sc.s ∧ h.sc.wait = (if c.hold then .hold else .ready) ∧ OnlyGroup s t g.uid ∧ SameMemory s t ∧
        t.out = s.out ++ [.controlInterrupt "group halted" g.place.ctx g.place.core g.place.slot])

/-- R108, R110, R112, R113, R99 to R102, R373, R374: the scalar words of the lane unit and of the datum registers. `lrun` captures a
block, or stalls while eight are out; `lwait` completes when few enough are. `lget`, `lset` and `lmask` on an idle or
frozen lane unit, of a register that the role holds and whose data is good, once a bad copy has been repaired (R373); they wait otherwise, and a register beyond the
allotment raises ALLOT. `datum.set` takes the translation of its base, and a base with no translation raises XLATE;
`datum.clear` and `datum.query`.
Where the spec leaves the manner open it follows log entry 15. -/
def Obligations.LaneUnitAndDatumWordsAct : Prop :=
  (∀ (a : BitVec 6) (n : BitVec 13) (s : State) (c : Cur) (g : Group),
     (Runs s c g (.lrun a n) → g.blocksOut < 8 →
       exec (.lrun a n) s =
         .next (s.setGroup ({ g with
           ln := { g.ln with
             queue := g.ln.queue ++
               [Block.mk (half ((g.getS a).toNat + n.toNat)) (Vector.ofFn fun k => g.getS (BitVec.ofNat 6 k)) g.dm g.seq] } }.completed
           c.hold (g.sc.spc + 4)))) ∧
     (Runs s c g (.lrun a n) → g.blocksOut = 8 →
       exec (.lrun a n) s = .next (s.setGroup (g.waiting c.hold (.lrun (half ((g.getS a).toNat + n.toNat)))))) ∧
     (Runs s c g (.lwait a) →
       exec (.lwait a) s =
         .next (s.setGroup
           (if g.blocksOut ≤ (g.getS a).toNat then g.covered.completed c.hold (g.sc.spc + 4)
           else g.waiting c.hold (.lwait (g.getS a).toNat))))) ∧
  (∀ (r : BitVec 6) (v : BitVec 8) (l : BitVec 5) (m : BitVec 3) (s : State) (c : Cur) (g : Group),
     (Runs s c g (.lget r v l) → g.laneQuiet → v.toNat < g.role.vregs → 32 * v.toNat + l.toNat ∉ g.ln.bad →
       32 * v.toNat + l.toNat ∉ g.ln.badOne →
       exec (.lget r v l) s =
         .next (s.setGroup ((g.awaiting r.toNat (word (cellGet g.ln.v (32 * v.toNat + l.toNat)).toNat)).completed c.hold
           (g.sc.spc + 4)))) ∧
     (Runs s c g (.lget r v l) → ¬ g.laneQuiet →
       exec (.lget r v l) s = .next (s.setGroup (g.waiting c.hold (.laneState (.get r.toNat v.toNat l.toNat))))) ∧
     (Runs s c g (.lget r v l) → g.laneQuiet → 32 * v.toNat + l.toNat ∈ g.ln.badOne →
       exec (.lget r v l) s = exec (.lget r v l) (s.repairCopies g [32 * v.toNat + l.toNat]).1) ∧
     (Runs s c g (.lget r v l) → g.laneQuiet → g.role.vregs ≤ v.toNat → 32 * v.toNat + l.toNat ∉ g.ln.badOne →
       TrapReady s g 0x04 →
       exec (.lget r v l) s = .next (s.trapped g 0x04 false g.sc.spc (word v.toNat) 0 0)) ∧
     (Runs s c g (.lset r v l) → g.laneQuiet → v.toNat < g.role.vregs →
       exec (.lset r v l) s =
         .next (s.setGroup ({ g with
           ln := { g.ln with
             v := cellSet g.ln.v (32 * v.toNat + l.toNat) (half (g.getS r).toNat)
             bad := g.ln.bad.filter fun k => k != 32 * v.toNat + l.toNat
             badOne := g.ln.badOne.filter fun k => k != 32 * v.toNat + l.toNat } }.completed c.hold (g.sc.spc + 4)))) ∧
     (Runs s c g (.lmaskRead r m) → g.laneQuiet →
       exec (.lmaskRead r m) s =
         .next (s.setGroup ((g.awaiting r.toNat
           (word (if m = 0 then g.ln.live else g.ln.m[m.toNat]'m.isLt).toNat)).completed c.hold (g.sc.spc + 4)))) ∧
     (Runs s c g (.lmaskWrite r m) → g.laneQuiet →
       exec (.lmaskWrite r m) s =
         .next (s.setGroup ({ g with ln := { g.ln with m := g.ln.m.set m.toNat (half (g.getS r).toNat) m.isLt } }.completed
           c.hold (g.sc.spc + 4))))) ∧
  (∀ (r : BitVec 6) (n : BitVec 3) (s : State) (c : Cur) (g : Group), g.dm.length = 8 →
     (∀ l : Leaf, Runs s c g (.datumSet r n) → s.xlate g.place.core g.place.ctx g.sc.walked (g.getS r) = some (.leaf l) →
       exec (.datumSet r n) s =
         .next (s.setGroup ({ g with
           dm := g.dm.set n.toNat
             ⟨g.getS r, l.phys (g.getS r), l.vbase + l.size - (g.getS r).toNat % 2 ^ 53, l.r, l.w, l.x, l.a, l.sc, l.tier,
               l.world, true⟩ }.completed c.hold (g.sc.spc + 4)))) ∧
     (∀ u, Runs s c g (.datumSet r n) → s.xlate g.place.core g.place.ctx g.sc.walked (g.getS r) = some (.fault u) →
       TrapReady s g 0x10 →
       exec (.datumSet r n) s = .next (s.trapped g 0x10 false g.sc.spc (g.getS r) 0 0)) ∧
     (Runs s c g (.datumClear n) →
       exec (.datumClear n) s =
         .next (s.setGroup ({ g with dm := g.dm.modify n.toNat fun d => { d with v := false } }.completed c.hold
           (g.sc.spc + 4)))) ∧
     (Runs s c g (.datumQuery r n) →
       exec (.datumQuery r n) s =
         .next (s.setGroup ((g.awaiting r.toNat (queryWord (g.dm.getD n.toNat Datum.clear))).completed c.hold
           (g.sc.spc + 4)))))

-- Scalar memory words.

/-- R17, R89 to R93: a scalar load sends one request to its core's order, its register is pending, and no register and no byte
of memory changes; a load from an SC page parks the stream until it completes.
Where the spec leaves the manner open it follows log entries 13 and 15. -/
def Obligations.ScalarLoadsSendARequest : Prop :=
  ∀ (i : Instr) (f : LoadForm) (s : State) (c : Cur) (g : Group), loadForm i g = some f → Runs s c g i →
    ∀ (pa : Nat) (sc : Bool),
      (if f.scratch then InWindow s g f.ea f.size false ∧ pa = g.place.sxbase.toNat + f.ea.toNat ∧ sc = false
        else ∃ l, Reaches s g f.ea f.size .load l ∧ pa = l.phys f.ea ∧ sc = l.sc) →
      ∃ t h, exec i s = .next t ∧ t.group? g.uid = some h ∧ OnlyGroup s t g.uid ∧ SameMemory s t ∧
        (t.core g.place.core).reqs = (s.core g.place.core).reqs ++
          [⟨s.sched.uid, g.origin (s.worldOf g) false g.sc.spc, g.seq, g.sc.laneSeq, g.seq, 0, f.scratch, pa, f.ea, sc, none, 0,
            .load f.size f.acquire f.scope⟩] ∧
        h.sc.outst = g.sc.outst ++ [⟨f.d.toNat, s.sched.uid, .ext f.size f.signed, g.sc.spc, none, none, none⟩] ∧
        (∀ r, h.pending r = (g.pending r || (decide (r = f.d.toNat) && decide (r ≠ 0)))) ∧
        h.sc.s = g.sc.s ∧ h.sc.c = g.sc.c ∧ h.sr = g.sr ∧ h.ln = g.ln ∧ h.sq = g.sq ∧ h.seq = g.seq + 1 ∧
        h.sc.spc = g.sc.spc + 4 ∧ h.sc.wait = (if sc then .scAccess s.sched.uid else if c.hold then .hold else .ready)

/-- R89 to R92, R94: a scalar store that finds room puts one request into the group's store queue, behind what it holds, with
the low bytes of the register in little-endian order; no register and no byte of memory changes. A store that finds no
free entry stalls at itself with no effect.
Where the spec leaves the manner open it follows log entry 13. -/
def Obligations.ScalarStoresQueueARequest : Prop :=
  (∀ (i : Instr) (f : StoreForm) (s : State) (c : Cur) (g : Group), storeForm i g = some f → Runs s c g i →
     g.sqUsed < 64 → ∀ (pa : Nat) (sc : Bool),
       (if f.scratch then InWindow s g f.ea f.size true ∧ pa = g.place.sxbase.toNat + f.ea.toNat ∧ sc = false
         else s.storeLocked g f.ea f.size = false ∧ ∃ l, Reaches s g f.ea f.size .store l ∧ pa = l.phys f.ea ∧ sc = l.sc) →
       ∃ t h, exec i s = .next t ∧ t.group? g.uid = some h ∧ OnlyGroup s t g.uid ∧ SameMemory s t ∧
         h.sq = g.sq ++ [⟨s.sched.uid, g.origin (s.worldOf g) false g.sc.spc, g.seq, g.sc.laneSeq, g.seq, 1, f.scratch, pa, f.ea,
           sc, f.rel, 0, .store ((List.range f.size).map fun k => BitVec.ofNat 8 (f.x.toNat / 256 ^ k))⟩] ∧
         (∀ n, (t.core n).reqs = (s.core n).reqs) ∧ h.sc.outst = g.sc.outst ∧ h.sc.pend = g.sc.pend ∧ h.sc.s = g.sc.s ∧
         h.sc.c = g.sc.c ∧ h.sr = g.sr ∧ h.ln = g.ln ∧ h.sc.spc = g.sc.spc + 4 ∧
         h.sc.wait = (if sc then .scAccess s.sched.uid else if c.hold then .hold else .ready)) ∧
  (∀ (i : Instr) (f : StoreForm) (s : State) (c : Cur) (g : Group), storeForm i g = some f → Runs s c g i → 64 ≤ g.sqUsed →
     (if f.scratch then InWindow s g f.ea f.size true
       else s.storeLocked g f.ea f.size = false ∧ ∃ l, Reaches s g f.ea f.size .store l) →
     exec i s = .next (s.setGroup (g.waiting false (.stall .storeQueue))))

/-- R95, R96: an atomic outside an idempotent region puts its request into the store queue and its register is pending for the
old value; inside one it raises IDEMV (R119).
Where the spec leaves the manner open it follows log entry 13. -/
def Obligations.AtomicsQueueARequest : Prop :=
  ∀ (i : Instr) (d : BitVec 6) (ea : Word) (n : Nat) (op : MemOp) (l : Leaf) (s : State) (c : Cur) (g : Group),
    amoForm i g = some (d, ea, n, op) → Runs s c g i → Reaches s g ea n .atomic l →
    (g.idem = true → TrapReady s g 0x0B → exec i s = .next (s.trapped g 0x0B false g.sc.spc 0 0 0)) ∧
    (g.idem = false → s.storeLocked g ea n = false →
      ∃ t h, exec i s = .next t ∧ t.group? g.uid = some h ∧ OnlyGroup s t g.uid ∧ SameMemory s t ∧ h.used = true ∧
        h.sq = g.sq ++ [⟨s.sched.uid, g.origin (s.worldOf g) false g.sc.spc, g.seq, g.sc.laneSeq, g.seq, 0, false, l.phys ea, ea,
          l.sc, none, 0, op⟩] ∧
        h.sc.outst = g.sc.outst ++ [⟨d.toNat, s.sched.uid, .ext n false, g.sc.spc, none, none, none⟩] ∧
        (∀ r, h.pending r = (g.pending r || (decide (r = d.toNat) && decide (r ≠ 0)))) ∧
        h.sc.s = g.sc.s ∧ h.sc.c = g.sc.c ∧ h.sr = g.sr ∧ h.ln = g.ln ∧ h.sc.spc = g.sc.spc + 4)

/-- R22, R23: a scalar load or store to global memory that is not aligned to its size raises MISALIGN, one with no translation
XLATE, and one that its page or world forbids PERM or WORLD, with the address in TVAL and no effect. -/
def Obligations.ScalarAccessFaults : Prop :=
  ∀ (i : Instr) (s : State) (c : Cur) (g : Group) (ea : Word) (n : Nat) (acc : Acc), Runs s c g i →
    ((∃ f, loadForm i g = some f ∧ f.scratch = false ∧ f.ea = ea ∧ f.size = n ∧ acc = .load) ∨
      (∃ f, storeForm i g = some f ∧ f.scratch = false ∧ f.ea = ea ∧ f.size = n ∧ acc = .store) ∨
      (∃ d op, amoForm i g = some (d, ea, n, op) ∧ acc = .atomic)) →
    (ea.toNat % n ≠ 0 → TrapReady s g causeMisalign →
      exec i s = .next (s.trapped g causeMisalign false g.sc.spc ea 0 0)) ∧
    (∀ u, ea.toNat % n = 0 → s.xlate g.place.core g.place.ctx g.sc.walked ea = some (.fault u) → TrapReady s g 0x10 →
      exec i s = .next (s.trapped g 0x10 false g.sc.spc ea 0 0)) ∧
    (∀ l cause, ea.toNat % n = 0 → s.xlate g.place.core g.place.ctx g.sc.walked ea = some (.leaf l) →
      l.check acc (s.worldOf g) = some cause → TrapReady s g cause.toNat →
      exec i s = .next (s.trapped g cause.toNat false g.sc.spc ea 0 0)) ∧
    (ea.toNat % n = 0 → s.xlate g.place.core g.place.ctx g.sc.walked ea = none →
      exec i s = .next (s.setGroup (g.waiting false (.walk ⟨ea, .walking, false⟩))))

/-- R258, R97, R283, R287: the fences of both streams. A release part at a scope wider than the group is a marker behind the group's
queued writes; a fence with an acquire part completes at once when the earlier reads have returned and, for `fence.sc`,
nothing is left to release, and parks otherwise. The lane fences do so for the lane stream, which waits. The end of an acquire at
die scope or wider empties the core's near cache, changes nothing else but what the group has learned, and makes the group see what it
acquires of the releases that its earlier reads found.
Where the spec leaves the manner open it follows log entries 15 and 49. -/
def Obligations.FencesOrder : Prop :=
  (∀ (sc : BitVec 3) (s : State) (c : Cur) (g : Group),
     (Runs s c g (.fenceAcq sc) → s.readBefore g false g.seq g.sc.laneSeq = false →
       exec (.fenceAcq sc) s = .next ((s.fenceEnd g false sc.toNat false).setGroup (g.completed c.hold (g.sc.spc + 4)))) ∧
     (Runs s c g (.fenceAcq sc) → s.readBefore g false g.seq g.sc.laneSeq = true →
       exec (.fenceAcq sc) s = .next (s.setGroup (g.waiting c.hold (.fence true sc.toNat none)))) ∧
     (∀ i, (i = .fenceRel sc ∨ i = .fenceAcqrel sc ∨ i = .fenceSc sc) → Runs s c g i → sc = 0 →
       (i = .fenceRel sc ∨ s.readBefore g false g.seq g.sc.laneSeq = false) →
       exec i s = .next ((if i = .fenceRel sc then s else s.fenceEnd g false 0 false).setGroup
         (g.completed c.hold (g.sc.spc + 4)))) ∧
     (∀ i, (i = .fenceRel sc ∨ i = .fenceAcqrel sc ∨ i = .fenceSc sc) → Runs s c g i → sc ≠ 0 →
       ∃ t h, exec i s = .next t ∧ t.group? g.uid = some h ∧ OnlyGroup s t g.uid ∧ SameMemory s t ∧
         h.sq = g.sq ++ [⟨s.sched.uid, g.origin (s.worldOf g) false g.sc.spc, g.seq, g.sc.laneSeq, g.seq, 0, false, 0, 0, false,
           none, 0, .marker sc.toNat true⟩] ∧
         (i = .fenceRel sc → h.sc.spc = g.sc.spc + 4) ∧
         (i = .fenceSc sc → h.sc.wait = .fence true sc.toNat (some s.sched.uid) ∧ h.sc.spc = g.sc.spc) ∧
         (i = .fenceAcqrel sc →
           if s.readBefore g false (g.seq + 1) g.sc.laneSeq then h.sc.wait = .fence true sc.toNat none ∧ h.sc.spc = g.sc.spc
           else h.sc.spc = g.sc.spc + 4))) ∧
  (∀ (w : LaneW) (p : LaneSpec) (s : State) (c : Cur) (g : Group), LaneRuns s c g (.fenceL w) w p →
     let scope := w.fn6.toNat % 8
     let kind := w.fn6.toNat / 8 % 4
     (kind = 0 ∨ (kind ≠ 1 ∧ scope = 0) → s.readBefore g true g.seq g.blockSeq = false →
       exec (.fenceL w) s = .next ((s.fenceEnd g true scope false).setGroup (g.laneDone c))) ∧
     (kind = 0 ∨ (kind ≠ 1 ∧ scope = 0) → s.readBefore g true g.seq g.blockSeq = true →
       exec (.fenceL w) s = .next (s.setGroup (g.laneWaiting c (.fence c true scope none)))) ∧
     (kind = 1 → scope = 0 → exec (.fenceL w) s = .next (s.setGroup (g.laneDone c))) ∧
     (kind ≠ 0 → scope ≠ 0 →
       ∃ t h, exec (.fenceL w) s = .next t ∧ t.group? g.uid = some h ∧ OnlyGroup s t g.uid ∧ SameMemory s t ∧
         h.sq = g.sq ++ [⟨s.sched.uid, g.origin (s.worldOf g) true g.sc.spc, g.seq, g.blockSeq, g.seq, 0, false, 0, 0, false, none,
           0, .marker scope true⟩] ∧
         (kind = 1 → h.ln = (g.laneDone c).ln) ∧
         (kind = 2 → h.ln = (if s.readBefore g true (g.seq + 1) g.blockSeq then { g.ln with wait := .fence c true scope none }
           else (g.laneDone c).ln)) ∧
         (kind = 3 → h.ln = { g.ln with wait := .fence c true scope (some s.sched.uid) }))) ∧
  (∀ (s : State) (g : Group) (lane : Bool) (scope : Nat) (sc : Bool),
     let near : State := if 2 ≤ scope then nearEmpty s g.place.core else s
     let ks := s.knownBy g lane
     ∃ o, s.fenceEnd g lane scope sc = { near with order := o } ∧ o.past = s.order.past ∧
       ∀ r ∈ ks.flatMap (fun k => k.heard), r.reaches scope g.agent = true → ∀ p ∈ r.view,
         p.2 ≤ look 0 (viewKnown (({ near with order := o } : State).knownBy g lane)) p.1)

-- Lane words that name registers (spec/07).

/-- R66, R171, R172, R174, R178 to R195, R198, R201: a lane word of the immediate class writes the result of each active lane,
computed from the operands as they stood, and no register of another lane and no other register; the flags of all lanes
join those of the block (R39). A word that writes a mask register changes the bits of its active lanes and nothing else. -/
def Obligations.LaneWordsWriteTheirResult : Prop :=
  (∀ (i : Instr) (w : LaneW) (p : LaneSpec) (s : State) (c : Cur) (g : Group) (f : Nat → Nat × Nat × Flags),
     LaneRuns s c g i w p → cellsWf g.ln.v = true → cellsWf g.ln.hv = true →
     (∀ k, laneNowValue i (laneOpOf c g w) k = some (f k)) →
       ∃ h : Group, exec i s = .next (s.setGroup (h.laneDone c)) ∧
         h = { g with ln := { g.ln with
           v := h.ln.v, hv := h.ln.hv, bad := h.ln.bad, badOne := h.ln.badOne
           runFl := (laneOpOf c g w).act.foldl (fun x k => x ||| (f k).2.2) g.ln.runFl } } ∧
         (∀ k ∈ (laneOpOf c g w).act, ∀ j < (f k).1,
           h.ln.readV c.sup (w.d.toNat + j) k = half ((f k).2.1 / 2 ^ (32 * j))) ∧
         (∀ sup r k, r < 256 → k < 32 →
           (∀ j < (f k).1, regNumber sup r = regNumber c.sup (w.d.toNat + j) → k ∉ (laneOpOf c g w).act) →
           h.ln.readV sup r k = g.ln.readV sup r k)) ∧
  (∀ (i : Instr) (w : LaneW) (p : LaneSpec) (s : State) (c : Cur) (g : Group) (f : Nat → Bool × Flags),
     LaneRuns s c g i w p → (∀ k, laneMaskValue i (laneOpOf c g w) k = some (f k)) →
       ∃ h : Group, exec i s = .next (s.setGroup (h.laneDone c)) ∧
         h = { g with ln := { g.ln with
           m := h.ln.m
           runFl := (laneOpOf c g w).act.foldl (fun x k => x ||| (f k).2) g.ln.runFl } } ∧
         ∀ (m : Fin 8) (k : Nat), k < 32 → h.ln.m[m].getLsbD k =
           if m.val = w.d.toNat ∧ k ∈ (laneOpOf c g w).act then (f k).1 else g.ln.m[m].getLsbD k)

/-- R174, R175, R189, R196, R197, R199, R200: a lane word of the deferred class that reads no memory: every register that it
writes is pending, with or without an active lane, and the result of each active lane is under way. -/
def Obligations.LaneWordsSendTheirResult : Prop :=
  ∀ (i : Instr) (w : LaneW) (p : LaneSpec) (s : State) (c : Cur) (g : Group) (n : Nat) (f : Nat → Nat × Flags),
    LaneRuns s c g i w p → (∀ k, laneLaterValue i (laneOpOf c g w) k = some (n, f k)) →
      ∃ h : Group, exec i s = .next (s.setGroup (h.laneDone c)) ∧
        h = { g with ln := { g.ln with
          pend := h.ln.pend
          outst := g.ln.outst ++ [⟨w.d.toNat, n, namesHandler c.sup w.d.toNat, c.lpc,
            (laneOpOf c g w).act.map fun k => ⟨k, 0, 0, .ext 16 false, some (BitVec.ofNat 128 (f k).1), none, none⟩⟩]
          runFl := (laneOpOf c g w).act.foldl (fun x k => x ||| (f k).2) g.ln.runFl } } ∧
        ∀ b, b < 264 → h.ln.pend.getLsbD b =
          (g.ln.pend.getLsbD b || decide (∃ j, j < n ∧ b = regNumber c.sup (w.d.toNat + j)))

/-- R68 to R72, R175, R177, R373: the checks of a lane word in their order. A word that its entry does not admit raises ILLEGAL with
its upper bits in TVAL; one that names a register beyond the allotment ALLOT, and one that names a pending register HOLDV,
with the specifier in TVAL. The issue is counted, and the gang stays at the word. A word that reads registers of which one copy is bad
acts as it does once they are repaired. -/
def Obligations.LaneChecksTrapInOrder : Prop :=
  ∀ (i : Instr) (w : LaneW) (p : LaneSpec) (s : State) (c : Cur) (g : Group), s.issuer = some (c, g) →
    laneSpec i = some (w, p) →
    (s.legal i = false → TrapReady s g causeIllegal →
      exec i s = .next (s.trapped { g with cnt := { g.cnt with lcnt := g.cnt.lcnt + 1 } } causeIllegal true g.sc.spc
        (word ((encodeLane c.hold i).toNat / 2 ^ 32)) c.lanes c.lpc)) ∧
    (laneNowValue i (laneOpOf c g w) 0 ≠ none ∨ laneLaterValue i (laneOpOf c g w) 0 ≠ none ∨
        laneMaskValue i (laneOpOf c g w) 0 ≠ none → s.legal i = true →
      (∀ f, beyondAllotment g.role.vregs (positions p w) = some f → TrapReady s g 0x04 →
        exec i s = .next (s.trapped { g with cnt := { g.cnt with lcnt := g.cnt.lcnt + 1 } } 0x04 true g.sc.spc (word f)
          c.lanes c.lpc)) ∧
      (∀ f, beyondAllotment g.role.vregs (positions p w) = none → g.ln.firstPending c.sup (positions p w) = some f →
        TrapReady s g causeHoldv →
        exec i s = .next (s.trapped { g with cnt := { g.cnt with lcnt := g.cnt.lcnt + 1 } } causeHoldv true g.sc.spc
          (word f) c.lanes c.lpc)) ∧
      (∀ ks, beyondAllotment g.role.vregs (positions p w) = none → g.ln.firstPending c.sup (positions p w) = none →
        (laneOpOf c g w).firstBad p = none → (laneOpOf c g w).oneBad p = ks → ks ≠ [] →
        exec i s = exec i (s.repairCopies g ks).1 ∧
          (s.repairCopies g ks).1.group? g.uid = some { g with ln := { g.ln with
            badOne := g.ln.badOne.filter fun k => !ks.contains k } }))

/-- R116, R147, R152, R202, R203, R204: `bra` sends the selected lanes to its target and the rest to the next LPC, `bra.u` when they
agree; `regang` parks the gang, `lend` ends its lanes and the group's sleep, and `lnop` only moves it on. The gangs of `evtl` and
`ckacc` move on too, that of `ltrap` does as the group takes its trap, and that of `fresume` leaves the handler (R149, R205 to R207,
R264). -/
def Obligations.LaneControlWordsMoveTheGang : Prop :=
  ∀ (w : LaneW) (p : LaneSpec) (s : State) (c : Cur) (g : Group),
    let gang (f : Frag) : Bool := f.st == .ready && f.sup == c.sup && f.lpc == c.lpc
    let t := selected c g.ln w
    let after (fs : List Frag) : Group :=
      { g with
        ln := { g.ln with frags := fs, wait := if c.hold then .hold else .ready, hold := false, walked := [] }
        cnt := { g.cnt with lcnt := g.cnt.lcnt + 1 } }
    (LaneRuns s c g (.bra w) w p → (w.u = false ∨ t = 0 ∨ t = c.lanes) →
      ∃ fs, exec (.bra w) s = .next (s.setGroup (after fs)) ∧
        (∀ f ∈ fs, f.lanes ≠ 0 ∨ (f ∈ g.ln.frags ∧ gang f = false)) ∧
        ∀ k < 32, ∀ q : BitVec 32 × Bool × FragState,
          (∃ f ∈ fs, f.lanes.getLsbD k = true ∧ (f.lpc, f.sup, f.st) = q) ↔
            ∃ f ∈ g.ln.frags, f.lanes.getLsbD k = true ∧
              q = (if gang f then (if t.getLsbD k then w.imm else c.lpc + 1) else f.lpc, f.sup, f.st)) ∧
    (LaneRuns s c g (.bra w) w p → w.u = true → t ≠ 0 → t ≠ c.lanes → TrapReady s g 0x03 →
      exec (.bra w) s = .next (s.trapped { g with cnt := { g.cnt with lcnt := g.cnt.lcnt + 1 } } 0x03 true g.sc.spc
        (word t.toNat) c.lanes c.lpc)) ∧
    (LaneRuns s c g (.regang w) w p →
      exec (.regang w) s =
        .next (s.setGroup (after (g.ln.frags.map fun f => if gang f then { f with st := .regang w.u } else f)))) ∧
    (LaneRuns s c g (.lend w) w p →
      exec (.lend w) s = .next (s.setGroup (after (g.ln.frags.filter fun f => !gang f)).sleepEnded)) ∧
    (LaneRuns s c g (.lnop w) w p → exec (.lnop w) s = .next (s.setGroup (g.laneDone c))) ∧
    -- R149, R205, R206: a word that is no branch leaves its gang at the next LPC
    (∀ i, (i = .evtl w ∨ i = .ckacc w) → LaneRuns s c g i w p →
      ∃ t h, exec i s = .next t ∧ t.group? g.uid = some h ∧ h.ln.frags = (g.laneDone c).ln.frags ∧
        h.ln.wait = (g.laneDone c).ln.wait ∧ h.cnt = (g.laneDone c).cnt ∧ h.sc = g.sc) ∧
    -- R207: outside the handler, `ltrap` leaves its gang at the next LPC and the group in its trap handler
    (LaneRuns s c g (.ltrap w) w p → c.sup = false → TrapReady s g causeSwtrap →
      ∃ t h, exec (.ltrap w) s = .next t ∧ t.group? g.uid = some h ∧ h.ln.frags = (g.laneDone c).ln.frags ∧
        h.ln.frozen = true ∧ h.sc.sup = true ∧ h.sc.spc = handlerOf g.sr.tvb causeSwtrap ∧ h.sr.tpc = g.sc.spc ∧
        h.sr.tval = word w.imm.toNat ∧ h.sr.tlpc = word c.lpc.toNat ∧ h.sr.tmask = word c.lanes.toNat) ∧
    -- R264: in the handler, `fresume` leaves none of its gang there
    (LaneRuns s c g (.fresume w) w p → c.sup = true →
      ∃ t h, exec (.fresume w) s = .next t ∧ t.group? g.uid = some h ∧ (∀ f ∈ h.ln.frags, f.inGang true c.lpc = false) ∧
        (∀ f ∈ g.ln.frags, f.inGang true c.lpc = false → f ∈ h.ln.frags) ∧ h.cnt = (g.laneDone c).cnt ∧ h.sc = g.sc)

/-- R205 to R207, R264: `evtl` emits one event for an issue with an active lane, `ckacc` adds the active lanes' values to the
running block's sums, `ltrap` outside the handler raises SWTRAP with the gang at the next word, and `fresume` returns the
gang's fragments to user mode at the words that faulted.
Where the spec leaves the manner open it follows log entry 36. -/
def Obligations.LaneSystemWordsAct : Prop :=
  ∀ (w : LaneW) (p : LaneSpec) (s : State) (c : Cur) (g : Group),
    let act := (laneOpOf c g w).act
    let a (k : Nat) : W32 := (laneOpOf c g w).src w.a k
    (LaneRuns s c g (.evtl w) w p →
      exec (.evtl w) s = .next (match act with
        | [] => s.setGroup (g.laneDone c)
        | k :: _ => (s.setGroup (g.laneDone c)).emitG g 0x10 (w.imm.toNat % 2 ^ 16) (a k).toNat)) ∧
    (LaneRuns s c g (.ckacc w) w p → ∀ n : Fin 4, n.val = w.fn6.toNat →
      exec (.ckacc w) s = .next (s.setGroup ({ g with ln := { g.ln with
        runK := g.ln.runK.set n.val
          (g.ln.runK[n] + wordOf (act.map fun k => valueOf (w.md8.getLsbD 0) (a k)).sum) n.isLt } }.laneDone c))) ∧
    (LaneRuns s c g (.ltrap w) w p → c.sup = false → TrapReady s g causeSwtrap →
      exec (.ltrap w) s = .next (s.trapped
        { g with
          ln := { g.ln with frags := g.ln.frags.map fun f => if f.inGang c.sup c.lpc then { f with lpc := f.lpc + 1 } else f }
          cnt := { g.cnt with lcnt := g.cnt.lcnt + 1 } }
        causeSwtrap true g.sc.spc (word w.imm.toNat) c.lanes c.lpc)) ∧
    (LaneRuns s c g (.fresume w) w p → c.sup = true →
      ∃ h : Group, exec (.fresume w) s = .next (s.setGroup h) ∧
        h = { g with
          ln := { g.ln with frags := h.ln.frags, wait := if c.hold then .hold else .ready, hold := false, walked := [] }
          cnt := { g.cnt with lcnt := g.cnt.lcnt + 1 } } ∧
        (∀ f ∈ h.ln.frags, (f ∈ g.ln.frags ∧ f.inGang c.sup c.lpc = false) ∨
          (f.sup = false ∧ f.faults = [] ∧ f.lanes ≠ 0 ∧
            ∃ e ∈ g.ln.frags, e.inGang c.sup c.lpc = true ∧ f.slice = e.slice ∧
              ∀ k < 32, f.lanes.getLsbD k = true → e.lanes.getLsbD k = true ∧
                ∃ x ∈ e.faults, x.lane = k ∧ x.lpc = f.lpc)) ∧
        (∀ f ∈ g.ln.frags, f.inGang c.sup c.lpc = false → f ∈ h.ln.frags) ∧
        ∀ e ∈ g.ln.frags, e.inGang c.sup c.lpc = true → ∀ x ∈ e.faults, x.lane < 32 → e.lanes.getLsbD x.lane = true →
          ∃ f ∈ h.ln.frags, f.sup = false ∧ f.lpc = x.lpc ∧ f.lanes.getLsbD x.lane = true) ∧
    (LaneRuns s c g (.fresume w) w p → c.sup = false → TrapReady s g causeIllegal →
      exec (.fresume w) s = .next (s.trapped { g with cnt := { g.cnt with lcnt := g.cnt.lcnt + 1 } } causeIllegal true
        g.sc.spc (word ((encodeLane c.hold (.fresume w)).toNat / 2 ^ 32)) c.lanes c.lpc))

-- Lane memory words (spec/09).

/-- R250, R251, R271, R290: a lane load whose active lanes all reach their pages sends one request for each lane, two for a quad, in lane
order; its registers are pending, and no register and no byte of memory changes. A load from the Plumb replica returns the bytes that
the die's replica had, granule by granule, before some of the newest writes that the group has not seen, and its present bytes where
there is none.
Where the spec leaves the manner open it follows log entries 13 and 49. -/
def Obligations.LaneLoadsSendRequests : Prop :=
  ∀ (w : LaneW) (p : LaneSpec) (s : State) (c : Cur) (g : Group) (pa : Nat → Nat) (sc : Nat → Bool),
    LaneRuns s c g (.ld w) w p →
    let o := laneOpOf c g w
    let n := laneBytes w
    let signed := decide (5 ≤ w.md8.toNat % 8)
    let acq := w.fn6.getLsbD 3
    let scope := w.fn6.toNat % 8
    let parts := laneParts n o.act
    let op : MemOp := .load (min n 8) acq scope
    let rs := parts.zipIdx.map fun x =>
      laneRequest s c g x.2 0 (decide (w.md8.toNat / 8 % 4 = 2)) (pa x.1.1 + x.1.2) (laneVa o x.1.1 + wordOf x.1.2) (sc x.1.1) none op
    ((w.md8.toNat / 8 % 4 ≠ 3 ∧ ∀ k ∈ o.act, LaneAt s o .load k (pa k) (sc k)) →
      ∃ t, exec (.ld w) s = .next t ∧ OnlyGroup s t g.uid ∧ SameMemory s t ∧
        t.group? g.uid = some ((g.laneAwaiting c w.d.toNat (datumRegs n) (parts.zipIdx.map fun x =>
          ⟨x.1.1, s.sched.uid + x.2, 8 * x.1.2, .ext (min n 8) signed, none, none, none⟩)).laneSent c rs.length (scKeys rs)) ∧
        (t.core g.place.core).reqs = (s.core g.place.core).reqs ++ rs) ∧
    ((w.md8.toNat / 8 % 4 = 3 ∧ (s.die g.die).stale = false ∧ s.acquirePending g = false ∧
        ∀ k ∈ o.act, (laneVa o k).toNat % n = 0 ∧ 0 ≤ laneOff o k ∧ laneOff o k + n ≤ 0x100000 ∧
          s.holdsPage (stackOf g.die) g.place.ctx ((laneOff o k).toNat / 65536) = true) →
      let loc (k i : Nat) : Nat := plumbLoc (stackOf g.die) ((laneOff o k).toNat + i)
      ∃ (t : State) (missed : Nat → Nat → List PastWrite), exec (.ld w) s = .next t ∧
        (∀ k ∈ o.act, ∀ i, (k, i) ∈ parts → missed k i <+: s.order.unseen (loc k i / 8) (s.plumbSeen g)) ∧
        let value (k : Nat) : Nat := leNat ((parts.filter fun x => x.1 == k).flatMap fun x =>
          unseenBytes (missed k x.2) (loc k x.2) (memRead (s.die g.die).replica ((laneOff o k).toNat + x.2) (min n 8)))
        t = { if acq ∧ 2 ≤ scope then nearEmpty s g.place.core else s with
            order := t.order, sched := { s.sched with free := t.sched.free } }.setGroup
          ((g.laneAwaiting c w.d.toNat (datumRegs n) (o.act.map fun k => pieceOf k (extended n signed (value k)))).laneDone c))

/-- R252: a lane store that finds room puts one request for each active lane, two for a quad, into the store queue in lane
order, each taking an entry but for a write to a granule that the word has written before (R89); no register and no byte
of memory changes. One that finds no room waits with no effect.
Where the spec leaves the manner open it follows log entry 13. -/
def Obligations.LaneStoresQueueRequests : Prop :=
  ∀ (w : LaneW) (p : LaneSpec) (s : State) (c : Cur) (g : Group) (pa : Nat → Nat) (sc : Nat → Bool),
    LaneRuns s c g (.st w) w p →
    let o := laneOpOf c g w
    let n := laneBytes w
    let scratch := decide (w.md8.toNat / 8 % 4 = 2)
    let rel := if w.fn6.getLsbD 3 then some (w.fn6.toNat % 8) else none
    let parts := laneParts n o.act
    let granules := parts.map fun x => (pa x.1 + x.2) / 8
    let slots (i : Nat) : Nat := if granules.getD i 0 ∈ granules.take i then 0 else 1
    let rs := parts.zipIdx.map fun x =>
      laneRequest s c g x.2 (slots x.2) scratch (pa x.1.1 + x.1.2) (laneVa o x.1.1 + wordOf x.1.2) (sc x.1.1) rel
        (.store ((List.range (min n 8)).map fun j => BitVec.ofNat 8 (o.datumOf w.b n x.1.1 / 256 ^ (x.1.2 + j))))
    (∀ k ∈ o.act, LaneAt s o .store k (pa k) (sc k)) →
      (g.sqUsed + granules.eraseDups.length ≤ 64 →
        ∃ t, exec (.st w) s = .next t ∧ OnlyGroup s t g.uid ∧ SameMemory s t ∧
          t.group? g.uid = some ({ g with sq := g.sq ++ rs }.laneSent c rs.length (scKeys rs)) ∧
          (∀ m, (t.core m).reqs = (s.core m).reqs) ∧
          (t.core g.place.core).near = (if scratch then (s.core g.place.core).near
            else nearWithout (s.core g.place.core).near (parts.map fun x => (pa x.1 + x.2, min n 8)))) ∧
      (64 < g.sqUsed + granules.eraseDups.length →
        exec (.st w) s = .next (s.setGroup (g.laneWaiting c (.stall .storeQueue))))

/-- R254 to R257: an atomic or a reduction outside an idempotent region sends one request for each address class, in the order
of the lowest lanes, and the lanes of a class take their values from its old value; a reduction returns none.
Where the spec leaves the manner open it follows log entry 13. -/
def Obligations.LaneAtomicsSendOneRequestPerClass : Prop :=
  ∀ (i : Instr) (w : LaneW) (p : LaneSpec) (s : State) (c : Cur) (g : Group) (pa : Nat → Nat) (sc : Nat → Bool),
    (i = .atom w ∨ i = .atcas w ∨ i = .red w) → LaneRuns s c g i w p →
    let o := laneOpOf c g w
    let n := laneBytes w
    let scratch := decide (w.md8.toNat / 8 % 4 = 2)
    let lead (ks : List Nat) : Nat := ks.headD 0
    let rs := (laneClasses o).zipIdx.map fun x =>
      laneRequest s c g x.2 0 scratch (pa (lead x.1)) (laneVa o (lead x.1)) (sc (lead x.1)) none (classRequest i o x.1).1
    let ps := (laneClasses o).zipIdx.flatMap fun x =>
      (classRequest i o x.1).2.map fun y => LanePiece.mk y.1 (s.sched.uid + x.2) 0 y.2 none none none
    let h : Group := { g with used := true, sq := g.sq ++ rs }
    g.idem = false → (∀ k ∈ o.act, LaneAt s o .atomic k (pa k) (sc k)) →
      ∃ t, exec i s = .next t ∧ OnlyGroup s t g.uid ∧ SameMemory s t ∧
        t.group? g.uid = some ((if i = .red w then h else h.laneAwaiting c w.d.toNat (datumRegs n) ps).laneSent c rs.length (scKeys rs)) ∧
        (∀ m, (t.core m).reqs = (s.core m).reqs)

/-- R239, R354, R355: where lanes of a user-mode gang fault and LSV is not 0, each of them stands at the handler in supervisor
mode with its address, cause and LPC in the handler registers, and the other lanes complete the word; in the handler a
fault traps at group level (R356).
Where the spec leaves the manner open it follows log entry 35. -/
def Obligations.LaneFaultsEnterTheHandler : Prop :=
  ∀ (i : Instr) (acc : Acc) (w : LaneW) (p : LaneSpec) (s : State) (c : Cur) (g : Group) (faulting : List Nat)
    (cause : Nat → BitVec 8) (un : Nat → Bool) (pa : Nat → Nat) (sc : Nat → Bool),
    ((i = .ld w ∧ acc = .load) ∨ (i = .st w ∧ acc = .store) ∨
      ((i = .atom w ∨ i = .atcas w ∨ i = .red w) ∧ acc = .atomic ∧ g.idem = false)) →
    LaneRuns s c g i w p → (i = .st w → g.sqUsed = 0) → cellsWf g.ln.hv = true →
    let o := laneOpOf c g w
    (∀ k ∈ faulting, k ∈ o.act ∧ LaneFaultsAt s o acc k (cause k) (un k)) →
    (∀ k ∈ o.act, k ∉ faulting → LaneAt s o acc k (pa k) (sc k)) → faulting ≠ [] →
    (c.sup = false → g.sr.lsv ≠ 0 →
      ∃ t h, exec i s = .next t ∧ t.group? g.uid = some h ∧ OnlyGroup s t g.uid ∧ SameMemory s t ∧ h.sc = g.sc ∧ h.sr = g.sr ∧
        h.ln.v = g.ln.v ∧ h.ln.m = g.ln.m ∧
        (∀ k ∈ faulting,
          h.ln.readV true 0 k = half (laneVa o k).toNat ∧ h.ln.readV true 1 k = half ((laneVa o k).toNat / 2 ^ 32) ∧
          h.ln.readV true 2 k = half ((cause k).toNat
            + 256 * (match acc with | .load => 0 | .store => 1 | _ => 2) + 1024 * (w.md8.toNat % 8)
            + (if un k then 8192 else 0)) ∧
          h.ln.readV true 3 k = c.lpc ∧ ∀ r, 4 ≤ r → r < 8 → h.ln.readV true r k = 0) ∧
        (∀ k < 32, ∀ q : BitVec 32 × Bool × FragState,
          (∃ f ∈ h.ln.frags, f.lanes.getLsbD k = true ∧ (f.lpc, f.sup, f.st) = q) ↔
            ∃ f ∈ g.ln.frags, f.lanes.getLsbD k = true ∧
              q = (if f.inGang c.sup c.lpc then (if k ∈ faulting then (0, true, f.st) else (c.lpc + 1, f.sup, f.st))
                else (f.lpc, f.sup, f.st)))) ∧
    (c.sup = true → ∀ k, (o.act.find? fun k => decide (k ∈ faulting)) = some k → TrapReady s g (cause k).toNat →
      exec i s = .next (s.trapped { g with cnt := { g.cnt with lcnt := g.cnt.lcnt + 1 } } (cause k).toNat true g.sc.spc
        (laneVa o k) c.lanes c.lpc))

/-- R317: `accld` takes the bytes of the team's accumulator window as they stand, and `accst` stores into it, the higher
lane's value remaining; no other byte of memory changes. R263: `lsmap` in the handler maps the page of the lowest active
lane with a frame of the die's reserve pool where the level-0 entry is empty or untouched, and gives every active lane its
status; outside the handler it is ILLEGAL. -/
def Obligations.AccumulatorAndMapWordsAct : Prop :=
  (∀ (w : LaneW) (p : LaneSpec) (s : State) (c : Cur) (g : Group),
     let o := laneOpOf c g w
     let n := laneBytes w
     let place (k : Nat) : Nat := g.place.accbase.toNat + (laneOff o k).toNat
     let core := s.core g.place.core
     (LaneRuns s c g (.accld w) w p → (∀ k ∈ o.act, AccAt s o n k false) →
       exec (.accld w) s = .next (s.setGroup ((g.laneAwaiting c w.d.toNat (datumRegs n)
         (o.act.map fun k => pieceOf k (leNat (memRead core.acc (place k) n)))).laneDone c))) ∧
     (LaneRuns s c g (.accst w) w p → (∀ k ∈ o.act, AccAt s o n k true) → memWf core.acc = true →
       ∃ acc poison, exec (.accst w) s =
           .next ((s.setCore g.place.core { core with acc := acc, poisonA := poison }).setGroup (g.laneDone c)) ∧
         (∀ a, cellGet acc a = match (o.act.filter fun k => decide (place k ≤ a) && decide (a < place k + n)).getLast? with
           | some k => BitVec.ofNat 8 (o.datumOf w.b n k / 256 ^ (a - place k))
           | none => cellGet core.acc a) ∧
         ∀ x, x ∈ poison ↔ x ∈ core.poisonA ∧ ¬ ∃ k ∈ o.act, place k ≤ 8 * x ∧ 8 * x + 8 ≤ place k + n)) ∧
  (∀ (w : LaneW) (p : LaneSpec) (s : State) (c : Cur) (g : Group) (x : Context) (k : Nat),
     let o := laneOpOf c g w
     let va := o.src2 w.a k
     let attr := (o.src w.b k).toNat
     let d := s.die g.die
     let done (st : Nat) : Group := (g.laneAwaiting c w.d.toNat 1 (o.act.map fun i => pieceOf i st)).laneDone c
     let walk := s.levelZero (va.toNat % 2 ^ 53) 3 x.spec.root.toNat
     (LaneRuns s c g (.lsmap w) w p → c.sup = true → o.act.head? = some k → s.ctx? g.place.ctx = some x →
       (canonical va = false ∨ walk = none → exec (.lsmap w) s = .next (s.setGroup (done 3))) ∧
       (∀ pte e, canonical va = true → walk = some (pte, e) →
         (e % 8 = 2 → exec (.lsmap w) s = .next (s.setGroup (done 4))) ∧
         (∀ l, e % 8 = 3 → e / 2 ^ 11 % 4 = 0 → leafOf (va.toNat % 2 ^ 53) e 0 = .leaf l →
           exec (.lsmap w) s = .next (s.setGroup (done 1))) ∧
         ((e % 8 = 0 ∨ (e % 8 = 5 ∧ e / 2 ^ 11 % 4 = 0 ∧ e / 2 ^ 13 % 2 ^ 39 = 0)) →
           (d.ft.reserve = [] → exec (.lsmap w) s = .next (s.setGroup (done 2))) ∧
           ∀ f r, d.ft.reserve = f :: r →
             exec (.lsmap w) s = .next (((s.setDie g.die { d with ft := { d.ft with reserve := r } }).physWrite
               (s.keyOf (pte / 128)).world pte
                 (leBytes 8 (3 + 8 * (attr / 8 % 32) + f + 2 ^ 52 * (attr / 2 ^ 12 % 16)))).setGroup (done 0))))) ∧
     (LaneRuns s c g (.lsmap w) w p → c.sup = true → o.act = [] →
       exec (.lsmap w) s = .next (s.setGroup ((g.laneAwaiting c w.d.toNat 1 []).laneDone c))) ∧
     (LaneRuns s c g (.lsmap w) w p → c.sup = false → TrapReady s g causeIllegal →
       exec (.lsmap w) s = .next (s.trapped { g with cnt := { g.cnt with lcnt := g.cnt.lcnt + 1 } } causeIllegal true
         g.sc.spc (word ((encodeLane c.hold (.lsmap w)).toNat / 2 ^ 32)) c.lanes c.lpc)))

/-- R227, R228, R259 to R261: `send` and `recv` at the ends of a channel. A slot is written or taken at once where the counts
allow it, and the lane unit waits otherwise; a `send` in an idempotent region raises IDEMV. SEND_SLOT_WRITE and
RECV_DELIVERY complete a waiting word once it can complete.
Where the spec leaves the manner open it follows log entry 15. -/
def Obligations.ChannelWordsMoveSlots : Prop :=
  ∀ (w : LaneW) (s : State) (c : Cur) (g : Group) (tm : Team) (ch : Channel),
    (ChannelRuns s c g (.send w) w tm ch → g.idem = false → memWf (s.core g.place.core).scratch = true →
      (s.sendReady g ch (w.fn6.getLsbD 4) = true → ∃ t, exec (.send w) s = .next t ∧ SendDone s t c g w tm ch) ∧
      (s.sendReady g ch (w.fn6.getLsbD 4) = false →
        exec (.send w) s = .next (s.setGroup { g with used := true, ln := { g.ln with wait := .send c w } }))) ∧
    (ChannelRuns s c g (.send w) w tm ch → g.idem = true → TrapReady s g 0x0B →
      exec (.send w) s = .next (s.trapped { g with cnt := { g.cnt with lcnt := g.cnt.lcnt + 1 } } 0x0B true g.sc.spc 0
        c.lanes c.lpc)) ∧
    (ChannelRuns s c g (.recv w) w tm ch →
      (∀ k, k < 16 * slotWords ch → slotOf tm ch ch.c / 8 + k ∉ (s.core g.place.core).poisonS) →
      (s.recvReady g ch = true → ∃ t, exec (.recv w) s = .next t ∧ RecvDone s t c g w tm ch) ∧
      (s.recvReady g ch = false →
        exec (.recv w) s = .next (s.setGroup { g with ln := { g.ln with wait := .recv c w } }))) ∧
    (s.group? g.uid = some g → s.team? g.place.team = some tm → tm.channels[w.fn6.toNat % 16]? = some ch → g.life = .resident →
      g.ln.frozen = false → memWf (s.core g.place.core).scratch = true →
      (g.ln.wait = .send c w → s.sendReady g ch (w.fn6.getLsbD 4) = true →
        ∃ t, exec (.sendSlotWrite g.uid) s = .next t ∧ SendDone s t c g w tm ch) ∧
      (g.ln.wait = .recv c w → s.recvReady g ch = true →
        (∀ k, k < 16 * slotWords ch → slotOf tm ch ch.c / 8 + k ∉ (s.core g.place.core).poisonS) →
        ∃ t, exec (.recvDelivery g.uid) s = .next t ∧ RecvDone s t c g w tm ch))

/-- R265 to R270: the `bar` words on a barrier of the group's own team. An arrival counts in the word and, by the test of
R267, ends the phase, which releases the groups parked on it; a wait on a phase that has ended completes at once and parks
otherwise. BAR_WAIT_RELEASE gives a released group its result; `bar.arvx` sends a remote arrival and parks; and
BAR_ARVX_ACKNOWLEDGE applies it once its release is performed and lets the group go on.
Where the spec leaves the manner open it follows log entry 12. -/
def Obligations.BarriersCountArrivals : Prop :=
  (∀ (s : State) (c : Cur) (g : Group) (tm : Team) (d a b : BitVec 6),
     let o := g.getS a
     let x := g.place.sxbase.toNat + o.toNat
     let w := barNumber s g.place.core x
     let one := barAfter tm.killed 1 w
     let test := barAfter tm.killed 0 w
     let phase (w : Nat) : Nat := w / 2 ^ 32 % 2 ^ 16
     let others (t : State) (tm : Team) (r : Nat × Bool) : Prop :=
       ∀ v, v ≠ g.uid → t.group? v = (s.group? v).map fun h => if r.2 then releasedBy tm x r.1 h else h
     let finished (t : State) (g : Group) (p : Nat) (w : Nat) : Prop :=
       t.group? g.uid = some ((g.awaiting d.toNat (wordOf (2 ^ 32 * p + w / 2 ^ 48 % 2))).completed c.hold (g.sc.spc + 4)) ∧
         (2 ≤ tm.phaseScope x p → (t.core g.place.core).near = [])
     BarAt s g o tm →
     (Runs s c g (.barInit a b) →
       let w := (g.getS b).toNat % 2 ^ 16
       let tm' := { tm with remote := tm.remote.filter fun r => r.1 != x }
       ∃ t, exec (.barInit a b) s = .next t ∧ t.group? g.uid = some (g.completed c.hold (g.sc.spc + 4)) ∧
         OnlyBarrier s t g.place.core x w ∧ others t tm' (w, true)) ∧
     (∀ i, (i = .barArvRlx d a ∨ i = .barArvRel d a) → Runs s c g i → g.idem = false → s.rlxReady g = true →
       (i = .barArvRel d a → s.relReady g = true) →
       ∃ t, exec i s = .next t ∧
         t.group? g.uid = some (({ g with used := true }.awaiting d.toNat (wordOf (phase w))).completed c.hold (g.sc.spc + 4)) ∧
         OnlyBarrier s t g.place.core x one.1 ∧ others t tm one) ∧
     (Runs s c g (.barArw d a) → g.idem = false → s.rlxReady g = true → s.relReady g = true →
       ∃ t, exec (.barArw d a) s = .next t ∧ OnlyBarrier s t g.place.core x one.1 ∧ others t tm one ∧
         if one.2 then finished t { g with used := true } (phase w) one.1
         else t.group? g.uid = some ({ g with used := true }.waiting c.hold (.barWait d.toNat x (phase w) true))) ∧
     (Runs s c g (.barWait d a b) →
       let p := (g.getS b).toNat % 2 ^ 16
       ∃ t, exec (.barWait d a b) s = .next t ∧ OnlyBarrier s t g.place.core x test.1 ∧ others t tm test ∧
         if phase test.1 ≠ p then finished t g p test.1
         else t.group? g.uid = some (g.waiting c.hold (.barWait d.toNat x p false))) ∧
     (Runs s c g (.barQuery d a) →
       ∃ t h, exec (.barQuery d a) s = .next t ∧ t.group? g.uid = some h ∧ OnlyGroup s t g.uid ∧ SameMemory s t ∧
         (t.core g.place.core).reqs = (s.core g.place.core).reqs ++
           [⟨s.sched.uid, g.origin (s.worldOf g) false g.sc.spc, g.seq, g.sc.laneSeq, g.seq, 0, true, x, o, false, none, 0,
             .load 8 false 0⟩] ∧
         h.sc.outst = g.sc.outst ++ [⟨d.toNat, s.sched.uid, .ext 8 false, g.sc.spc, none, none, none⟩] ∧
         (∀ r, h.pending r = (g.pending r || (decide (r = d.toNat) && decide (r ≠ 0)))) ∧
         h.sc.s = g.sc.s ∧ h.sc.spc = g.sc.spc + 4)) ∧
  (∀ (s : State) (g : Group),
     (∀ d r scope arw, s.group? g.uid = some g → g.life = .resident → g.sc.entry = none → g.stop = none →
       g.sc.wait = .barDone d r scope arw →
       exec (.barWaitRelease g.uid) s =
         .next ((if 2 ≤ scope then s.setCore g.place.core { s.core g.place.core with near := [] } else s).setGroup
           ((g.awaiting d r).completed g.sc.hold (g.sc.spc + 4)))) ∧
     (∀ (c : Cur) (a : BitVec 6) (tm : Team) (d : Grid),
       let x := (g.getS a).toNat
       let core := 128 * (x / 2 ^ 31 % 2 ^ 4) + x / 2 ^ 24 % 2 ^ 7
       Runs s c g (.barArvx a) → x < 2 ^ 35 → x % 8 = 0 → (s.die (core / 128)).world = s.worldOf g →
       s.windowTeam core (x % 2 ^ 24) = some tm → s.grid? tm.grid = some d → d.ctx = g.place.ctx → g.idem = false →
       (core = g.place.core → (s.core core).locked 0 0 (x % 2 ^ 24) 8 true = false) →
       ∃ t h, exec (.barArvx a) s = .next t ∧ t.group? g.uid = some h ∧ OnlyGroup s t g.uid ∧ SameMemory s t ∧
         h = { g with used := true, seq := g.seq + 1, sq := h.sq }.parkedAfter c.hold .barArvx ∧
         h.sq = g.sq ++ [⟨s.sched.uid, g.origin (s.worldOf g) false g.sc.spc, g.seq, g.sc.laneSeq, g.seq, 0, false, 0, 0, false,
           none, 0, .marker (scopeBetween g.place.core core) false⟩] ∧
         t.arrivals = s.arrivals ++ [⟨g.origin (s.worldOf g) false g.sc.spc, tm.uid, core, x % 2 ^ 24, scopeBetween g.place.core core,
           some s.sched.uid⟩]) ∧
     (∀ (r : Arrival) (tm : Team),
       let w := barNumber s r.core r.offset
       let one := barAfter tm.killed 1 w
       s.arrivals = [r] → r.who.g = g.uid → s.releasedOpt r.marker = true → s.team? r.team = some tm → tm.saved = none →
       tm.core = r.core → tm.uid ≠ g.place.team → g.uid ∉ tm.members → memWf (s.core r.core).scratch = true →
       s.group? g.uid = some g → g.sc.wait = .barArvx → g.sc.entry = none → g.stop = none →
       ∃ t, exec (.barArvxAcknowledge g.uid) s = .next t ∧ t.arrivals = [] ∧ OnlyBarrier s t r.core r.offset one.1 ∧
         t.group? g.uid = some { g with sc := { g.sc with wait := if g.sc.hold then .hold else .ready, hold := false } } ∧
         ∀ v, v ≠ g.uid → t.group? v = (s.group? v).map fun h =>
           if one.2 then releasedBy { tm with remote := tm.remote ++ [(r.offset, w / 2 ^ 32 % 2 ^ 16, r.scope)] } r.offset one.1 h
           else h))

-- The matrix arrays (spec/11).

/-- R299, R300, R307, R308, R314 to R316, R320, R321: the matrix words. `mgang` takes a legal gang word; `mma` arrives at the
latch of its quad, in an open entry of its own gang word or in a new one, and parks; `accz` and `accv` start an operation
that holds its locks; `mwait` completes when few enough operations are outstanding and adds the covered checksums. The
checksum words. `ckchk` completes when the pair agrees and raises CHECK with the reason when it does not.
Where the spec leaves the manner open it follows log entries 15 and 36. -/
def Obligations.MatrixAndChecksumWordsAct : Prop :=
  (∀ (d a b : BitVec 6) (s : State) (c : Cur) (g : Group),
     let fb := g.getS a
     let shape := g.getS b
     let ow := g.getS d
     let w := mmaWords (g.gang.toNat % 8) fb shape ow
     let quad := g.place.core / 4
     let me : Arrived := ⟨g.uid, 16 * (g.place.core % 4) + g.place.slot, g.place.grid, g.gang, fb, shape, ow⟩
     let started (o : MatOp) : State :=
       let core := s.core g.place.core
       { s with sched := { s.sched with uid := s.sched.uid + 1 }, mats := s.mats ++ [o] }.setCore g.place.core
         { core with locks := core.locks ++ o.locks }
     (Runs s c g (.mgang a) → GangWord g (g.getS a).toNat →
       exec (.mgang a) s = .next (s.setGroup ({ g with gang := g.getS a }.completed c.hold (g.sc.spc + 4)))) ∧
     (Runs s c g (.mgang a) → ¬ GangWord g (g.getS a).toNat → TrapReady s g causeIllegal →
       exec (.mgang a) s = .next (s.trapped g causeIllegal false g.sc.spc (word (encodeWord c.hold (.mgang a)).toNat) 0 0)) ∧
     (Runs s c g (.mma d a b) → MmaWordsOk g fb shape ow w → matCount s g.uid < 8 →
       ((∀ l ∈ s.latches, l.1 ≠ quad) →
         exec (.mma d a b) s = .next ({ s with latches := s.latches ++ [(quad, Latch.mk g.gang s.clk.clock [me])] }.setGroup
           (g.waiting c.hold .latch))) ∧
       (∀ before l after, s.latches = before ++ (quad, l) :: after →
         (∀ x ∈ before, x.1 ≠ quad ∨ x.2.gang ≠ g.gang ∨ me.me ∈ x.2.members.map fun m => m.me) →
         l.gang = g.gang → me.me ∉ (l.members.map fun m => m.me) →
         exec (.mma d a b) s =
           .next ({ s with latches := before ++ (quad, { l with members := l.members ++ [me] }) :: after }.setGroup
             (g.waiting c.hold .latch)))) ∧
     (Runs s c g (.accz a b) → (g.getS a).toNat < 2 ^ 16 → (g.getS b).toNat % 16 = 0 →
       16 * (g.getS a).toNat + (g.getS b).toNat ≤ g.place.accsize.toNat →
       let o := matOpOf s g (.zero (16 * (g.getS a).toNat) (g.getS b).toNat)
       ((g.getS b).toNat = 0 → exec (.accz a b) s = .next (s.setGroup (g.completed c.hold (g.sc.spc + 4)))) ∧
       ((g.getS b).toNat ≠ 0 → s.mayAccept o = true → s.lockTurn g.place.core g.place.slot (s.clk.clock + 1) = true →
         exec (.accz a b) s =
           .next ((started o).setGroup ({ g with seq := g.seq + 1 }.completed c.hold (g.sc.spc + 4))))) ∧
     (Runs s c g (.accv d a b) → convLegal fb ow shape = true → ow.toNat % 2 ^ 24 % 8 = 0 → ow.toNat / 2 ^ 24 % 8 = 0 →
       let cols := fb.toNat / 2 ^ 23 % 2 ^ 10
       let rows := fb.toNat / 2 ^ 16 % 2 ^ 7
       16 * (fb.toNat % 2 ^ 16) + 4 * rows * cols ≤ g.place.accsize.toNat →
       ow.toNat % 2 ^ 24 + (rows - 1) * (ow.toNat / 2 ^ 24) + cols * formatWidth (shape.toNat % 16) / 8 ≤ g.place.sxsize.toNat →
       let o := matOpOf s g (.conv fb ow shape)
       s.mayAccept o = true → s.lockTurn g.place.core g.place.slot (s.clk.clock + 1) = true →
       exec (.accv d a b) s =
         .next ((started o).setGroup ({ g with seq := g.seq + 1 }.completed c.hold (g.sc.spc + 4)))) ∧
     (Runs s c g (.mwait a) → matCount s g.uid ≤ (g.getS a).toNat →
       ∃ h, Covered g h ∧ exec (.mwait a) s = .next ((s.learnAt g false false [] []).setGroup (h.completed c.hold (g.sc.spc + 4)))) ∧
     (Runs s c g (.mwait a) → (g.getS a).toNat < matCount s g.uid →
       exec (.mwait a) s = .next (s.setGroup (g.waiting c.hold (.mwait (g.getS a).toNat))))) ∧
  (∀ (k : BitVec 2) (r : BitVec 6) (s : State) (c : Cur) (g : Group),
     let t := (g.getS r).toNat
     let x := if (g.getS r).getLsbD 1 then g.k[0] else g.k[2]
     let y := if (g.getS r).getLsbD 1 then g.k[1] else g.k[3]
     (Runs s c g (.ckclr k) →
       exec (.ckclr k) s = .next (s.setGroup ({ g with k := g.k.set k.toNat 0 k.isLt }.completed c.hold (g.sc.spc + 4)))) ∧
     (Runs s c g (.ckrd r k) →
       exec (.ckrd r k) s =
         .next (s.setGroup ((g.awaiting r.toNat (g.k[k.toNat]'k.isLt)).completed c.hold (g.sc.spc + 4)))) ∧
     (Runs s c g (.ckadd k r) →
       exec (.ckadd k r) s = .next (s.setGroup ({ g with
         k := g.k.set k.toNat (wordOf ((g.k[k.toNat]'k.isLt).toNat + (g.getS r).toNat)) k.isLt }.completed c.hold
           (g.sc.spc + 4)))) ∧
     (Runs s c g (.ckchk r) → (t = 1 ∨ t = 3) →
       (x = y → exec (.ckchk r) s = .next (s.setGroup (g.completed c.hold (g.sc.spc + 4)))) ∧
       (x ≠ y → TrapReady s g 0x08 → exec (.ckchk r) s = .next (s.trapped g 0x08 false g.sc.spc 3 0 0))) ∧
     (Runs s c g (.ckchk r) → (t = 5 ∨ t = 7) →
       (x.toNat % 2 ^ 32 = y.toNat % 2 ^ 32 → exec (.ckchk r) s = .next (s.setGroup (g.completed c.hold (g.sc.spc + 4)))) ∧
       (x.toNat % 2 ^ 32 ≠ y.toNat % 2 ^ 32 → TrapReady s g 0x08 →
         exec (.ckchk r) s = .next (s.trapped g 0x08 false g.sc.spc 3 0 0))) ∧
     (Runs s c g (.ckchk r) → t % 2 = 0 → toleranceLegal (g.getS r) = true →
       (checkReason (g.getS r) x y = none → exec (.ckchk r) s = .next (s.setGroup (g.completed c.hold (g.sc.spc + 4)))) ∧
       (∀ q, checkReason (g.getS r) x y = some q → TrapReady s g 0x08 →
         exec (.ckchk r) s = .next (s.trapped g 0x08 false g.sc.spc (word q) 0 0))))

/-- R298, R308, R309, R311, R314, R336: the steps of the arrays. RENDEZVOUS captures the shares of a full entry and hands each member its
part; LATCH_TIMEOUT raises GANGMIS; MMA_ACCEPT takes the locks in its turn and lets the stream go on; MMA_PART_COMPLETE of an operation
that may run writes the tile, the zeros or the converted rows, and no other byte; MWAIT_COMPLETE ends a wait.
Where the spec leaves the manner open it follows log entry 38. -/
def Obligations.MatrixStepsAct : Prop :=
  ∀ (s : State),
    (∀ (quad k : Nat) (l : Latch), (s.entriesOf quad)[k]? = some l → l.full = true → s.latchReason l = none →
      (∀ m ∈ l.members, s.captureReady m = true) → ((l.inOrder.map fun m => m.g).Nodup) →
      let caps := l.inOrder.map s.captureShare
      ∃ t, exec (.rendezvous quad k) s = .next t ∧ t.latches = s.latches.erase (quad, l) ∧ SameMemory s t ∧
        t.mats = s.mats ++ (l.inOrder.zipIdx.filterMap fun m => (s.group? m.1.g).map fun g =>
          { matOpOf s g (.part m.2 l.inOrder.length m.1.fb m.1.shape m.1.ow (caps.map fun c => c.1) (caps.map fun c => c.2.1)
              (caps.getD m.2 ([], [], none, none)).2.2.1 (caps.getD m.2 ([], [], none, none)).2.2.2) with
            uid := s.sched.uid + m.2, accepted := false }) ∧
        ∀ m ∈ l.inOrder.zipIdx, ∀ g, s.group? m.1.g = some g →
          t.group? m.1.g = some { g with
            seq := g.seq + 1
            sc := { g.sc with wait := .accept (s.sched.uid + m.2) }
            ln := { g.ln with badOne := g.ln.badOne.filter fun k =>
              !(g.shareOne (mmaWords (m.1.gang.toNat % 8) m.1.fb m.1.shape m.1.ow)).contains k } }) ∧
    (∀ (quad k : Nat) (l : Latch) (a : Arrived) (g : Group), (s.entriesOf quad)[k]? = some l → l.members = [a] →
      l.first + 2 ^ 20 ≤ s.clk.clock → l.full = false → s.group? a.g = some g → g.sc.wait = .latch →
      g.life = .resident → g.stop = none → g.sc.outst = [] → g.ln.outst = [] → g.ln.wait.binding = false →
      4096 ≤ g.sr.tvb.toNat → s.fetchFails g (handlerOf g.sr.tvb 0x07) = some false →
      ∃ t, exec (.latchTimeout quad k) s = .next t ∧ (∀ x ∈ t.latches, a.g ∉ x.2.members.map fun m => m.g) ∧
        t.group? a.g = some ({ g with sc := { g.sc with wait := .ready } }.inHandler s.clk.clock 0x07 true false g.sc.spc 2 0 0)) ∧
    (∀ (o : MatOp) (g : Group), s.mats.find? (fun x => x.uid == o.uid) = some o → o.accepted = false →
      s.group? o.who.g = some g → g.sc.wait = .accept o.uid → s.mayAccept o = true →
      (∃ n, o.since = some n ∧ s.lockTurn o.who.core o.who.slot n = true) → g.sc.entry = none → g.stop = none →
      ∃ t, exec (.mmaAccept o.uid) s = .next t ∧ OnlyGroup s t g.uid ∧ SameMemory s t ∧
        t.mats = s.mats.filter (fun x => x.uid != o.uid) ++ [{ o with accepted := true, since := none }] ∧
        (t.core o.who.core).locks = (s.core o.who.core).locks ++ o.locks ∧
        t.group? g.uid = some (g.completed g.sc.hold (g.sc.spc + 4))) ∧
    (∀ (o : MatOp), s.mats.find? (fun x => x.uid == o.uid) = some o → o.accepted = true →
      s.matReady o = true → (∀ e, o.early = some e → e.2.2 = none) →
      (s.core o.who.core).poisonS = [] → (s.core o.who.core).poisonA = [] → memWf (s.core o.who.core).acc = true →
      memWf (s.core o.who.core).scratch = true →
      (∀ member count fb shape ow b bscl r x, o.kind = .part member count fb shape ow b bscl r x → r = none ∧ x = none) →
      ∃ t, exec (.mmaPartComplete o.uid) s = .next t ∧ t.mats = s.mats.filter (fun x => x.uid != o.uid) ∧ t.mem = s.mem ∧
        (t.core o.who.core).locks = (s.core o.who.core).locks.filter (fun x => x.op != o.uid) ∧
        (∀ n, n ≠ o.who.core → (t.core n) = (s.core n)) ∧
        let old := s.core o.who.core
        let new := t.core o.who.core
        match o.kind with
        | .zero lo len => new.scratch = old.scratch ∧ BytesAt old.acc new.acc (o.accbase + lo) (List.replicate len 0)
        | .conv region dest how =>
          let cols := region.toNat / 2 ^ 23 % 2 ^ 10
          let rows := region.toNat / 2 ^ 16 % 2 ^ 7
          let lo := o.accbase + 16 * (region.toNat % 2 ^ 16)
          let place (r : Nat) : Nat := o.sxbase + dest.toNat % 2 ^ 24 + r * (dest.toNat / 2 ^ 24 % 2 ^ 24)
          let row (r : Nat) : List Byte := convRow how ((List.range cols).map fun i =>
            leNat (memRead old.acc (lo + 4 * (r * cols + i)) 4))
          new.acc = old.acc ∧
            (convLegal region dest how = true →
              (∀ r < rows, ∀ j < (row r).length, cellGet new.scratch (place r + j) = (row r).getD j 0) ∧
              ∀ x, (∀ r < rows, x < place r ∨ place r + (row r).length ≤ x) → cellGet new.scratch x = cellGet old.scratch x)
        | .part _ count fb shape ow b bscl _ _ =>
          let w := mmaWords count fb shape ow
          let a := match o.early with
            | some e => (e.1, e.2.1)
            | none => (memRead old.scratch (o.sxbase + 8 * w.aaddr) w.aBytes,
              memRead old.scratch (o.sxbase + 8 * w.ascl) w.asclBytes)
          let x : MatData := ⟨w, a.1, a.2, b, bscl⟩
          let place (m n : Nat) : Nat := o.accbase + 16 * w.accoff + 4 * (m * w.n + n)
          let prior (m n : Nat) : Nat := leNat (memRead old.acc (place m n) 4)
          new.scratch = old.scratch ∧
            (∀ m < w.m, ∀ n < w.n, leNat (memRead new.acc (place m n) 4) = x.element (prior m n) m n) ∧
            (∀ y, y < place 0 0 ∨ place 0 0 + 4 * w.m * w.n ≤ y → cellGet new.acc y = cellGet old.acc y) ∧
            -- R54: an integer element without saturation is the sum of the products, modulo 2^32
            (w.int = true → w.sat = false → ∀ m n, x.element (prior m n) m n = (laneWordOf
              ((if w.acc then (prior m n : Int) else 0)
                + ((List.range w.k).map fun k => intOf (x.aVal m k) * intOf (x.bVal k n)).sum)).toNat)) ∧
    (∀ (g : Group) (n : Nat), s.group? g.uid = some g → g.life = .resident → g.sc.wait = .mwait n → matCount s g.uid ≤ n →
      g.sc.entry = none → g.stop = none →
      ∃ h, Covered g h ∧ exec (.mwaitComplete g.uid) s = .next ((s.learnAt g false false [] []).setGroup (h.completed g.sc.hold (g.sc.spc + 4))))

-- The copy engines (spec/12).

/-- R322 to R328, R336, R340, R341: a `cpy` or `coll` whose records are read and valid starts an operation: with a free token
and no conflicting lock it is accepted, its token is the result and it holds its locks; otherwise the word waits. A `coll`
in an idempotent region raises IDEMV.
Where the spec leaves the manner open it follows log entries 19 and 44. -/
def Obligations.EngineWordsStartAnOperation : Prop :=
  ∀ (i : Instr) (s s' : State) (c : Cur) (g : Group) (d : BitVec 6) (kind : EngKind) (base : Word),
    Runs s c g i → EngineWord s g i d kind s' base →
    let o := engOpOf s' g d kind
    let h : Group := { g with used := g.used || kind.isColl, seq := g.seq + 1 }
    let waits : State := { s'.counted 0 1 with engs := s'.engs ++ [o] }.setGroup (h.waiting c.hold (.copyToken o.uid))
    SameMemory s s' ∧ s'.groups = s.groups ∧ s'.engs = s.engs ∧
    (kind.isColl = true → g.idem = true → TrapReady s' g 0x0B →
      exec i s = .next (s'.trapped g 0x0B false g.sc.spc 0 0 0)) ∧
    (kind.isColl = false ∨ g.idem = false →
      (∀ tok, TokenFor g tok →
        let p := { o with token := tok, base := base, started := some s.clk.clock }
        -- R336: no entry conflicts, and no operation that waits could have been accepted earlier
        let free := (s.core g.place.core).mayLock p.locks [] = true
        let turn := p.locks = [] ∨ s.lockTurn g.place.core g.place.slot (s.clk.clock + 1) = true
        (free → turn →
          ∃ t, exec i s = .next t ∧ OnlyGroup s t g.uid ∧ SameMemory s t ∧ t.engs = s.engs ++ [p] ∧
            (t.core g.place.core).locks = (s.core g.place.core).locks ++ p.locks ∧
            t.group? g.uid = some (({ h with tokens := g.tokens.set tok ⟨some o.uid, [], none⟩, lastTok := tok }.awaiting d.toNat
              (word tok)).completed c.hold (g.sc.spc + 4))) ∧
        (¬ (free ∧ turn) → exec i s = .next waits)) ∧
      ((∀ t < 16, (g.token t).op ≠ none) → g.tokens.length = 16 → exec i s = .next waits))

/-- R322, R323, R336, R338, R339: tokens complete, and the waits for them. `cpyw`, `cpyw.poll` and `yieldc` raise the recorded fault of the
lowest token, or complete with the completions observed; CPYW_COMPLETE and YIELDC_CONTINUATION end the waits. COPY_START gives an
operation its token, COPY_DONE and COLLECTIVE_COMPLETE complete it, and COLLECTIVE_TIMEOUT completes it with GANGMIS (R327, R334, R342).
Where the spec leaves the manner open it follows log entries 15 and 44. -/
def Obligations.TokenWordsAct : Prop :=
  ∀ (s : State) (c : Cur) (g : Group) (d a : BitVec 6) (o : BitVec 13),
    let m := g.getS a
    let target := wordOf (g.sc.spc.toNat + 4 * o.toInt)
    let ready (m : Word) : Prop := ∀ t < 16, m.getLsbD t = true → (g.token t).op = none
    let good (m : Word) : Prop := ∀ t < 16, m.getLsbD t = true → (g.token t).op = none → (g.token t).fault = none
    let done (m : Word) : Word := word (numberOf 16 fun t => m.getLsbD t && (g.token t).op.isNone)
    let blank (h : Group) : Group := { h with sc := { h.sc with pend := 0, last := none } }
    let faulty (m : Word) (t : Nat) (f : TokenFault) : Prop :=
      t < 16 ∧ m.getLsbD t = true ∧ (g.token t).op = none ∧ (g.token t).fault = some f ∧ f.cause ≠ 9 ∧ f.cause ≠ 10 ∧
        (∀ k < t, m.getLsbD k = true → (g.token k).op = none → (g.token k).fault = none) ∧ TrapReady s g f.cause.toNat
    let raised (t : Nat) (f : TokenFault) : State :=
      s.trapped { g with tokens := g.tokens.set t { g.token t with fault := none } } f.cause.toNat false g.sc.spc f.value 0 0
    g.tokens.length = 16 → g.unhindered →
    (∀ i, (i = .cpyw d a ∨ i = .cpywPoll d a) → Runs s c g i → m.toNat < 2 ^ 16 → (i = .cpyw d a → ready m) →
      (good m → ∃ h, Observed g h m ∧ exec i s =
        .next ((nearObserved s g m).setGroup ((h.awaiting d.toNat (done m)).completed c.hold (g.sc.spc + 4)))) ∧
      (∀ t f, faulty m t f → exec i s = .next (raised t f))) ∧
    (Runs s c g (.cpyw d a) → m.toNat < 2 ^ 16 → ¬ ready m →
      exec (.cpyw d a) s = .next (s.setGroup (g.waiting c.hold (.cpyw d.toNat m)))) ∧
    (Runs s c g (.yieldc a o) → m.toNat < 2 ^ 16 → ready m → g.sc.outst = [] →
      (good m → ∃ h, Observed g h m ∧ exec (.yieldc a o) s =
        .next ((nearObserved s g m).setGroup ((blank h).completed c.hold target))) ∧
      (∀ t f, faulty m t f → exec (.yieldc a o) s = .next (raised t f))) ∧
    (Runs s c g (.yieldc a o) → m.toNat < 2 ^ 16 → ¬ (ready m ∧ g.sc.outst = []) →
      exec (.yieldc a o) s = .next (s.setGroup (g.waiting c.hold (.yieldc m target)))) ∧
    (∀ m d, s.group? g.uid = some g → g.life = .resident → g.sc.wait = .cpyw d m → ready m → good m →
      ∃ h, Observed g h m ∧ exec (.cpywComplete g.uid) s =
        .next ((nearObserved s g m).setGroup ((h.awaiting d (done m)).completed g.sc.hold (g.sc.spc + 4)))) ∧
    (∀ m target, s.group? g.uid = some g → g.life = .resident → g.sc.wait = .yieldc m target → ready m → g.sc.outst = [] →
      good m → ∃ h, Observed g h m ∧ exec (.yieldcContinuation g.uid) s =
        .next ((nearObserved s g m).setGroup ((blank h).completed g.sc.hold target))) ∧
    -- R334, R343: an operation whose data has moved, with no write of it unacknowledged, completes its token
    (∀ (p : EngOp) (ids : List Nat) (i : Instr), s.engs.find? (fun x => x.uid == p.uid) = some p → p.who.g = g.uid →
      s.group? g.uid = some g → p.acks = some ids → (∀ x ∈ ids, ∀ y ∈ s.outb, y.id ≠ x) →
      ((i = .copyDone p.uid ∧ p.kind.isColl = false ∧ s.engineReady p = true) ∨ (i = .collectiveComplete p.uid ∧ p.kind.isColl = true)) →
      ∃ t, exec i s = .next t ∧ t.engs = s.engs.filter (fun x => x.uid != p.uid) ∧ OnlyGroup s t g.uid ∧ SameMemory s t ∧
        (t.core p.who.core).locks = (s.core p.who.core).locks.filter (fun x => x.op != p.uid) ∧
        t.group? g.uid = some { g with tokens := g.tokens.set p.token ⟨none, p.wrote, p.fault⟩ }.sleepEnded) ∧
    -- R327, R336: an operation that waited for a token or for its locks is accepted once it may be
    (∀ (p : EngOp) (tok : Nat), s.engs.find? (fun x => x.uid == p.uid) = some p → p.who.g = g.uid → s.group? g.uid = some g →
      g.place.core = p.who.core → p.started = none → g.sc.wait = .copyToken p.uid → g.life = .resident → TokenFor g tok →
      (∀ k x u l r q, p.kind = .copy k x u l r q → u = false) →
      let base := match p.kind with | .copy _ _ _ _ _ q => q.base | .coll _ _ _ _ => 0
      let locks := { p with token := tok, base := base }.locks
      (s.core p.who.core).mayLock locks [] = true →
      (locks = [] ∨ { s with engs := s.engs.filter fun x => x.uid != p.uid }.lockTurn g.place.core g.place.slot
        (p.since.getD (s.clk.clock + 1)) = true) →
      ∃ t h, exec (.copyStart p.uid) s = .next t ∧ t.group? g.uid = some h ∧ h.tokens = g.tokens.set tok ⟨some p.uid, [], none⟩ ∧
        h.lastTok = tok ∧ h.sc.spc = g.sc.spc + 4 ∧ h.sc.wait = (if g.sc.hold then .hold else .ready) ∧
        (t.core p.who.core).locks = (s.core p.who.core).locks ++ locks) ∧
    -- R342: a collective that has waited for a member for 2^24 clocks completes its members' tokens with GANGMIS
    (∀ (p : EngOp) (m : CollMember), s.engs.find? (fun x => x.uid == p.uid) = some p → p.member = some m →
      let ms := s.collMembers m
      (ms.length < m.r.nmem ∧ ∃ x ∈ ms, ∃ n, x.o.started = some n ∧ n + 2 ^ 24 ≤ s.clk.clock) →
      (∀ x ∈ ms, ∃ h, s.group? x.o.who.g = some h ∧ x.o.token < h.tokens.length) →
      (ms.map fun x => (x.o.who.g, x.o.token)).Nodup →
      ∃ t, exec (.collectiveTimeout p.uid) s = .next t ∧ SameMemory s t ∧ (∀ x ∈ ms, ∀ y ∈ t.engs, y.uid ≠ x.o.uid) ∧
        ∀ x ∈ ms, ∃ h, t.group? x.o.who.g = some h ∧
          h.token x.o.token = ⟨none, x.o.wrote, some ⟨0x07, 2, x.o.who.pc⟩⟩)

/-- R322, R329 to R336, R342, R343: COPY_START accepts a waiting operation; COPY_DONE moves the rows of an operation, changes
no other byte, releases its locks and completes its token; COLLECTIVE_COMPLETE writes the result of a collective whose
members have all issued, or completes their tokens with GANGMIS where they do not agree, as COLLECTIVE_TIMEOUT does after
2^24 clocks.
Where the spec leaves the manner open it follows log entry 19. -/
def Obligations.EngineStepsAct : Prop :=
  ∀ (s : State) (o : EngOp), s.engs.find? (fun x => x.uid == o.uid) = some o →
    let core := s.core o.who.core
    let tokenIs (t : State) (g : Group) (lines : List Nat) (f : Option TokenFault) : Prop :=
      t.group? g.uid = some { g with tokens := g.tokens.set o.token ⟨none, lines, f⟩ }.sleepEnded
    (∀ (g : Group) (tok : Nat), s.group? o.who.g = some g → g.place.core = o.who.core → o.started = none →
      g.sc.wait = .copyToken o.uid → g.life = .resident → g.unhindered → TokenFor g tok →
      (∀ k x u l r p, o.kind = .copy k x u l r p → u = false) →
      let base := match o.kind with | .copy _ _ _ _ _ p => p.base | .coll _ _ _ _ => 0
      let p := { o with token := tok, base := base, started := some s.clk.clock, since := none }
      core.mayLock p.locks [] = true →
      (p.locks = [] ∨ { s with engs := s.engs.filter fun x => x.uid != o.uid }.lockTurn g.place.core g.place.slot
        (o.since.getD (s.clk.clock + 1)) = true) →
      ∃ t, exec (.copyStart o.uid) s = .next t ∧ OnlyGroup s t g.uid ∧ SameMemory s t ∧
        t.engs = s.engs.filter (fun x => x.uid != o.uid) ++ [p] ∧ (t.core o.who.core).locks = core.locks ++ p.locks ∧
        t.group? g.uid = some (({ g with tokens := g.tokens.set tok ⟨some o.uid, [], none⟩, lastTok := tok }.awaiting o.dest
          (word tok)).completed g.sc.hold (g.sc.spc + 4))) ∧
    -- the rest of the data moves: `s'` is the state once the rows have been read
    (∀ (g : Group) k x u l r p (ws : List CopyWrite) (s' : State), o.kind = .copy k x u l r p →
      s.engineReady o = true → o.acks = none → o.fault = none → o.sent = [] → s.copyLive o u p = true →
      s.copyPlan o k x r p (copyRows k r p) 0 = (s', ws, none) → s'.group? o.who.g = some g →
      memWf (s'.core o.who.core).scratch = true →
      let cells := ws.flatMap fun w => match w with | .global _ l => l | .scratch _ => []
      let local_ := ws.flatMap fun w => match w with | .global _ _ => [] | .scratch l => l
      plainCells s' cells →
      ∃ t, exec (.copyDone o.uid) s = .next t ∧ t.engs = s'.engs.filter (fun x => x.uid != o.uid) ∧
        (t.core o.who.core).locks = (s'.core o.who.core).locks.filter (fun x => x.op != o.uid) ∧
        (∃ lines, tokenIs t g lines none ∧ ∀ p ∈ cells, p.1 / 128 ∈ lines) ∧ OnlyGroup s' t g.uid ∧
        OnlyCells s' t o.who.world cells ∧
        ∀ a, cellGet (t.core o.who.core).scratch a = match local_.reverse.find? fun p => p.1 == a with
          | some p => p.2
          | none => cellGet (s'.core o.who.core).scratch a) ∧
    (∀ (m : CollMember), o.member = some m →
      let ms := s.collMembers m
      let timedOut := ms.length < m.r.nmem ∧ ∃ x ∈ ms, ∃ n, x.o.started = some n ∧ n + 2 ^ 24 ≤ s.clk.clock
      -- every member's token completes with GANGMIS, and no memory changes
      let fails (i : Instr) (reason : Nat) : Prop :=
        ∃ t, exec i s = .next t ∧ SameMemory s t ∧ (∀ y, y ∈ t.engs ↔ y ∈ s.engs ∧ ∀ x ∈ ms, y.uid ≠ x.o.uid) ∧
          ∀ x ∈ ms, ∃ h, t.group? x.o.who.g = some h ∧
            h.token x.o.token = ⟨none, x.o.wrote, some ⟨0x07, word reason, x.o.who.pc⟩⟩
      ((∀ x ∈ ms, ∃ h, s.group? x.o.who.g = some h ∧ x.o.token < h.tokens.length) →
        (ms.map fun x => (x.o.who.g, x.o.token)).Nodup →
        (∀ reason, collReason ms = some reason → fails (.collectiveComplete o.uid) reason) ∧
        (timedOut → fails (.collectiveTimeout o.uid) 2)) ∧
      (∀ (g : Group) (src : List Byte) (dst : List Nat) (s1 s2 : State), m.r.nmem = 1 → ms = [m] → m.op < 3 →
        s.engineReady o = true → s.engineLoad o m.r.src (4 * m.r.count) = (s1, .ok src) → src.length = 4 * m.r.count →
        let bs := (elements32 src).flatMap fun x =>
          leBytes 4 (if m.f32 ∧ (f32.value x).isNan then 0x7FC00000 else x)
        (s1.counted (3 * m.r.count + 2) 0).engineDest o m.r.dst (4 * m.r.count) = (s2, .ok dst) →
        dst.length = 4 * m.r.count → plainCells s2 (dst.zip bs) → s2.group? o.who.g = some g → o.fault = none → o.sent = [] →
        ∃ t lines, exec (.collectiveComplete o.uid) s = .next t ∧ t.engs = s2.engs.filter (fun x => x.uid != o.uid) ∧
          tokenIs t g lines none ∧ OnlyGroup s2 t g.uid ∧ OnlyCells s2 t o.who.world (dst.zip bs)))

-- Plumb (spec/18).

/-- R407 to R411: the Plumb words. A write form makes its checks in order and queues one operation at the die's port;
`plfence` releases at stk; `plwait` and `plsync` complete when their condition holds and park otherwise, and
PLWAIT_COMPLETE and PLSYNC_COMPLETE end those waits.
Where the spec leaves the manner open it follows log entry 15. -/
def Obligations.PlumbWordsAct : Prop :=
  ∀ (s : State) (c : Cur) (g : Group),
    let x := s.die g.die
    let done := g.completed c.hold (g.sc.spc + 4)
    -- R411: the group's later accesses see what the replica has taken
    let seen : State := s.learnAt g false false [(plumbLoc (g.die / 8) 0 / 8, s.order.count)] []
    (∀ (i : Instr) (fn : Nat) (d a b : BitVec 6), plumbForm i = some (fn, d, a, b) → Runs s c g i →
      let o := g.getS a
      let held := s.holdsPage (stackOf g.die) g.place.ctx (o.toNat / 2 ^ 16 % 2 ^ 4)
      let r : PlumbReq := ⟨some (g.origin (s.worldOf g) false g.sc.spc), s.sched.uid, g.seq, g.sc.laneSeq, s.worldOf g, o.toNat,
        fn, g.getS b, g.getS d, g.source, g.plFence⟩
      (o.toNat % 8 ≠ 0 → TrapReady s g 0x05 → exec i s = .next (s.trapped g 0x05 false g.sc.spc o 0 0)) ∧
      (o.toNat % 8 = 0 → 2 ^ 20 ≤ o.toNat → TrapReady s g 0x10 → exec i s = .next (s.trapped g 0x10 false g.sc.spc o 0 0)) ∧
      (o.toNat % 8 = 0 → o.toNat < 2 ^ 20 → held = false → TrapReady s g 0x11 →
        exec i s = .next (s.trapped g 0x11 false g.sc.spc o 0 0)) ∧
      (o.toNat % 8 = 0 → o.toNat < 2 ^ 20 → held = true →
        (g.idem = true → TrapReady s g 0x0B → exec i s = .next (s.trapped g 0x0B false g.sc.spc 0 0 0)) ∧
        (g.idem = false → (16 ≤ s.plumbOut g ∨ x.stale = true ∨ (x.portWait = [] ∧ 64 ≤ x.port.length)) →
          exec i s = .next (s.setGroup (g.waiting false (.stall .order)))) ∧
        (g.idem = false → s.plumbOut g < 16 → x.port.length < 64 → x.stale = false → x.portWait = [] →
          let h : Group := { g with used := true, plFence := none, seq := g.seq + 1 }
          exec i s = .next (({ s with sched := { s.sched with uid := s.sched.uid + 1 } }.setDie g.die
            (if s.plumbWaits r then { x with portWait := [r] } else { x with port := x.port ++ [r] })).setGroup
              ((if d = 0 then h else h.expecting d.toNat s.sched.uid).completed c.hold (g.sc.spc + 4)))))) ∧
    (Runs s c g .plfence →
      exec .plfence s = .next ({ s with sched := { s.sched with uid := s.sched.uid + 1 } }.setGroup ({ g with
        plFence := some s.sched.uid
        seq := g.seq + 1
        sq := g.sq ++ [MemReq.mk s.sched.uid (g.origin (s.worldOf g) false g.sc.spc) g.seq g.sc.laneSeq g.seq 0 false 0 0 false
          none 0 (.marker 3 false)] }.completed c.hold (g.sc.spc + 4)))) ∧
    (Runs s c g .plwait → s.plumbDone g = true → exec .plwait s = .next (s.setGroup done)) ∧
    (Runs s c g .plwait → s.plumbDone g = false → exec .plwait s = .next (s.setGroup (g.waiting c.hold .plwait))) ∧
    (∀ d, Runs s c g (.plsync d) → x.stale = false →
      exec (.plsync d) s =
        .next (seen.setGroup ((g.awaiting d.toNat (word (x.taken % 2 ^ 48))).completed c.hold (g.sc.spc + 4)))) ∧
    (∀ d, Runs s c g (.plsync d) → x.stale = true →
      exec (.plsync d) s = .next (s.setGroup (g.waiting c.hold (.plsync d.toNat)))) ∧
    (s.group? g.uid = some g → g.life = .resident → g.unhindered →
      (g.sc.wait = .plwait → s.plumbDone g = true →
        exec (.plwaitComplete g.uid) s = .next (s.setGroup (g.completed g.sc.hold (g.sc.spc + 4)))) ∧
      (∀ d, g.sc.wait = .plsync d → x.stale = false →
        exec (.plsyncComplete g.uid) s = .next (seen.setGroup
          ((g.awaiting d (word (x.taken % 2 ^ 48))).completed g.sc.hold (g.sc.spc + 4)))))

/-- R402 to R406, R408, R413: the slots. In the slot of this tick the owner's first operation is applied at every awake
replica of its world that does not resync, and its issuer takes the old value; a frame boundary makes the table writes
take effect and zeroes the pages that it grants; a snapshot makes a replica current.
Where the spec leaves the manner open it follows log entries 17 and 33. -/
def Obligations.PlumbSlotsApplyInOrder : Prop :=
  ∀ (s : State) (stack : Nat), stack < 2 →
    let k := s.stack stack
    let n := k.slot
    let live (e : Nat) (w : BitVec 4) : Prop := (s.die e).awake = true ∧ (s.die e).resync = none ∧ (s.die e).world = w
    (n ≤ s.clk.tick → k.boundary = false → (∀ e, (s.die e).portWait = [] ∧ memWf (s.die e).replica = true) →
      (∀ d r rest (o : Origin) (g : Group), s.slotOwner stack n = some d → (s.die d).port = r :: rest → r.who = some o →
        s.group? o.g = some g → (s.die d).resync = none →
        let old := word (leNat (memRead (s.die d).replica r.offset 8))
        ∃ t, exec (.plumbSlot stack) s = .next t ∧ t.stack stack = { k with slot := n + 1 } ∧ t.mem = s.mem ∧
          (t.die d).port = rest ∧ OnlyGroup s t g.uid ∧
          t.group? g.uid = some { g with sc := { g.sc with outst := g.sc.outst.map fun x =>
            if x.src = r.id then { x with value := some old } else x } } ∧
          ∀ e, e / 8 = stack →
            (live e r.world → (t.die e).taken = n ∧ BytesAt (s.die e).replica (t.die e).replica r.offset
              (leBytes 8 (plumbValue r.fn (word (leNat (memRead (s.die e).replica r.offset 8))) r.x r.e).toNat)) ∧
            (¬ live e r.world → (t.die e).replica = (s.die e).replica)) ∧
      (s.slotOwner stack n = none →
        ∃ t, exec (.plumbSlot stack) s = .next t ∧ t.stack stack = { k with slot := n + 1 } ∧ t.groups = s.groups ∧
          t.mem = s.mem ∧ ∀ e, (t.die e).replica = (s.die e).replica ∧ (t.die e).port = (s.die e).port ∧
            (e / 8 = stack → (s.die e).awake = true → (s.die e).resync = none → (t.die e).taken = n))) ∧
    (n ≤ s.clk.tick → k.boundary = true → (∀ e, memWf (s.die e).replica = true) →
      ∃ t, exec (.frameBoundary stack) s = .next t ∧ t.groups = s.groups ∧ t.mem = s.mem ∧ t.stack stack = { k with
          sat := k.satNew.foldl (fun l e => l.set e.1 e.2) k.sat
          pg := k.pgNew.foldl (fun l e => l.set e.1 e.2) k.pg
          satNew := []
          pgNew := [] } ∧
        ∀ e a, cellGet (t.die e).replica a =
          if e / 8 = stack ∧ (s.die e).awake = true ∧ (∃ x ∈ k.pgNew, x.2.getLsbD 63 = true ∧
            x.2.toNat / 2 ^ 48 % 2 ^ 4 = (s.die e).world.toNat ∧ a / 0x10000 = x.1) then 0 else cellGet (s.die e).replica a) ∧
    (∀ entry value, entry < 64 →
      exec (.plsatWrite stack entry value) s =
        .next (s.setStack stack { k with satNew := put k.satNew entry (value &&& 0x8F07) })) ∧
    (∀ entry value, entry < 16 →
      exec (.plpgWrite stack entry value) s =
        .next (s.setStack stack { k with pgNew := put k.pgNew entry (value &&& 0x800FFFFF00000000) })) ∧
    (∀ die x, die / 8 = stack → (s.die die).awake = true → (s.die die).resync = some x → x.first < n →
      exec (.snapshotInstall die) s = .next ((s.wall (plumbLoc stack 0) 0x100000).setDie die { s.die die with
        stale := false
        resync := none
        replica := match s.snapshotSource die with
          | some y => (s.die y).replica
          | none => []
        taken := n - 1 }))

/-- R420 to R424: the th words. `thcopy` with weight to split and `thdrop` complete at once; the others, and `thcopy` of an
exhausted handle, wait for their tensor unit's answer. A malformed handle raises TENSOR with reason 1.
Where the spec leaves the manner open it follows log entry 44. -/
def Obligations.TensorWordsAct : Prop :=
  ∀ (d a b : BitVec 6) (s : State) (c : Cur) (g : Group),
    let x := g.getS a
    let used : Group := { g with used := true }
    let marker (after : Group) : MemReq := ⟨s.sched.uid, g.origin (s.worldOf g) false g.sc.spc, after.seq, after.sc.laneSeq,
      after.seq, 0, false, 0, 0, false, none, 0, .marker 4 false⟩
    let released (after : Group) : Group := { after with sq := g.sq ++ [marker after], seq := g.seq + 1 }
    (∀ i, (i = .thcopy d a ∨ i = .thdrop a) → Runs s c g i → g.idem = true → TrapReady s g 0x0B →
      exec i s = .next (s.trapped g 0x0B false g.sc.spc 0 0 0)) ∧
    (∀ i, ((i = .thcopy d a ∨ i = .thdrop a) ∧ g.idem = false ∨ i = .tver d a ∨ (i = .thbind a b ∧ (g.getS b).toNat % 128 = 0)
        ∨ (i = .thinfo d a b ∧ (g.getS b).toNat ≤ 10)) → Runs s c g i → Malformed x → TrapReady s g 0x15 →
      exec i s = .next (s.trapped g 0x15 false g.sc.spc 1 0 0)) ∧
    (Runs s c g (.thcopy d a) → g.idem = false → ¬ Malformed x → expOf x ≠ 0 →
      exec (.thcopy d a) s = .next (s.setGroup
        (((used.awaiting d.toNat (wordOf (x.toNat - 2 ^ 40))).awaiting a.toNat (wordOf (x.toNat - 2 ^ 40))).completed c.hold
          (g.sc.spc + 4)))) ∧
    (Runs s c g (.thcopy d a) → g.idem = false → ¬ Malformed x → expOf x = 0 →
      exec (.thcopy d a) s = .next (s.setGroup (used.waiting c.hold (.tensor (.split d.toNat a.toNat x))))) ∧
    (Runs s c g (.thdrop a) → g.idem = false → ¬ Malformed x →
      ∃ t, exec (.thdrop a) s = .next t ∧ OnlyGroup s t g.uid ∧ SameMemory s t ∧
        t.group? g.uid = some ((released used).completed c.hold (g.sc.spc + 4)) ∧
        t.returns = s.returns ++ [Return.mk x (g.origin (s.worldOf g) false g.sc.spc) (some s.sched.uid) false]) ∧
    (Runs s c g (.thbind a b) → (g.getS b).toNat % 128 ≠ 0 → TrapReady s g 0x05 →
      exec (.thbind a b) s = .next (s.trapped g 0x05 false g.sc.spc (g.getS b) 0 0)) ∧
    (Runs s c g (.thbind a b) → (g.getS b).toNat % 128 = 0 → ¬ Malformed x →
      exec (.thbind a b) s = .next (s.setGroup (g.waiting c.hold (.tensor (.bind x (g.getS b)))))) ∧
    (Runs s c g (.tver d a) → ¬ Malformed x →
      exec (.tver d a) s = .next ({ s with sched := { s.sched with uid := s.sched.uid + 1 } }.setGroup
        ((released g).waiting c.hold (.tensor (.version d.toNat x s.sched.uid))))) ∧
    (Runs s c g (.thinfo d a b) → 10 < (g.getS b).toNat → TrapReady s g causeIllegal →
      exec (.thinfo d a b) s =
        .next (s.trapped g causeIllegal false g.sc.spc (word (encodeWord c.hold (.thinfo d a b)).toNat) 0 0)) ∧
    (Runs s c g (.thinfo d a b) → (g.getS b).toNat ≤ 10 → ¬ Malformed x →
      exec (.thinfo d a b) s = .next (s.setGroup (g.waiting c.hold (.tensor (.info d.toNat x (g.getS b).toNat))))) ∧
    (∀ bs s', Runs s c g (.thnew d a b) → x.toNat % 64 = 0 → RecordAt s g x 64 s' bs →
      let e := (g.getS b).toNat
      let op : TensorOp := .create d.toNat e (word (field bs 0 8)) (word (field bs 8 8)) (word (field bs 0x10 8))
        (word (field bs 0x18 8)) (field bs 0x20 1)
      (g.idem = true → TrapReady s' g 0x0B → exec (.thnew d a b) s = .next (s'.trapped g 0x0B false g.sc.spc 0 0 0)) ∧
      (g.idem = false → ¬ CreationOk (s.worldOf g) bs → TrapReady s' g 0x15 →
        exec (.thnew d a b) s = .next (s'.trapped g 0x15 false g.sc.spc 6 0 0)) ∧
      (g.idem = false → CreationOk (s.worldOf g) bs → ¬ (1 ≤ e ∧ e ≤ 62) → TrapReady s' g 0x15 →
        exec (.thnew d a b) s = .next (s'.trapped g 0x15 false g.sc.spc 7 0 0)) ∧
      (g.idem = false → CreationOk (s.worldOf g) bs → 1 ≤ e → e ≤ 62 →
        exec (.thnew d a b) s = .next (s'.setGroup (used.waiting c.hold (.tensor op)))))

/-- R417, R420 to R424: the answers of the tensor units and the returns. A new entry takes the lowest FREE index with VERSION
1 and TOTAL 2^e; an exhausted handle is split through an INDIR entry; a return adds its weight, and the last one frees the
entry and raises its GEN, an INDIR entry sending weight 1 on to its parent; more weight than TOTAL poisons the entry. -/
def Obligations.TensorStepsAct : Prop :=
  ∀ (s : State),
    (∀ (g : Group), s.group? g.uid = some g → g.life = .resident → g.unhindered → (s.die g.die).awake = true →
      let world := s.worldOf g
      let gen (i : Nat) : BitVec 16 := (s.die g.die).gen i
      let done (g : Group) : Group := g.completed g.sc.hold (g.sc.spc + 4)
      (∀ d e shapep data bytes tagp i, g.sc.wait = .tensor (.create d e shapep data bytes tagp 0) → tagp = 0 →
        LowestFree (s.die g.die) i →
        exec (.tensorUnitAnswer g.uid) s = .next
          (((s.hush fun m => m == .tensor (2 ^ 36 * g.die + i)).setTensor g.die (entryOf g world i 1 shapep data bytes (wordOf (2 ^ e)) 0)).setGroup
            (done (g.awaiting d (handleWith (gen i) false e g.die i))))) ∧
      (∀ d a h i, g.sc.wait = .tensor (.split d a h) → LowestFree (s.die g.die) i →
        let n := handleWith (gen i) true 61 g.die i
        exec (.tensorUnitAnswer g.uid) s = .next
          (((s.hush fun m => m == .tensor (2 ^ 36 * g.die + i)).setTensor g.die
            (entryOf g world i 4 0 0 0 (wordOf (2 ^ 62)) h)).setGroup
            (done ((g.awaiting d n).awaiting a n))))) ∧
    (∀ (g : Group) (h : Word) (die : Nat) (t : Tensor), s.group? g.uid = some g → g.life = .resident → g.unhindered →
      (s.die (homeOf h)).awake = true → s.liveTensor g.place.ctx (s.worldOf g) h = .ok (die, t) →
      let done (g : Group) : Group := g.completed g.sc.hold (g.sc.spc + 4)
      (∀ fin, g.sc.wait = .tensor (.bind h fin) →
        exec (.tensorUnitAnswer g.uid) s = .next ((s.setTensor die { t with finrec := fin }).setGroup (done g))) ∧
      (∀ d m, g.sc.wait = .tensor (.version d h m) → s.released m = true → t.version.toNat < 2 ^ 32 - 1 →
        exec (.tensorUnitAnswer g.uid) s = .next ((s.setTensor die { t with version := t.version + 1 }).setGroup
          (done (g.awaiting d (wordOf (t.version.toNat + 1)))))) ∧
      (∀ d sel, sel ≤ 10 → g.sc.wait = .tensor (.info d h sel) →
        let x := [wordOf (t.state + 2 ^ 4 * t.world.toNat + 2 ^ 8 * t.enc + 2 ^ 16 * ((s.die die).gen t.index).toNat
            + 2 ^ 32 * (t.ctx % 2 ^ 16)), t.shapep, t.data, t.bytes, wordOf t.version.toNat, t.tagp, t.returned, t.total, t.finrec,
          t.parent, t.fingrid].getD sel 0
        exec (.tensorUnitAnswer g.uid) s = .next (s.setGroup (done (g.awaiting d x))))) ∧
    (∀ (g : Group) d h sel r, s.group? g.uid = some g → g.life = .resident → g.unhindered → (s.die (homeOf h)).awake = true →
      s.entryOfHandle g.place.ctx (s.worldOf g) h = .error r → g.sc.wait = .tensor (.info d h sel) →
      exec (.tensorUnitAnswer g.uid) s = .next (s.setGroup ((g.awaiting d 0).completed g.sc.hold (g.sc.spc + 4)))) ∧
    (∀ (g : Group) (op : TensorOp) (r : Nat), s.group? g.uid = some g → g.life = .resident → g.stop = none → g.sc.entry = none →
      g.sc.wait = .tensor op → s.mayAnswer g op = true → s.tensorAnswer g op = .error r → g.sc.outst = [] → g.ln.outst = [] →
      g.ln.wait.binding = false → 4096 ≤ g.sr.tvb.toNat → s.fetchFails g (handlerOf g.sr.tvb 0x15) = some false →
      ∃ t, exec (.tensorUnitAnswer g.uid) s = .next t ∧ OnlyGroup s t g.uid ∧ SameMemory s t ∧
        t.group? g.uid = some (g.inHandler s.clk.clock 0x15 true false g.sc.spc (word r) 0 0)) ∧
    (∀ (k : Nat) (r : Return) (t : Tensor), s.returns[k]? = some r → s.releasedOpt r.marker = true →
      (s.die (homeOf r.handle)).awake = true → s.tensor? (homeOf r.handle) (r.handle.toNat % 2 ^ 36) = some t →
      ((s.die (homeOf r.handle)).gen t.index).toNat = r.handle.toNat / 2 ^ 47 % 2 ^ 16 → t.ctx = r.who.ctx →
      t.world = r.who.world → (t.state = 1 ∨ t.state = 4) → t.returned.toNat + 2 ^ expOf r.handle < 2 ^ 64 →
      -- R283: the entry keeps the return's release
      let rest : State := match r.marker with
        | some m => State.tell { s with returns := s.returns.eraseIdx k } (.tensor (r.handle.toNat % 2 ^ 40)) (s.told (.marker m))
        | none => { s with returns := s.returns.eraseIdx k }
      let die := homeOf r.handle
      let n := t.returned.toNat + 2 ^ expOf r.handle
      let g' : BitVec 16 := if (s.die die).gen t.index = 0xFFFF then 1 else (s.die die).gen t.index + 1
      let freed (u : State) : Prop :=
        (∀ x ∈ (u.die die).tensors, x.index ≠ t.index) ∧ (u.die die).gen t.index = g' ∧
          (∀ e, e ≠ die → u.die e = s.die e) ∧ (u.mem = s.mem)
      (n < t.total.toNat → exec (.thReturnApply k) s = .next (rest.setTensor die { t with returned := wordOf n })) ∧
      (n = t.total.toNat → t.state = 1 → t.finrec = 0 →
        ∃ u, exec (.thReturnApply k) s = .next u ∧ freed u ∧ u.returns = rest.returns) ∧
      (n = t.total.toNat → t.state = 4 →
        ∃ u, exec (.thReturnApply k) s = .next u ∧ freed u ∧
          u.returns = rest.returns ++ [⟨wordOf (t.parent.toNat - 2 ^ 40 * expOf t.parent), r.who, none, true⟩]) ∧
      (t.total.toNat < n →
        ∃ u, exec (.thReturnApply k) s = .next u ∧
          u.tensor? die t.index = some { t with returned := wordOf n, state := 3 } ∧ u.returns = rest.returns))

-- Grids and roles (spec/06).

/-- R155, R156, R160, R161, R163, R164: the grid and role words. `launch` reads its records, releases at pkg, and returns the
handle of a new grid, which a record that fails a check of R162 completes at once; `gwait` and `gquery` return the status
of a complete grid after an acquire, and INVALID for a handle that names none; `rolesw` switches the role or waits;
`roleq` reads a role.
Where the spec leaves the manner open it follows log entry 44. -/
def Obligations.GridWordsAct : Prop :=
  ∀ (d a : BitVec 6) (s : State) (c : Cur) (g : Group),
    let x := g.getS a
    let next (g : Group) : Group := g.completed c.hold (g.sc.spc + 4)
    (∀ b s1, Runs s c g (.launch d a) → x.toNat % 128 = 0 → RecordAt s g x 128 s1 b →
      (g.idem = true → TrapReady s1 g 0x0B → exec (.launch d a) s = .next (s1.trapped g 0x0B false g.sc.spc 0 0 0)) ∧
      (g.idem = false → ¬ MayLaunch s g → TrapReady s1 g 0x11 →
        exec (.launch d a) s = .next (s1.trapped g 0x11 false g.sc.spc x 0 0)) ∧
      (∀ cb s2 k, g.idem = false → MayLaunch s g → ChannelsOf s1 g b s2 cb → s.ctx? g.place.ctx = some k →
        (4096 ≤ s.openGrids g.place.ctx ∨ k.ending = true →
          exec (.launch d a) s = .next (s2.setGroup (g.waiting false (.stall .gridTable)))) ∧
        (s.openGrids g.place.ctx < 4096 → k.ending = false → (∀ y ∈ s.grids, y.uid ≠ s.sched.uid + 1) →
          let handle := wordOf (2 ^ 32 * (k.spec.number % 2 ^ 16) + (k.serial + 1).toNat)
          let fails := validate k.spec.number (k.serial + 1).toNat false b cb
          ∃ t y, exec (.launch d a) s = .next t ∧ OnlyGroup s t g.uid ∧ SameMemory s t ∧ untimed t.grids = untimed (s.grids ++ [y]) ∧
            t.ctx? g.place.ctx = some { k with serial := k.serial + 1 } ∧
            t.group? g.uid = some (next ({ g with
              used := true
              seq := g.seq + 1
              sq := g.sq ++ [MemReq.mk s.sched.uid (g.origin (s.worldOf g) false g.sc.spc) g.seq g.sc.laneSeq g.seq 0 false 0 0
                false none 0 (.marker 4 false)] }.awaiting d.toNat handle)) ∧
            y.uid = s.sched.uid + 1 ∧ y.handle = handle ∧ y.ctx = g.place.ctx ∧ y.release = some s.sched.uid ∧ y.placed = 0 ∧
            (∀ r, fails = some r → y.status = some (statusOf 5 r 0)) ∧
            (fails = none → y.status = none ∧ y.lrec = launchRec b ∧ y.chans = (chanBytes cb).map channelOfBytes)))) ∧
    (∀ i, (i = .gwait d a ∨ i = .gquery d a) → Runs s c g i →
      ((∀ y, s.gridOf g.place.ctx x = some y → y.uid = g.place.grid) →
        exec i s = .next (s.setGroup (next (g.awaiting d.toNat 0xFE)))) ∧
      ∀ y, s.gridOf g.place.ctx x = some y → y.uid ≠ g.place.grid →
        (∀ z, y.status = some z →
          exec i s = .next ((gridObserved s g y.uid).setGroup (next (g.awaiting d.toNat z)))) ∧
        (y.status = none → i = .gwait d a → exec i s = .next (s.setGroup (g.waiting c.hold (.gwait d.toNat y.uid)))) ∧
        (y.status = none → i = .gquery d a → exec i s = .next (s.setGroup (next (g.awaiting d.toNat 0xFF))))) ∧
    (∀ y, s.grid? g.place.grid = some y →
      let n := x.toNat
      let r := y.lrec.role n
      (Runs s c g (.rolesw a) → (3 < n ∨ r.count = 0) → TrapReady s g causeIllegal →
        exec (.rolesw a) s = .next (s.trapped g causeIllegal false g.sc.spc (word (encodeWord c.hold (.rolesw a)).toNat) 0 0)) ∧
      (Runs s c g (.rolesw a) → n ≤ 3 → r.count ≠ 0 → RoleFits s g r → g.unhindered →
        ∃ h, InRole g h n r ∧
          exec (.rolesw a) s = .next (s.setGroup (h.completed c.hold (wordOf (y.lrec.entry.toNat + r.entryOff))))) ∧
      (Runs s c g (.rolesw a) → n ≤ 3 → r.count ≠ 0 → ¬ RoleFits s g r →
        exec (.rolesw a) s = .next (s.setGroup (g.waiting c.hold (.rolesw n)))) ∧
      (Runs s c g (.roleq d a) →
        let now := (s.groups.filter fun h => h.place.team == g.place.team && h.role.role == n).length
        now < 2 ^ 5 → r.count < 2 ^ 5 → r.prio < 2 ^ 2 → r.vregs < 2 ^ 9 →
        exec (.roleq d a) s = .next (s.setGroup (next (g.awaiting d.toNat
          (if 3 < n then 0
          else wordOf ((if r.count = 0 then 0 else 2 ^ 63) + 2 ^ 21 * now + 2 ^ 16 * r.count + 2 ^ 12 * r.prio + r.vregs)))))))

/-- R29, R105, R144, R155, R163, R165, R166, R170, R211: the steps of the distributor and the ends of the waits of `gwait` and
`rolesw`. TEAM_PLACEMENT places the next team with its groups in their start state and its windows zero; GRID_COMPLETE
gives a grid its status once all that its groups issued is done, or DEPFAIL once a dependence has failed.
Where the spec leaves the manner open it follows log entries 6 and 7. -/
def Obligations.GridStepsAct : Prop :=
  ∀ (s : State),
    (∀ (core : Nat) (x : Grid) (k : Context) (slots : List Nat) (sx acc : Nat),
      let u := s.scanned
      let r := x.lrec
      u.nextPlacement = some (x, core) → (u.die (core / 128)).awake = true → u.ctx? x.ctx = some k →
      u.admits x core = some (slots, sx, acc) →
      ∃ t new team, exec (.teamPlacement core) s = .next t ∧ t.groups = u.groups ++ new ∧ new.length = slots.length ∧
        (∀ i g, new[i]? = some g → g.place.ctx = x.ctx ∧ g.place.grid = x.uid ∧ g.place.team = team.uid ∧
          StartsAs g x k core i (slots.getD i 0) (serialAfter (i + 1) k.gser) sx acc) ∧
        t.teams = u.teams ++ [team] ∧ team.grid = x.uid ∧ team.core = core ∧ team.index = x.placed ∧
        team.members = new.map (fun g => g.uid) ∧ team.channels = x.chans ∧ team.killed = 0 ∧ team.halted = none ∧
        (team.sxbase, team.sxsize, team.accbase, team.accsize) = (sx, r.sxbytes, acc, r.accbytes) ∧
        t.grids = u.grids.map (fun y => if y.uid = x.uid then
          { x with placed := x.placed + 1, since := some u.clk.tick, expired := false } else y) ∧
        (t.core core).part = r.partw ∧ (t.core core).near = [] ∧ t.mem = u.mem ∧
        (∀ n, n ≠ core → t.core n = u.core n) ∧
        (∀ y, cellGet (t.core core).scratch y =
          if sx ≤ y ∧ y < sx + r.sxbytes then 0 else cellGet (u.core core).scratch y) ∧
        ∀ y, cellGet (t.core core).acc y = if acc ≤ y ∧ y < acc + r.accbytes then 0 else cellGet (u.core core).acc y) ∧
    (∀ (grid n : Nat) (x : Grid), s.grid? grid = some x → x.since = some n → s.waitRuns x = true →
      n + 1125000 < s.clk.tick → exec (.waitClockExpiry grid) s = .next (s.setGrid { x with expired := true })) ∧
    (∀ (grid : Nat) (x : Grid), s.grid? grid = some x → x.status = none → x.reading = none → x.finaliser = none →
      let found (h : Word) (code : Nat → Prop) : Prop :=
        ∃ y z, s.gridOf x.ctx h = some y ∧ y.status = some z ∧ code (z.toNat % 256)
      let failed : Prop := x.placed = 0 ∧ (∀ h ∈ x.lrec.deps, found h fun _ => True) ∧ ∃ h ∈ x.lrec.deps, found h fun n => n ≠ 0
      let ends (z : Word) : Prop := ∃ t, exec (.gridComplete grid) s = .next t ∧ OnlyGrid s t { x with status := some z }
      (failed → ends (statusOf 4 0 x.nlog)) ∧
      (¬ failed → (x.placed = x.lrec.teams ∨ x.dropped = true) → GridGone s x →
        ends (match x.fatal with
          | some cause => statusOf 2 cause.toNat x.nlog
          | none => if x.killed then statusOf 3 0 x.nlog else if x.deferred then statusOf 1 0 x.nlog
            else statusOf 0 0 x.nlog))) ∧
    (∀ (g : Group) d grid y z, s.group? g.uid = some g → g.life = .resident → g.unhindered → g.sc.wait = .gwait d grid →
      s.grid? grid = some y → y.status = some z →
      exec (.gwaitComplete g.uid) s =
        .next ((gridObserved s g grid).setGroup ((g.awaiting d z).completed g.sc.hold (g.sc.spc + 4)))) ∧
    (∀ (g : Group) n y, s.group? g.uid = some g → g.life = .resident → g.unhindered → g.sc.wait = .rolesw n →
      s.grid? g.place.grid = some y → RoleFits s g (y.lrec.role n) →
      ∃ h, InRole g h n (y.lrec.role n) ∧ exec (.roleswComplete g.uid) s =
        .next (s.setGroup (h.completed g.sc.hold (wordOf (y.lrec.entry.toNat + (y.lrec.role n).entryOff)))))

-- Trigger units and seals (spec/16, spec/21).

/-- R397 to R399, R449: the words of the trigger and seal families. `evt` emits its event; `tarm` reads its table and parks
for the unit's answer; `tdisarm` of an automaton that the context armed leaves its result outstanding, and writes 1
otherwise; `sopen` takes the lowest seal, `sadd` queues a range and `sclose` parks.
Where the spec leaves the manner open it follows log entries 34 and 44. -/
def Obligations.TriggerWordsAct : Prop :=
  ∀ (d a b : BitVec 6) (s : State) (c : Cur) (g : Group),
    let x := g.getS a
    let y := g.getS b
    let next (g : Group) : Group := g.completed c.hold (g.sc.spc + 4)
    let illegal (i : Instr) : Out :=
      .next (s.trapped g causeIllegal false g.sc.spc (word (encodeWord c.hold i).toNat) 0 0)
    let used : Group := { g with used := true }
    (Runs s c g (.evt a b) →
      exec (.evt a b) s =
        .next ((s.emitG g 0x10 (y.toNat % 2 ^ 16) (x.toNat % 2 ^ 32)).setGroup (next g))) ∧
    (Runs s c g (.tarm d a b) → 8 ≤ y.toNat → TrapReady s g causeIllegal →
      exec (.tarm d a b) s = illegal (.tarm d a b)) ∧
    (∀ bs s', Runs s c g (.tarm d a b) → y.toNat < 8 → x.toNat % 128 = 0 → RecordAt s g x 1472 s' bs →
      exec (.tarm d a b) s = .next (s'.setGroup
        (g.waiting c.hold (.tarm d.toNat (unitNamed g y) (autoNamed y) bs)))) ∧
    (Runs s c g (.tdisarm d a) → 8 ≤ x.toNat → TrapReady s g causeIllegal →
      exec (.tdisarm d a) s = illegal (.tdisarm d a)) ∧
    (Runs s c g (.tdisarm d a) → x.toNat < 8 →
      (∀ z, (s.unit (unitNamed g x)).autos.getD (autoNamed x) none = some z → z.owner ≠ some g.place.ctx ∨ z.ending ≠ none) →
      exec (.tdisarm d a) s = .next (s.setGroup (next (g.awaiting d.toNat 1)))) ∧
    (∀ z, Runs s c g (.tdisarm d a) → x.toNat < 8 →
      let n := unitNamed g x
      let u := s.unit n
      u.autos.getD (autoNamed x) none = some z → z.owner = some g.place.ctx → z.ending = none →
      exec (.tdisarm d a) s =
        .next (((s.counted 0 1).setUnit n { u with
          autos := u.autos.set (autoNamed x) (some { z with ending := some ⟨(s.meridian n).toNat, some (g.uid, s.sched.uid)⟩ }) }).setGroup
            (next (g.expecting d.toNat s.sched.uid)))) ∧
    (Runs s c g (.sopen d a b) → (2 ^ 8 ≤ x.toNat ∨ x.toNat / 4 % 4 ≠ 0 ∨ 1 < x.toNat % 4) → TrapReady s g causeIllegal →
      exec (.sopen d a b) s = illegal (.sopen d a b)) ∧
    (∀ l, Runs s c g (.sopen d a b) → x.toNat < 2 ^ 8 → x.toNat / 4 % 4 = 0 → x.toNat % 4 ≤ 1 → Reaches s g y 4096 .store l →
      let held := (s.tramir.seals.filter fun l => l.g == g.uid).length
      (g.idem = true → TrapReady s g 0x0B → exec (.sopen d a b) s = .next (s.trapped g 0x0B false g.sc.spc 0 0 0)) ∧
      (g.idem = false → (4 ≤ held ∨ ∀ n < 256, ∃ l ∈ s.tramir.seals, l.n = n) →
        exec (.sopen d a b) s = .next (s.setGroup (next (used.awaiting d.toNat (wordOf (2 ^ 63 + 1)))))) ∧
      (∀ n, g.idem = false → held < 4 → LowestSeal s n →
        (Config.keySlot (x.toNat / 16) = false →
          exec (.sopen d a b) s = .next (s.setGroup (next (used.awaiting d.toNat (wordOf (2 ^ 63 + 2)))))) ∧
        (Config.keySlot (x.toNat / 16) = true →
          let l : Seal := ⟨n, g.uid, g.place.ctx, ((s.grid? g.place.grid).map fun t => t.handle).getD 0, g.place.gser,
            x.toNat % 4, x.toNat / 16, y, [], none⟩
          exec (.sopen d a b) s =
            .next (({ s with tramir := { s.tramir with seals := s.tramir.seals ++ [l] } }.emit 0x17 0x0E00 0 n g.place.ctx
              16).setGroup (next (used.awaiting d.toNat (word n))))))) ∧
    (Runs s c g (.sadd d a b) → (∀ l, ¬ Holds s g (g.getS d) l) → TrapReady s g 0x11 →
      exec (.sadd d a b) s = .next (s.trapped g 0x11 false g.sc.spc (g.getS d) 0 0)) ∧
    (∀ l, Runs s c g (.sadd d a b) → Holds s g (g.getS d) l →
      (2 ^ 32 < y.toNat → TrapReady s g causeIllegal → exec (.sadd d a b) s = illegal (.sadd d a b)) ∧
      (y.toNat ≤ 2 ^ 32 → g.idem = true → TrapReady s g 0x0B →
        exec (.sadd d a b) s = .next (s.trapped g 0x0B false g.sc.spc 0 0 0)) ∧
      (y.toNat ≤ 2 ^ 32 → g.idem = false →
        let m := if y = 0 then l else { l with ranges := l.ranges ++ [(x, y.toNat)] }
        exec (.sadd d a b) s =
          .next (({ s with tramir := { s.tramir with
              seals := s.tramir.seals.map fun (q : Seal) => if q.n = l.n then m else q } }.emit 0x17 0x0E00 1 l.n g.place.ctx
            16).setGroup (next used)))) ∧
    (Runs s c g (.sclose d a) → (∀ l, ¬ Holds s g x l) → TrapReady s g 0x11 →
      exec (.sclose d a) s = .next (s.trapped g 0x11 false g.sc.spc x 0 0)) ∧
    (∀ l, Runs s c g (.sclose d a) → Holds s g x l →
      (g.idem = true → TrapReady s g 0x0B → exec (.sclose d a) s = .next (s.trapped g 0x0B false g.sc.spc 0 0 0)) ∧
      (g.idem = false →
        exec (.sclose d a) s =
          .next (s.setGroup ({ g with used := true, seq := g.seq + 1 }.waiting c.hold (.sclose d.toNat l.n g.seq)))))

/-- R383, R385, R387, R390 to R393, R395, R396, R398, R399, R449, R450: the steps of the trigger units and of `sclose`. A
unit's first event leaves its queue once no earlier one can come, and each automaton that receives it steps by its first
row that takes it; a TIMER event follows the real events of its tick; a watermark, an OVERFLOW event and the W1C bits of
TUSTAT change the unit alone; the answer to `tarm` arms the automaton or gives the status, and SCLOSE_COMPLETE writes the
record.
Where the spec leaves the manner open it follows log entries 18, 34 and 45. -/
def Obligations.TriggerStepsAct : Prop :=
  ∀ (s : State) (unit : Nat),
    let u := s.unit unit
    (∀ i t e, UnitCalm u → s.firstEvent unit = some (i, t, e) → s.markedPast unit t = true →
      (∀ y, s.firstTimer unit = some y → t ≤ y.1) →
      ((∀ x, some x ∈ u.autos → x.receives e t = true → ∃ y, Stepped x y e t none) →
        ∃ autos, exec (.eventStep unit) s = .next (s.setUnit unit { u with queue := u.queue.eraseIdx i, autos := autos }) ∧
          autos.length = 4 ∧ ∀ n < 4, match u.autos.getD n none with
            | none => autos.getD n none = none
            | some x => ∃ y, autos.getD n none = some y ∧ (if x.receives e t then Stepped x y e t none else y = x)) ∧
      (∀ n x r, u.autos = (List.replicate 4 none).set n (some x) → n < 4 → x.receives e t = true → e.cls ≠ 0x19 →
        rowFor x e none = some r → (tabAccMask x.table).testBit (rowAt r 7 4) = true →
        (tabAction x.table).toNat % 8 = 0 → (tabAction x.table).toNat / 16 % 16 = 0 →
        let sampled : Bool := (tabAction x.table).toNat / 8 % 2 = 1
        ∃ y y', RowTaken x y r t e ∧ y' = { y with nacc := y.nacc + 1 } ∧
          exec (.eventStep unit) s = .next (s.setUnit unit { u with
            queue := u.queue.eraseIdx i
            autos := u.autos.set n (some y')
            acc := u.acc ||| BitVec.ofNat 4 (2 ^ n)
            wrap := u.wrap || (sampled && (u.samples.any fun z => z.1 == u.swidx) && !u.read.contains u.swidx)
            read := if sampled then u.read.filter (fun z => z != u.swidx) else u.read
            samples := if sampled then put u.samples u.swidx (sampleBytes unit n y' e t s.clk.lost.isSome) else u.samples
            swidx := if sampled then (u.swidx + 1) % 512 else u.swidx }))) ∧
    (∀ t a j x, UnitCalm u → s.firstTimer unit = some (t, a, j) → (∀ y, s.firstEvent unit = some y → t < y.2.1) →
      s.markedPast unit t = true → u.autos.getD a none = some x →
      let e : TEvent := ⟨0x18, if unit = 16 then BitVec.ofNat 16 (0x0F00 + a) else BitVec.ofNat 16 (4096 * unit + 0x0B00 + a),
        BitVec.ofNat 16 j, 0, BitVec.ofNat 32 t, none, []⟩
      let x' : Automaton := { x with tm := x.tm.set j none }
      (∃ y, Stepped x' y e t (some j)) →
        ∃ y, Stepped x' y e t (some j) ∧
          exec (.timer unit a j) s = .next (s.setUnit unit { u with autos := u.autos.set a (some y) })) ∧
    (∀ source, UnitCalm u → (if unit = 16 then source < 17 else source = unit) → u.lost = [] →
      exec (.watermark unit source) s = .next (s.setUnit unit { u with
        marks := put u.marks source (max (s.meridian source).toNat (look 0 u.marks source)) })) ∧
    (∀ source (f : TEvent) n, u.lost.find? (fun l => l.1.src.toNat == source) = some (f, n) →
      (u.queue.filter fun x => x.src == f.src).length < 64 →
      exec (.overflow unit source) s = .next (s.setUnit unit { u with
        lost := u.lost.filter fun l => l.1.src != f.src
        queue := u.queue ++ [{ f with
          cls := 0x19
          tag := BitVec.ofNat 16 (min n 0xFFFF)
          payload := BitVec.ofNat 32 source }] })) ∧
    (∀ value : Word, exec (.tustatClear unit value) s = .next (s.setUnit unit { u with
        acc := u.acc &&& ~~~BitVec.ofNat 4 (value.toNat / 16)
        wrap := u.wrap && decide (value.toNat / 256 % 2 = 0)
        read := if value.toNat / 256 % 2 = 0 then u.read else [] })) ∧
    (∀ (g : Group) d a tab, s.group? g.uid = some g → g.life = .resident → g.unhindered → g.sc.wait = .tarm d unit a tab →
      let done (x : Word) : Group := (g.awaiting d x).completed g.sc.hold (g.sc.spc + 4)
      (u.autos.getD a none ≠ none → exec (.tarmAnswer g.uid) s = .next (s.setGroup (done 1))) ∧
      (u.autos.getD a none = none →
        (∀ r, tableReason tab = some r → exec (.tarmAnswer g.uid) s = .next (s.setGroup (done (wordOf (2 + 256 * r))))) ∧
        (tableReason tab = none → s.compsTaken unit tab = true → exec (.tarmAnswer g.uid) s = .next (s.setGroup (done 3))) ∧
        (tableReason tab = none → s.compsTaken unit tab = false →
          let now := s.armStamp unit
          ∃ t, exec (.tarmAnswer g.uid) s = .next t ∧ OnlyGroup s t g.uid ∧ SameMemory s t ∧
            t.group? g.uid = some (done (wordOf (2 ^ 32 * (now % 2 ^ 32)))) ∧
            t.unit unit = { u with autos := u.autos.set a (some ⟨tab, some g.place.ctx, now, tabStart tab, List.replicate 4 0,
              List.replicate 4 0, [none, none], 0, false, none⟩) } ∧
            ∀ n, (t.core n).watches = (s.core n).watches ++
              if (unit = 16 ∧ n < 2048) ∨ (unit ≠ 16 ∧ n / 128 = unit) then watchesOf unit a (some g.place.ctx) tab else []))) ∧
    (∀ (g : Group) d seq (l : Seal) (x : Context) (pa : Nat), s.group? g.uid = some g → g.life = .resident → g.unhindered →
      g.sc.wait = .sclose d l.n seq → s.earlierPending g.uid seq = false → s.tramir.seals.find? (fun y => y.n == l.n) = some l →
      l.ranges = [] → s.ctx? l.ctx = some x → l.record.toNat % 4096 = 0 →
      PageAt s g.die l.ctx (s.worldOf g) .store l.record 4096 pa → goodData s pa 4096 →
      let bs := sealRecord l 0 s.tramir.serial x.spec.measure []
      ∃ t, exec (.scloseComplete g.uid) s = .next t ∧ OnlyGroup s t g.uid ∧
        t.group? g.uid = some ((g.awaiting d 0).completed g.sc.hold (g.sc.spc + 4)) ∧
        t.tramir = { s.tramir with seals := s.tramir.seals.filter (fun y => y.n != l.n), serial := s.tramir.serial + 1 } ∧
        OnlyCells s t (s.worldOf g) (bs.zipIdx.map fun b => (pa + b.2, b.1)))

-- Steps of a group's streams (spec/01, spec/06, spec/07, spec/15).

/-- R17 to R19, R26, R174, R176, R349 to R351: results are written when they return, to the register alone; a hold ends once
nothing is outstanding; and a cause is entered once its drain is complete, in user mode for an async cause. A result with
data that cannot be corrected kills the group, and one with a tag mismatch leaves the register and raises INTEG.
Where the spec leaves the manner open it follows log entries 15 and 21. -/
def Obligations.ResultsAndTrapsArrive : Prop :=
  ∀ (s : State) (g : Group), s.group? g.uid = some g →
    (∀ k r x, g.sc.outst[k]? = some r → r.value = some x →
      let h : Group := { g with sc := { g.sc with outst := g.sc.outst.eraseIdx k } }
      (∀ n signed, r.poison = none → r.integ = none → r.post = .ext n signed → (n = 1 ∨ n = 2 ∨ n = 4 ∨ n = 8) →
        let v := wordOf (extended n signed (x.toNat % 2 ^ (8 * n)))
        (∀ d : BitVec 6, r.reg = d.toNat → exec (.scalarResultWrite g.uid k) s = .next (s.setGroup (h.withS d v))) ∧
        (∀ d : BitVec 3, r.reg = 64 + d.toNat →
          exec (.scalarResultWrite g.uid k) s = .next (s.setGroup (h.withC d (decide (v ≠ 0)))))) ∧
      (∀ a, r.poison = none → r.integ = some a →
        exec (.scalarResultWrite g.uid k) s =
          .next (s.setGroup { h with sc := { h.sc with async := g.sc.async ++ [⟨0x13, false, a, 0, 0, false⟩] } })) ∧
      (r.poison ≠ none → ∃ t, exec (.scalarResultWrite g.uid k) s = .next t ∧ t.group? g.uid = none)) ∧
    (∀ k r, g.ln.outst[k]? = some r → (∀ p ∈ r.pieces, p.value ≠ none ∧ p.lane < 32) →
      let rest := g.ln.outst.eraseIdx k
      (cellsWf g.ln.v = true → cellsWf g.ln.hv = true → (∀ p ∈ r.pieces, p.poison = none ∧ p.integ = none) →
        ∃ h : Group, exec (.laneResultWrite g.uid k) s = .next (s.setGroup h) ∧
          h = { g with ln := { g.ln with outst := rest, v := h.ln.v, hv := h.ln.hv, bad := h.ln.bad, badOne := h.ln.badOne } } ∧
          (∀ p ∈ r.pieces, ∀ j < r.count, h.ln.readV r.handler (r.reg + j) p.lane =
            half ((r.laneValue p.lane).toNat / 2 ^ (32 * j))) ∧
          ∀ sup n i, n < 256 → i < 32 →
            (∀ j < r.count, regNumber sup n = regNumber r.handler (r.reg + j) → ∀ p ∈ r.pieces, p.lane ≠ i) →
            h.ln.readV sup n i = g.ln.readV sup n i) ∧
      (∀ i lo hi a b, r.pieces = [⟨i, a, 0, .ext 8 false, some lo, none, none⟩, ⟨i, b, 64, .ext 8 false, some hi, none, none⟩] →
        r.laneValue i = BitVec.ofNat 128 (lo.toNat % 2 ^ 64 + 2 ^ 64 * (hi.toNat % 2 ^ 64))) ∧
      (∀ p ∈ r.pieces, ∀ a, (∀ q ∈ r.pieces, q.poison = none ∧ (q ≠ p → q.integ = none) ∧ (q ≠ p → q.lane ≠ p.lane)) →
        p.integ = some a →
        ∃ h : Group, exec (.laneResultWrite g.uid k) s = .next (s.setGroup h) ∧
          h.sc = { g.sc with async := g.sc.async ++ [⟨0x13, true, a, BitVec.ofNat 32 (2 ^ p.lane), r.lpc, false⟩] } ∧
          ∀ sup n, n < 256 → h.ln.readV sup n p.lane = g.ln.readV sup n p.lane) ∧
      ((∃ p ∈ r.pieces, p.poison ≠ none) →
        ∃ t, exec (.laneResultWrite g.uid k) s = .next t ∧ t.group? g.uid = none)) ∧
    (g.life = .resident → g.sc.wait = .hold → g.sc.outst = [] →
      exec (.holdParkComplete g.uid) s = .next (s.setGroup { g with sc := { g.sc with pend := 0, wait := .ready } })) ∧
    (g.life = .resident → g.ln.frozen = false → g.ln.wait = .hold → g.ln.outst = [] →
      exec (.laneHoldComplete g.uid) s = .next (s.setGroup { g with ln := { g.ln with pend := 0, wait := .ready } })) ∧
    (∀ r, g.sc.entry = some r → EntryReady s g r.cause.toNat →
      let h : Group := { g.inHandler s.clk.clock r.cause.toNat r.told r.lane g.sc.spc r.tval r.tmask r.tlpc with
        evicting := g.evicting, ln := { g.ln with frozen := true, pend := 0 } }
      let t := (s.setGroup h).emitG h 0x0A (r.cause.toNat + if r.lane then 256 else 0) (g.sc.spc.toNat % 2 ^ 32)
      (r.lane = false → exec (.trapEntry g.uid) s = .next t) ∧ (r.lane = true → exec (.laneTrapEntry g.uid) s = .next t)) ∧
    -- R394: the BKPT of an automaton comes after a stop that is on its way
    (∀ r rest, g.sc.async = r :: rest → s.group? g.uid = some g → g.coming ≠ none → r.cause = 0x0A →
      exec (.asyncCauseTaken g.uid) s = .next s) ∧
    -- R380: every cause taken so has emitted FAULT, a BKPT too
    (∀ r rest, g.sc.async = r :: rest → (g.coming = none ∨ r.cause ≠ 0x0A) → g.sc.sup = false → g.sc.entry = none →
      TrapReady s g r.cause.toNat →
      let tag := r.cause.toNat + if r.lane then 256 else 0
      let h : Group := { g with sc := { g.sc with async := rest } }
      let u := if r.told then s else s.emitG g 0x09 tag (r.tval.toNat % 2 ^ 32)
      exec (.asyncCauseTaken g.uid) s = .next
        ((u.setGroup (h.inHandler s.clk.clock r.cause.toNat true r.lane g.sc.spc r.tval r.tmask r.tlpc)).emitG g 0x0A tag
          (g.sc.spc.toNat % 2 ^ 32)))

/-- R108 to R113, R146, R147, R152, R203: the blocks of a group's lane unit. A stalled `lrun` appends its block, a block
starts with eight whole slices at its LPC, and ends once no lane is live and nothing is outstanding; the words that wait
for the lane unit then complete; and the fragments parked at the lowest LPC go on, or UNIFORM is raised for a `regang.u`
that would leave others.
Where the spec leaves the manner open it follows log entries 15 and 36. -/
def Obligations.BlocksRunAndEnd : Prop :=
  ∀ (s : State) (g : Group),
    let next (g : Group) : Group := g.completed g.sc.hold (g.sc.spc + 4)
    (∀ lpc, Waits s g (.lrun lpc) → g.blocksOut < 8 →
      exec (.blockAppend g.uid) s = .next (s.setGroup (next { g with ln := { g.ln with
        queue := g.ln.queue ++ [Block.mk lpc (Vector.ofFn fun k => g.getS (BitVec.ofNat 6 k)) g.dm g.seq] } }))) ∧
    (∀ b rest, s.group? g.uid = some g → g.life = .resident → g.ln.frozen = false → g.ln.cur = none → g.ln.queue = b :: rest →
      ∃ fs, exec (.blockStart g.uid) s =
          .next (s.setGroup { g with ln := { g.ln with cur := some b, queue := rest, frags := fs } }) ∧ fs.length = 8 ∧
        ∀ k f, fs[k]? = some f → f.slice = k ∧ f.lpc = b.lpc ∧ f.sup = false ∧ f.st = .ready ∧ f.faults = [] ∧
          ∀ i < 32, f.lanes.getLsbD i = decide (i / 4 = k)) ∧
    (∀ b, s.group? g.uid = some g → g.ln.cur = some b → g.ln.frags = [] → g.ln.outst = [] →
      exec (.blockEnd g.uid) s = .next (s.setGroup { g with ln := { g.ln with
        cur := none
        pend := 0
        wait := if g.ln.wait = .hold then .ready else g.ln.wait
        endFl := g.ln.endFl ||| g.ln.runFl
        runFl := 0
        endK := Vector.ofFn fun (i : Fin 4) => g.ln.endK[i] + g.ln.runK[i]
        runK := Vector.replicate 4 0
        endSeq := g.seq } })) ∧
    (∀ n, Waits s g (.lwait n) → g.blocksOut ≤ n → exec (.lwaitComplete g.uid) s = .next (s.setGroup (next g.covered))) ∧
    (∀ op, Waits s g (.laneState op) → g.laneQuiet →
      match op with
      | .get d v l => v < g.role.vregs → 32 * v + l ∉ g.ln.bad → 32 * v + l ∉ g.ln.badOne →
        exec (.laneStateWaitEnd g.uid) s =
          .next (s.setGroup (next (g.awaiting d (word (cellGet g.ln.v (32 * v + l)).toNat))))
      | .set v l x => v < g.role.vregs →
        exec (.laneStateWaitEnd g.uid) s = .next (s.setGroup (next { g with ln := { g.ln with
          v := cellSet g.ln.v (32 * v + l) x
          bad := g.ln.bad.filter fun k => k != 32 * v + l
          badOne := g.ln.badOne.filter fun k => k != 32 * v + l } }))
      | .readMask d m => ∀ h : m < 8,
        exec (.laneStateWaitEnd g.uid) s =
          .next (s.setGroup (next (g.awaiting d (word (if m = 0 then g.ln.live else g.ln.m[m]'h).toNat))))
      | .writeMask m x => ∀ h : m < 8,
        exec (.laneStateWaitEnd g.uid) s =
          .next (s.setGroup (next { g with ln := { g.ln with m := g.ln.m.set m x h } }))) ∧
    (∀ p, s.group? g.uid = some g → g.life = .resident → g.ln.frozen = false → (∀ f ∈ g.ln.frags, f.st ≠ .ready ∧ f.lanes ≠ 0) →
      (∃ f ∈ g.ln.frags, f.lpc = p) → (∀ f ∈ g.ln.frags, p.toNat ≤ f.lpc.toNat) →
      let asserts : Prop := (∃ f ∈ g.ln.frags, f.lpc = p ∧ f.st = .regang true) ∧ g.ln.regangOk = false ∧
        ∃ f ∈ g.ln.frags, f.lpc ≠ p
      (¬ asserts → exec (.regangRelease g.uid) s = .next (s.setGroup { g with ln := { g.ln with
        regangOk := false
        frags := g.ln.frags.map fun f => if f.lpc = p then { f with st := .ready, lpc := p + 1 } else f } })) ∧
      (asserts → TrapReady s g 0x03 →
        exec (.regangRelease g.uid) s = .next (s.trapped { g with ln := { g.ln with regangOk := true } } 0x03 true g.sc.spc
          (word (lanesWhere g.ln.frags fun f => f.lpc != p).toNat) (lanesWhere g.ln.frags fun f => f.lpc == p) p)))

/-- R97, R115, R116, R118, R120, R258: the ends of the waits of `sleep`, `halt`, the fences and the words of idempotent
regions, and the retirement of a group that executed `exit`: its queued writes go on, its slot is free, its channels
close, and a team whose last group has left ends.
Where the spec leaves the manner open it follows log entry 15. -/
def Obligations.SystemWaitsEnd : Prop :=
  ∀ (s : State) (g : Group),
    let next (g : Group) : Group := g.completed g.sc.hold (g.sc.spc + 4)
    (∀ n, Waits s g (.sleep n) →
      exec (.sleepEnd g.uid) s =
        .next (s.setGroup { g with sc := { g.sc with wait := if g.sc.hold then .hold else .ready, hold := false } })) ∧
    (∀ acq scope m, Waits s g (.fence acq scope m) → s.readBefore g false g.seq g.sc.laneSeq = false → s.releasedOpt m = true →
      exec (.fenceParkComplete false g.uid) s = .next ((s.fenceEnd g false scope m.isSome).setGroup (next g))) ∧
    (∀ c acq scope m, s.group? g.uid = some g → g.life = .resident → g.ln.frozen = false → g.ln.wait = .fence c acq scope m →
      s.readBefore g true g.seq g.blockSeq = false → s.releasedOpt m = true →
      exec (.fenceParkComplete true g.uid) s = .next ((s.fenceEnd g true scope m.isSome).setGroup (g.laneDone c))) ∧
    (Waits s g .halt → g.sc.outst = [] →
      ∃ t h, exec (.haltStop g.uid) s = .next t ∧ t.group? g.uid = some h ∧ h.life = .halted ∧
        h.sr = { g.sr with tpc := g.sc.spc + 4 } ∧ h.ln = g.ln ∧ h.sc.s = g.sc.s ∧ OnlyGroup s t g.uid ∧ SameMemory s t ∧
        t.out = s.out ++ [.controlInterrupt "group halted" g.place.ctx g.place.core g.place.slot]) ∧
    (Waits s g .idemb → g.blocksOut = 0 → g.sc.outst = [] →
      exec (.idembSnapshot g.uid) s = .next (s.setGroup (next { g.covered with
        idem := true
        snap := some ⟨g.sc.s, g.sc.c, g.dm, g.covered.k, g.sc.spc + 4, g.sc.sup⟩ }))) ∧
    (Waits s g .ideme → g.blocksOut = 0 →
      exec (.idemeComplete g.uid) s = .next (s.setGroup (next { g.covered with idem := false, snap := none }))) ∧
    (∀ tm, s.group? g.uid = some g → g.life = .resident → g.sc.entry = none → g.sc.wait = .exit → g.blocksOut = 0 →
      g.sc.outst = [] → (g.sc.sup = true ∨ g.sc.async = []) → (∀ l ∈ s.tramir.seals, l.g ≠ g.uid) →
      (∀ k ∈ g.tokens, k.fault = none) → s.team? g.place.team = some tm →
      ∃ t, exec (.groupRetire g.uid) s = .next t ∧ t.groups = s.groups.filter (fun h => h.uid != g.uid) ∧ t.mem = s.mem ∧
        QueueFlushed s t g ∧
        ((∃ u ∈ tm.members, u ≠ g.uid) → t.team? g.place.team = some { tm with
          channels := tm.channels.map (channelAfter (s.roleBase g.place.grid) g)
          members := tm.members.filter fun u => u != g.uid }) ∧
        ((∀ u ∈ tm.members, u = g.uid) → t.teams = s.teams.filter fun x => x.uid != tm.uid))

-- Requests and walks (spec/08, spec/10).

/-- R89, R90, R95, R96, R219, R222, R253, R278, R289: requests leave a store queue in order, and act one by one at their homes
or in the scratchpad. A load returns the bytes it finds; a store and an atomic change the bytes they cover and no other; a
store to the host or a peer awaits its acknowledgement; and the wait for an access to an SC page ends once the access is
complete.
Where the spec leaves the manner open it follows log entries 4, 13 and 14. -/
def Obligations.RequestsActAtTheirHome : Prop :=
  ∀ (s : State),
    (∀ (g : Group) r rest, s.group? g.uid = some g → g.sq = r :: rest → s.readBefore g r.who.lane r.seq r.after = false →
      let n := s.order.drains + 1
      let u : State := { s.setGroup { g with sq := rest } with order := { s.order with drains := n } }
      let c := s.core g.place.core
      let placed : MemReq := { r with cso := n }
      -- R275: a release at a narrow scope waits for the Plumb writes before it
      (∀ scope fence, r.op = .marker scope fence → scope ≤ 1 → s.plumbBefore r = false →
        exec (.storeQueueDrain g.uid) s = .next (u.markerDone placed)) ∧
      ((∀ scope fence, r.op = .marker scope fence → 1 < scope) → (r.reads = false ∨ r.writes = false) →
        exec (.storeQueueDrain g.uid) s = .next (u.setCore g.place.core { c with reqs := c.reqs ++ [placed] })) ∧
      -- R89, R280: loads that waited for a read-modify-write come behind it, with those behind them
      (r.reads = true → r.writes = true →
        let moves (q : MemReq) : Bool := q.heldBy [placed] || q.behindHeld c.reqs fun x => x.heldBy [placed]
        exec (.storeQueueDrain g.uid) s = .next (u.setCore g.place.core { c with
          reqs := (c.reqs.filter fun q => !moves q) ++ [placed] ++ c.reqs.filter moves }))) ∧
    (∀ core k r, ActsNow s core k r → r.isMarker = true →
      exec (.homeRequest core k) s =
        .next ((s.setCore core { s.core core with reqs := withoutReq s core r.id }).markerDone r)) ∧
    (∀ core k r g, ActsNow s core k r → r.scratch = true → r.isMarker = false → memWf (s.core core).scratch = true →
      (∀ x ∈ (s.core core).poisonS, ¬ (r.addr / 8 ≤ x ∧ x ≤ (r.addr + r.bytes - 1) / 8)) → s.group? r.who.g = some g →
      OperandsFit r.op →
      let old := memRead (s.core core).scratch r.addr r.bytes
      let loc := scratchLoc core r.addr
      let ks := s.knownTo r
      ∃ t, exec (.homeRequest core k) s = .next t ∧ OnlyGroup s t g.uid ∧ t.mem = s.mem ∧
        (t.core core).reqs = withoutReq s core r.id ∧ (t.core core).acc = (s.core core).acc ∧
        (∀ n, n ≠ core → t.core n = s.core n) ∧
        -- R89: a store of its own group, or the banks, which are read as they stand but behind a receive that orders nothing (R293)
        (r.writes = false → (t.core core).scratch = (s.core core).scratch ∧
          ∃ seen, t.group? g.uid = some (g.returned r.id (leNat seen)) ∧
            match r.forwarded (s.forwards core r) with
            | some bs => seen = bs
            | none => PastRead s loc (max ((slack ks).getD 0) (s.order.bound r.who.g core ks (loc / 8))) old seen ∧
                (slack ks = none → seen = old)) ∧
        (r.writes = true → BytesAt (s.core core).scratch (t.core core).scratch r.addr (storedBytes r.op (leNat old)) ∧
          t.group? g.uid = some (if r.reads then g.returned r.id (leNat old) else g))) ∧
    (∀ core k r g, ActsNow s core k r → r.scratch = false → r.isMarker = false → r.addr + r.bytes ≤ 0x3FE00000000 →
      r.addr % 128 + r.bytes ≤ 128 → s.portRefuses (core / 128) r.who.world r.addr = false → s.tramir.ranges = [] →
      r.addr / 128 ∉ s.mem.poison → s.group? r.who.g = some g → OperandsFit r.op →
      let old := (List.range r.bytes).map fun i => s.physByte r.who.world (r.addr + i)
      let bound := s.order.bound r.who.g core (s.knownTo r) (r.addr / 8)
      ∃ t, exec (.homeRequest core k) s = .next t ∧ OnlyGroup s t g.uid ∧
        (∀ n, (t.core n).scratch = (s.core n).scratch ∧ (t.core n).acc = (s.core n).acc) ∧
        (t.core core).reqs = withoutReq s core r.id ∧
        (∀ n acquire scope, r.op = .load n acquire scope →
          t.mem = s.mem ∧ (acquire = true → 2 ≤ scope → (t.core core).near = []) ∧
            ∃ seen, t.group? g.uid = some (g.returned r.id (leNat seen)) ∧
              match r.forwarded (s.forwards core r), s.nearHit core bound r with
              | some bs, _ => seen = bs
              | none, some (bs, _) => seen = (bs.drop (r.addr % 128)).take r.bytes
              | none, none => PastRead s r.addr bound old seen ∧ (r.sc = true → seen = old)) ∧
        (r.writes = true →
          OnlyCells s t r.who.world ((storedBytes r.op (leNat old)).zipIdx.map fun b => (r.addr + b.2, b.1)) ∧
            t.group? g.uid = some (if r.reads then g.returned r.id (leNat old) else g) ∧
            ∀ l ∈ (t.core core).near, ¬ (r.addr / 128 ≤ l.1 ∧ l.1 ≤ (r.addr + r.bytes - 1) / 128))) ∧
    (∀ core k r d g, ActsNow s core k r → r.scratch = false → r.op = .store d → 0x4000000000000 ≤ r.addr →
      r.addr < 0x8000000000000 → s.group? r.who.g = some g →
      ∃ t, exec (.homeRequest core k) s = .next t ∧ t.groups = s.groups ∧ SameMemory s t ∧
        (t.core core).reqs = withoutReq s core r.id ∧
        t.outb = s.outb ++ [⟨r.id, some r.who, some r, r.va, r.addr, 0, 0, false, s.fabric.keyGen, .store d⟩] ∧
        t.out = s.out ++ [.hostRequest (r.addr - 0x4000000000000) (.store d)]) ∧
    (∀ core k, exec (.nearCacheReplacement core k) s =
      .next (s.setCore core { s.core core with near := (s.core core).near.eraseIdx k })) ∧
    (∀ (g : Group), s.group? g.uid = some g → g.unhindered →
      let isOver (id : Nat) : Prop := (∀ r ∈ s.allReqs, r.id ≠ id) ∧ ∀ o ∈ s.outb, o.id ≠ id
      (∀ id, g.sc.wait = .scAccess id → isOver id →
        exec (.scAccessComplete false g.uid) s =
          .next (s.setGroup { g with sc := { g.sc with wait := if g.sc.hold then .hold else .ready, hold := false } })) ∧
      (∀ ids, g.ln.wait = .scAccess ids → (∀ id ∈ ids, isOver id) →
        exec (.scAccessComplete true g.uid) s =
          .next (s.setGroup { g with ln := { g.ln with wait := if g.ln.hold then .hold else .ready, hold := false } })))

/-- R231, R233, R236 to R246: the ends of walks and the control core's words. A walk ends at a leaf, which the TLB then holds,
at a fault, at a held PTE, or at a page to touch; a held PTE is read again after 2,048 clocks and faults after 2^26; a
first touch installs a frame of the die's pool or finds it empty; `dtlbi` removes every translation and datum register of
its range and `dtlbf` retires once what used them has acted.
Where the spec leaves the manner open it follows log entries 9 and 11. -/
def Obligations.WalksAndRemovalsEnd : Prop :=
  ∀ (s : State),
    (∀ (x : Context) (va : Word) pte e, s.ctx? x.spec.number = some x → canonical va = true →
      s.levelZero (va.toNat % 2 ^ 53) 3 x.spec.root.toNat = some (pte, e) →
      let frame := 8192 * (e / 2 ^ 13 % 2 ^ 39)
      let tier := e / 2 ^ 8 % 4
      let back := 8192 * (va.toNat / 8192 % 32)
      (e % 8 = 3 → e / 2 ^ 10 % 8 = 0 → tierOf frame = some tier → tierOf (frame + 8191) = some tier →
        (s.reduced = false ∨ tier = 1 ∨ tier = 2) →
        s.walk x.spec.number va = .leaf ⟨va.toNat % 2 ^ 53 / 8192 * 8192, 8192, frame, e / 8 % 2 == 1, e / 16 % 2 == 1,
          e / 32 % 2 == 1, e / 64 % 2 == 1, e / 128 % 2 == 1, BitVec.ofNat 2 tier, BitVec.ofNat 4 (e / 2 ^ 52)⟩) ∧
      (e % 8 = 3 → e / 2 ^ 10 % 8 = 1 → back ≤ frame → tierOf frame = some tier → tierOf (frame + 8191) = some tier →
        tierOf (frame - back) = some tier → tierOf (frame - back + (2 ^ 18 - 1)) = some tier →
        (s.reduced = false ∨ tier = 1 ∨ tier = 2) →
        s.walk x.spec.number va = .leaf ⟨va.toNat % 2 ^ 53 / 2 ^ 18 * 2 ^ 18, 2 ^ 18, frame - back, e / 8 % 2 == 1,
          e / 16 % 2 == 1, e / 32 % 2 == 1, e / 64 % 2 == 1, e / 128 % 2 == 1, BitVec.ofNat 2 tier,
          BitVec.ofNat 4 (e / 2 ^ 52)⟩) ∧
      (e % 8 = 2 → s.walk x.spec.number va = .held) ∧
      ((e % 8 = 0 ∨ e % 8 = 4 ∨ e % 8 = 6 ∨ e % 8 = 7 ∨ e % 8 = 1 ∨ (e % 2 = 1 ∧ e / 2 ^ 11 % 4 ≠ 0)) →
        s.walk x.spec.number va = .bad)) ∧
    (∀ w g x, WalkAt s w g x →
      let on (i : Instr) (since : Nat) : Prop :=
        (s.tablesAsleep g.place.ctx x.va = true → exec i s = .next s) ∧
        (s.tablesAsleep g.place.ctx x.va = false → s.walk g.place.ctx x.va = .held →
          exec i s = .next (s.setGroup (g.walking w { x with stage := .held since s.clk.clock }))) ∧
        (s.tablesAsleep g.place.ctx x.va = false → s.walk g.place.ctx x.va = .bad → exec i s = .next (s.setGroup (g.walkDone w x.va (.fault false)))) ∧
        (∀ pte e large, s.tablesAsleep g.place.ctx x.va = false → s.walk g.place.ctx x.va = .untouched pte e large →
          exec i s = .next (s.setGroup (if e / 2 ^ 8 % 4 = 0 then g.walking w { x with stage := .touching pte e large }
            else g.walkDone w x.va (.fault true)))) ∧
        (∀ l, s.tablesAsleep g.place.ctx x.va = false → s.walk g.place.ctx x.va = .leaf l → x.stale = false →
          exec i s = .next ((s.holding g.place.core g.place.ctx l).setGroup (g.walkDone w x.va (.leaf l)))) ∧
        (∀ l, s.tablesAsleep g.place.ctx x.va = false → s.walk g.place.ctx x.va = .leaf l → x.stale = true →
          exec i s = .next (s.setGroup (g.walking w ⟨x.va, .walking, false⟩)))
      (x.stage = .walking → on (.walkComplete w) s.clk.clock) ∧
      (∀ since last, x.stage = .held since last →
        (last + 2048 ≤ s.clk.clock → on (.heldPteReread w) since) ∧
        (since + 2 ^ 26 ≤ s.clk.clock → s.walk g.place.ctx x.va = .held →
          exec (.heldPteTimeout w) s = .next (s.setGroup (g.walkDone w x.va (.fault false))))) ∧
      (∀ pte e large, x.stage = .touching pte e large →
        let d := s.die g.die
        let again : Group := g.walking w { x with stage := .walking }
        let pool := if large then d.ft.large else d.ft.small
        let now := leNat ((List.range 8).map fun i => s.physByte (s.keyOf (pte / 128)).world (pte + i))
        (now ≠ e → exec (.firstTouch w) s = .next (s.setGroup again)) ∧
        (now = e → e / 2 ^ 8 % 4 ≠ 0 → exec (.firstTouch w) s = .next (s.setGroup (g.walkDone w x.va (.fault true)))) ∧
        (now = e → e / 2 ^ 8 % 4 = 0 → pool = [] → g.place.core < 2048 →
          exec (.firstTouch w) s = .next ((s.setDie g.die { d with ft := { d.ft with flags := d.ft.flags ||| 4 } }).setGroup
            (g.walkDone w x.va (.fault true)))) ∧
        (∀ f rest, now = e → e / 2 ^ 8 % 4 = 0 → pool = f :: rest → s.tramir.ranges = [] → pte % 8 = 0 →
          pte + 8 ≤ 0x3FE00000000 → 4 ≤ e → e - 2 + f < 2 ^ 64 →
          ∃ t, exec (.firstTouch w) s = .next t ∧ OnlyGroup s t g.uid ∧ t.group? g.uid = some again ∧
            OnlyCells s t (s.keyOf (pte / 128)).world ((List.range 8).map fun i =>
              (pte + i, BitVec.ofNat 8 ((e - 2 + f) / 256 ^ i))) ∧
            (t.die g.die).ft = (if large then
                { d.ft with large := rest, flags := if rest.length ≤ 2 then d.ft.flags ||| 2 else d.ft.flags }
              else { d.ft with small := rest, flags := if rest.length ≤ 64 then d.ft.flags ||| 1 else d.ft.flags })))) ∧
    (∀ (o : EngOp) h, s.engs.find? (fun q => q.uid == o.uid) = some o → o.held = some h →
      let set (o : EngOp) : State := { s with engs := s.engs.map fun q => if q.uid = o.uid then o else q }
      (h.asleep = true → h.last + 2048 ≤ s.clk.clock →
        exec (.heldPteReread (.engine o.uid)) s = .next (set { o with held := some { h with asleep := false } })) ∧
      (h.since + 2 ^ 26 ≤ s.clk.clock →
        exec (.heldPteTimeout (.engine o.uid)) s =
          .next (set { o with timedOut := true, held := some { h with asleep := false } }))) ∧
    (∀ (b a : BitVec 5),
      let reg (r : BitVec 5) : Word := if r = 0 then 0 else s.hart.x[r.toNat]'r.isLt
      let gone (ctx lo len : Nat) : Bool := removes (reg a) (reg b) ctx lo len
      let datum (ctx : Nat) (d : Datum) : Datum := if gone ctx (d.base.toNat % 2 ^ 53) d.limit then { d with v := false } else d
      let kept (ctx : Nat) (p : Nat × WalkEnd) : Bool := !gone ctx (8192 * p.1) 8192 && match p.2 with
        | .leaf q => !gone ctx q.vbase q.size
        | .fault _ => true
      let ids := (s.allReqs.filter fun q => !q.scratch && !q.isMarker &&
        ((reg b).getLsbD 16 || decide (q.who.ctx = (reg b).toNat % 2 ^ 16))).map fun q => q.id
      s.hart.priv ≠ 0 →
      ∃ t, exec (.dtlbi b a) s = .next t ∧ SameMemory s t ∧
        t.hart = { s.hart with pc := s.hart.pc + 4, drain := (s.hart.drain ++ ids).eraseDups } ∧
        (∀ n, (t.core n).tlb = (s.core n).tlb.filter fun e => !gone e.ctx e.leaf.vbase e.leaf.size) ∧
        (∀ n, (t.die n).tlb = (s.die n).tlb.filter (fun e => !gone e.ctx e.leaf.vbase e.leaf.size) ∧
          (t.die n).tlbBig = (s.die n).tlbBig.filter fun e => !gone e.ctx e.leaf.vbase e.leaf.size) ∧
        ∀ u g, s.group? u = some g → ∃ h, t.group? u = some h ∧ h.sc.s = g.sc.s ∧ h.sc.spc = g.sc.spc ∧ h.sr = g.sr ∧
          h.ln.v = g.ln.v ∧ h.ln.frags = g.ln.frags ∧ h.dm = g.dm.map (datum g.place.ctx) ∧
          h.snap = (g.snap.map fun x => { x with dm := x.dm.map (datum g.place.ctx) }) ∧
          h.sc.walked = g.sc.walked.filter (kept g.place.ctx) ∧ h.ln.walked = g.ln.walked.filter (kept g.place.ctx)) ∧
    (s.hart.priv ≠ 0 → (∀ r ∈ s.allReqs, r.id ∉ s.hart.drain) →
      exec .dtlbf s = .next { s with
        hart := { s.hart with pc := s.hart.pc + 4, drain := [] }
        cores := s.cores.map fun c => (c.1, { c.2 with near := [] }) }) ∧
    (∀ i, (i = .dtlbf ∨ ∃ b a, i = .dtlbi b a) → s.hart.priv = 0 →
      ∃ t, exec i s = .next t ∧ SameMemory s t ∧ t.groups = s.groups ∧ t.hart.pc = wordOf (s.hart.mtvec.toNat / 4 * 4) ∧
        t.hart.mepc = s.hart.pc ∧ t.hart.mcause = 2 ∧ t.hart.mpp = 0 ∧ t.hart.priv = 3 ∧ t.hart.mpie = s.hart.mie ∧
        t.hart.mie = false ∧ t.hart.x = s.hart.x)

-- The supervisor's control of groups (spec/15).

/-- R120, R359 to R362, R364: the writes of GCTL. A write is ignored while an operation is busy, and ends with STAT 1 where it
names no group and 2 where the group's state does not allow it. RESUME lets a halted group go on at TPC in supervisor mode
and a stopped one as it stands; STOP sends a stop to a group, which issues on until it comes, within 24 clocks; DISCARD removes it and
counts it as killed; FATAL halts its team, whose siblings stop in the same way; EVICT begins its eviction. A stop that comes stops
the group and writes its record, or waits for its trap entry or for what binds it.
Where the spec leaves the manner open it follows log entries 5, 30 and 40. -/
def Obligations.GctlWritesAct : Prop :=
  ∀ (s : State) (die : Nat) (v : Word),
    let op := v.toNat / 2 ^ 28 % 2 ^ 4
    let sent (halts : Bool) : ComingStop := ⟨⟨halts, .clock s.clk.clock, false⟩, 24⟩
    (∀ u, s.sched.turn = .land u → s.clk.fenced = false → step s = .next (s.advance.land u)) ∧
    (∀ (g : Group) (c : ComingStop), s.group? g.uid = some g → g.coming = some c →
      (g.life = .resident → (g.sc.entry ≠ none ∨ g.sc.wait.binding = true) →
        s.land g.uid = s.setGroup { g with
          coming := none
          stop := if g.stop = none ∨ c.wait.halted = true then some c.wait else g.stop }) ∧
      (g.life ≠ .resident → c.wait.halted = false → s.land g.uid = s.setGroup { g with coming := none }) ∧
      (g.life = .resident → g.sc.entry = none → g.sc.wait.binding = false → c.wait.halted = true →
        ∃ h, (s.land g.uid).group? g.uid = some h ∧ h.life = .teamHalted ∧ h.coming = none ∧ h.stop = none ∧
          h.sc.spc = g.sc.spc ∧ h.sc.s = g.sc.s ∧ h.ln = g.ln ∧ h.sr = g.sr) ∧
      (∀ x pa, g.life = .resident → g.sc.entry = none → g.sc.wait.binding = false → c.wait.halted = false → StopPlace s g x pa →
        ∃ bs h, OnlyGroup s (s.land g.uid) g.uid ∧ (s.land g.uid).group? g.uid = some h ∧
          h = { ({ g with sc := (if g.sc.wait = .latch then { g.sc with wait := .ready } else g.sc) } : Group).sleepEnded with
            life := .stopped
            coming := none
            stop := none
            evicting := g.evicting.map (fun _ => true) } ∧
          StopRecordOf s h 0x20 c.wait.since c.wait.lostord bs ∧
          OnlyCells s (s.land g.uid) x.spec.world (bs.zipIdx.map fun b => (pa + b.2, b.1)) ∧
          (∀ l ∈ (s.land g.uid).latches, ∀ m ∈ l.2.members, m.g ≠ g.uid) ∧ (s.land g.uid).out = s.out ∧
          (s.land g.uid).dies = s.dies ∧
          (∀ n, ((s.land g.uid).core n).scratch = (s.core n).scratch ∧ ((s.land g.uid).core n).acc = (s.core n).acc))) ∧
    let word (n : Nat) : Instr := if n = 1 then .resume die v else if n = 2 then .discard die v else if n = 3 then .fatal die v
      else if n = 4 then .stop die v else .evict die v
    (∀ n, 1 ≤ n → n ≤ 5 → (s.die die).busy ≠ none → exec (word n) s = .next s) ∧
    (1 ≤ op → op ≤ 5 → die < 16 → (s.die die).busy = none → (∀ g, ¬ Named s die v g) →
      (∀ g ∈ s.groups, s.group? g.uid = some g) → (∀ g ∈ s.groups, ∀ h ∈ s.groups, g.isResident = true → h.isResident = true →
        g.place.core = h.place.core → g.place.slot = h.place.slot → g = h) →
      exec (word op) s = .next (s.gctlAs die v 1 none)) ∧
    (∀ (g : Group) (x : Context), Named s die v g → s.ctx? g.place.ctx = some x →
      let preemptible : Prop := ∃ y, s.grid? g.place.grid = some y ∧ y.lrec.flags.getLsbD 3 = true
      let inHaltedTeam : Prop := ∃ tm, s.team? g.place.team = some tm ∧ tm.halted ≠ none
      ((op = 1 ∧ (x.ending = true ∨ g.life = .resident ∨ g.life = .teamHalted)) ∨
          (op = 2 ∧ g.life = .resident ∧ ¬ inHaltedTeam) ∨ (op = 3 ∧ g.life ≠ .halted) ∨
          (op = 4 ∧ (g.life ≠ .resident ∨ inHaltedTeam)) ∨ (op = 5 ∧ ¬ preemptible) →
        exec (word op) s = .next (s.gctlAs die v 2 none)) ∧
      (op = 1 → x.ending = false → g.stop = none →
        (g.life = .halted → exec (.resume die v) s =
          .next ((s.setGroup { g with life := .resident, sc := { g.sc with spc := g.sr.tpc, sup := true } }).gctlAs die v 0 none)) ∧
        (g.life = .stopped →
          exec (.resume die v) s = .next ((s.setGroup { g with life := .resident }).gctlAs die v 0 none))) ∧
      (op = 2 → (g.life ≠ .resident ∨ inHaltedTeam) → (∀ l ∈ s.tramir.seals, l.g ≠ g.uid) →
        ∃ t, exec (.discard die v) s = .next t ∧ t.group? g.uid = none ∧
          (∀ u, u ≠ g.uid → (∀ h, s.group? u = some h → ∀ d a p arw, h.sc.wait ≠ .barWait d a p arw) → t.group? u = s.group? u) ∧
          (∀ tm, s.team? g.place.team = some tm → (∃ u ∈ tm.members, u ≠ g.uid) →
            t.team? g.place.team = some { tm with
              killed := tm.killed + 1
              channels := tm.channels.map (channelAfter (s.roleBase g.place.grid) g)
              members := tm.members.filter fun u => u != g.uid }) ∧
          (∀ y, s.grid? g.place.grid = some y → ∃ z, t.grid? g.place.grid = some z ∧ z.killed = true ∧
            (inHaltedTeam → z.nlog = y.nlog) ∧ (¬ inHaltedTeam → z.nlog = y.nlog + 1)) ∧
          (t.core g.place.core).reqs =
            ((s.core g.place.core).reqs.filter fun r => !(r.who.g == g.uid && !r.writes && !r.isMarker)) ++
              placedFrom s.order.drains g.sq ∧
          (t.die die).gctl = ((s.gctlAs die v 0 none).die die).gctl) ∧
      (∀ tm, op = 3 → g.life = .halted → s.team? g.place.team = some tm → g.uid ∈ tm.members →
        ∃ t, exec (.fatal die v) s = .next t ∧
          (t.team? g.place.team).map (fun m => m.halted) = some (some (BitVec.ofNat 8 g.sr.tcause.toNat)) ∧
          (tm.members.Nodup → ∀ u ∈ tm.members, ∀ h, s.group? u = some h → u ≠ g.uid → h.life = .resident → h.coming = none →
            h.stop = none → ∃ h', t.group? u = some h' ∧ h'.life = .resident ∧ h'.coming = some (sent true) ∧ h'.stop = none ∧
              h'.sc = h.sc ∧ h'.ln = h.ln ∧ h'.sr = h.sr) ∧
          (∀ u ∈ tm.members, ∀ h, s.group? u = some h → h.isResident = true → h.sc.entry = none → h.sc.wait.binding = false →
            (u = g.uid ∨ h.life ≠ .resident ∨ h.coming ≠ none ∨ h.stop ≠ none) →
            ∃ h', t.group? u = some h' ∧ h'.life = .teamHalted ∧ h'.sc.spc = h.sc.spc ∧ h'.sc.s = h.sc.s ∧ h'.ln = h.ln ∧
              h'.sr = h.sr) ∧
          (∀ u, u ∉ tm.members → t.group? u = s.group? u) ∧
          (∀ y, s.grid? tm.grid = some y → tm.grid = g.place.grid → ∃ z, t.grid? tm.grid = some z ∧ z.nlog = y.nlog + 1 ∧
            z.fatal = (if y.fatal = none then some (BitVec.ofNat 8 g.sr.tcause.toNat) else y.fatal))) ∧
      (op = 4 → g.life = .resident → ¬ inHaltedTeam →
        (g.coming = none → g.stop = none →
          exec (.stop die v) s = .next ((s.setGroup { g with coming := some (sent false) }).gctlAs die v 3 (some g.uid))) ∧
        (g.coming ≠ none ∨ g.stop ≠ none → exec (.stop die v) s = .next (s.gctlAs die v 3 (some g.uid)))) ∧
      (op = 5 → preemptible →
        exec (.evict die v) s = .next ((s.setGroup (g.evictionReaches s.clk.clock)).gctlAs die v 3 (some g.uid))))

/-- R359, R362, R365 to R372: slices, evictions, restores and the end of a context. A slice that expires evicts the groups
that R366 chooses; a drained group is saved as it stands or restarts from its region; GROUP_RESTORE brings it back to its
slot with its team's windows, or halts the team of a protected grid with INTEG, a free choice (log entry 16); CTXEND sends a stop to the groups of a context and drops its grids, and once the context is quiet
nothing of it is left.
Where the spec leaves the manner open it follows log entries 16, 31 and 32. -/
def Obligations.ContextsAreSwitched : Prop :=
  ∀ (s : State),
    (∀ core ctx x y us, s.ctx? ctx = some x → s.expiryPlan core ctx = some (y, us) →
      x.spec.slice ≤ look 0 (s.core core).slices ctx →
      (∃ t, exec (.sliceExpiry core ctx) s = .next t ∧ t.mem = s.mem ∧
        (∀ u, t.group? u = (s.group? u).map fun g => if u ∈ us then g.evictionReaches s.clk.clock else g) ∧
        t.core core = { s.core core with
          slices := put (s.core core).slices ctx 0
          reserved := if us = [] then (s.core core).reserved else some y.uid } ∧
        ∀ n, n ≠ core → t.core n = s.core n) ∧
      y.ctx ≠ ctx ∧
      let may (g : Group) : Prop := g ∈ s.groups ∧ g.place.core = core ∧ g.isResident = true ∧ s.preemptible g = true ∧
        ((s.core core).part = y.lrec.partw → g.place.ctx = ctx)
      (∀ u ∈ us, ∃ g, g.uid = u ∧ may g) ∧
        ((s.core core).part = y.lrec.partw → (∀ g ∈ s.groups, s.group? g.uid = some g) →
          ∀ g h, may g → may h → s.evictsBefore g h = true → h.uid ∈ us → g.uid ∈ us)) ∧
    (∀ g, s.groups.filter Group.drained = [g] → s.group? g.uid = some g →
      (g.idem = false → (g.used = true ∨ ∀ y, s.grid? g.place.grid = some y → y.lrec.flags.getLsbD 0 = false) →
        s.finishEvictions.group? g.uid = some (g.saved s.sched.uid)) ∧
      (∀ x, g.idem = true → g.snap = some x →
        s.finishEvictions.group? g.uid = some { g with
          life := .restart
          evict := some s.sched.uid
          evicting := none
          sc := { Scalar.start x.restart with s := x.s, c := x.c, sup := x.sup, async := g.sc.async }
          ln := Lanes.start
          dm := x.dm
          k := x.k }) ∧
      (∀ y k, g.idem = false → g.used = false → s.grid? g.place.grid = some y → s.ctx? g.place.ctx = some k →
        y.lrec.flags.getLsbD 0 = true →
        let r := y.lrec.role (y.lrec.roleAt g.place.gid.toNat)
        ∃ h, s.finishEvictions.group? g.uid = some h ∧ h.life = .restart ∧ h.evict = some s.sched.uid ∧ h.evicting = none ∧
          h.place = g.place ∧ h.sc = { Scalar.start (y.lrec.entry + word r.entryOff) with async := g.sc.async } ∧
          h.ln = Lanes.start ∧ h.role = ⟨y.lrec.roleAt g.place.gid.toNat, r.vregs, r.prio⟩ ∧ h.tokens = g.tokens ∧
          h.lastTok = g.lastTok ∧ h.kacc = g.kacc ∧ h.seq = g.seq)) ∧
    (∀ (g : Group) tm y, s.group? g.uid = some g → s.team? g.place.team = some tm → s.grid? g.place.grid = some y →
      s.restorable g tm y = true → tm.core = g.place.core →
      let back : Group := { g with
        place := match g.life, s.ctx? g.place.ctx with
          | .restart, some k => { g.place with gser := serialAfter 1 k.gser }
          | _, _ => g.place
        life := .resident
        evict := none
        latchAway := none }
      (∀ h ∈ s.groups, h.place.core = g.place.core → (h.isResident = true → h.place.slot ≠ g.place.slot) ∧
        (h.isResident = false → g.evict.getD 0 ≤ h.evict.getD 0)) ∧
      (tm.halted = none → g.latchAway = none → y.lrec.flags.getLsbD 1 = false →
        ∃ t, exec (.groupRestore g.uid) s = .next t ∧ OnlyGroup s t g.uid ∧ t.group? g.uid = some back ∧ t.mem = s.mem ∧
          (t.core g.place.core).part = y.lrec.partw ∧ (∀ n, n ≠ g.place.core → t.core n = s.core n) ∧
          (tm.saved = none → (t.core g.place.core).scratch = (s.core g.place.core).scratch ∧
            (t.core g.place.core).acc = (s.core g.place.core).acc) ∧
          ∀ sx acc, tm.saved = some (sx, acc) → (s.core g.place.core).wf = true →
            t.team? g.place.team = some { tm with saved := none } ∧
            BytesAt (s.core g.place.core).scratch (t.core g.place.core).scratch tm.sxbase sx ∧
            BytesAt (s.core g.place.core).acc (t.core g.place.core).acc tm.accbase acc) ∧
      (tm.halted ≠ none → ∃ t h, exec (.groupRestore g.uid) s = .next t ∧ t.group? g.uid = some h ∧ h.life = .teamHalted ∧
        h.sc.spc = g.sc.spc ∧ h.sc.s = g.sc.s ∧ h.ln = g.ln ∧ h.sr = g.sr) ∧
      (tm.halted = none → g.latchAway = none → y.lrec.flags.getLsbD 1 = true →
        ∃ t h, exec (.groupRestore g.uid) s = .next t ∧ t.group? g.uid = some h ∧
          (h = back ∨ (h.life = .teamHalted ∧ h.sr.tcause.toNat % 256 = 0x13 ∧ h.sr.tpc = g.sc.spc ∧
            (t.team? g.place.team).map (fun m => m.halted) = some (some 0x13)))) ∧
      (∀ reason, tm.halted = none → g.latchAway = some reason → y.lrec.flags.getLsbD 1 = false → g.stop = none → g.sc.outst = [] → g.ln.outst = [] →
        g.sc.wait.binding = false → g.ln.wait.binding = false →
        ∃ t h, exec (.groupRestore g.uid) s = .next t ∧ t.group? g.uid = some h ∧ h.sr.tcause.toNat % 256 = 7 ∧
          h.sr.tval = reason)) ∧
    (∀ v : Word,
      let stat := s.clk.ctxend.toNat / 2 ^ 18 % 4
      let n : Nat := v.toNat % 2 ^ 16
      let reads (x : Nat) : State := { s with clk := { s.clk with ctxend := wordOf (2 ^ 18 * x + n) } }
      (stat = 1 → exec (.ctxend v) s = .next s) ∧
      (stat ≠ 1 → v.getLsbD 16 = false → exec (.ctxend v) s = .next (reads stat)) ∧
      (stat ≠ 1 → v.getLsbD 16 = true → s.ctx? n = none → exec (.ctxend v) s = .next (reads 2)) ∧
      (∀ x, stat ≠ 1 → v.getLsbD 16 = true → s.ctx? n = some x → (∀ g ∈ s.groups, s.group? g.uid = some g) →
        ∃ t, exec (.ctxend v) s = .next t ∧ t.clk = (reads 1).clk ∧ t.ctx? n = some { x with ending := true } ∧
          t.grids = (s.grids.map fun y => if y.ctx = n ∧ y.placed < y.lrec.teams then { y with dropped := true } else y) ∧
          ∀ u h, s.group? u = some h → ∃ h', t.group? u = some h' ∧ h'.sc.s = h.sc.s ∧ h'.ln = h.ln ∧ h'.sq = h.sq ∧
            (h.place.ctx ≠ n → h' = h) ∧
            (h.place.ctx = n → h.life = .resident → h.coming = none → h.stop = none →
              h'.life = .resident ∧ h'.coming = some ⟨⟨false, .clock s.clk.clock, false⟩, 24⟩))) ∧
    (∀ x, s.ctxs.find? (fun c => c.ending) = some x → s.endQuiet x.spec.number = true →
      let n := x.spec.number
      let t := s.finishContexts
      t.clk.ctxend = (if s.clk.ctxend.toNat / 2 ^ 18 % 4 = 1 ∧ s.clk.ctxend.toNat % 2 ^ 16 = n then wordOf n else s.clk.ctxend) ∧
        t.mem = s.mem ∧ (∀ g ∈ t.groups, g.place.ctx ≠ n) ∧ (∀ y ∈ t.grids, y.ctx ≠ n) ∧
        (∀ y ∈ t.ctxs, y.spec.number ≠ n) ∧ (∀ c ∈ t.cores, ∀ e ∈ c.2.tlb, e.ctx ≠ n) ∧
        (∀ d ∈ t.dies, ∀ e ∈ d.2.tlb ++ d.2.tlbBig, e.ctx ≠ n) ∧
        (∀ o ∈ t.engs, o.who.ctx ≠ n) ∧ (∀ o ∈ t.mats, o.who.ctx ≠ n) ∧ ∀ d, ∀ q ∈ (t.die d).tensors, q.ctx ≠ n)

-- Errors and the registers of the control spaces (spec/11, spec/15, spec/22).

/-- R234, R238, R262, R363, R364, R374, R375, R454: errors and the registers of the control spaces. An error poisons its
sector, word or register; the grazer changes no value; a late fault of a resident group is taken as DEFER, one of a group
that has left is logged; and the writes of CBUD, of the fill registers and of FTSTAT change what their rules say.
Where the spec leaves the manner open it follows log entries 22 and 23. -/
def Obligations.ErrorsAndRegistersAct : Prop :=
  ∀ (s : State),
    (∀ n, Sector n → n ∉ s.mem.poison →
      exec (.uncorrectableError (.sector n)) s = .next { s with mem := { s.mem with poison := n :: s.mem.poison } }) ∧
    (∀ core w, core < 2048 →
      let c := s.core core
      (8 * w + 8 ≤ scratchBytes c.part → w ∉ c.poisonS →
        exec (.uncorrectableError (.scratch core w)) s = .next (s.setCore core { c with poisonS := w :: c.poisonS })) ∧
      (8 * w + 8 ≤ accBytes c.part → w ∉ c.poisonA →
        exec (.uncorrectableError (.accumulator core w)) s = .next (s.setCore core { c with poisonA := w :: c.poisonA }))) ∧
    (∀ n, Sector n → n ∉ s.mem.poison →
      exec (.uncorrectableError (.homeCache n)) s =
        .next { s with mem := { s.mem with poison := n :: s.mem.poison, cached := n :: s.mem.cached } }) ∧
    (∀ (g : Group) tm k, s.group? g.uid = some g → s.team? g.place.team = some tm → k < 8448 → k ∉ g.ln.bad →
      let o := exec (.uncorrectableError (.register g.uid k)) s
      let both : Group := { g with ln := { g.ln with bad := k :: g.ln.bad, badOne := g.ln.badOne.filter fun x => x != k } }
      (tm.mirror = false → o = .next (s.setGroup { g with ln := { g.ln with bad := k :: g.ln.bad } })) ∧
      (tm.mirror = true → k ∉ g.ln.badOne →
        o = .next (s.setGroup { g with ln := { g.ln with badOne := k :: g.ln.badOne } })) ∧
      (tm.mirror = true → k ∈ g.ln.badOne → o = .next (s.counted 1 0) ∨ o = .next ((s.counted 1 0).setGroup both))) ∧
    (∀ n, Sector n → GrazerReads s n 0 (exec (.grazerVisit (.sector n)) s)) ∧
    (∀ n tries t, s.mem.retry.find? (fun r => r.1 == n) = some (n, tries, t) → t + 4096 ≤ s.clk.clock →
      GrazerReads s n tries (exec (.grazerRetry n) s)) ∧
    (∀ n tries changed, s.mem.visits.find? (fun v => v.1 == n) = some (n, tries, changed) →
      let done (l : List (Nat × Nat × Nat)) : State :=
        { s with mem := { s.mem with visits := s.mem.visits.filter fun v => v.1 != n, retry := l } }
      s.writeBack n = if changed then done (if tries < 16 then s.mem.retry ++ [(n, tries + 1, s.clk.clock)] else s.mem.retry)
        else (done s.mem.retry).emitError (sectorReport (128 * n)) true noCtx) ∧
    (∀ core w, core < 2048 →
      let c := s.core core
      let at_ (bad : Bool) (site : ErrorSite) (e : ErrorReport) : Prop :=
        (bad = true → exec (.grazerVisit site) s = .next (s.emitError e false noCtx)) ∧
        (bad = false → exec (.grazerVisit site) s = .next (s.counted 1 0) ∨
          exec (.grazerVisit site) s = .next ((s.counted 1 0).emitError e true noCtx))
      (8 * w + 8 ≤ scratchBytes c.part → at_ (c.poisonS.contains w) (.scratch core w) (poolReport core w)) ∧
      (8 * w + 8 ≤ accBytes c.part → at_ (c.poisonA.contains w) (.accumulator core w) (poolReport core w))) ∧
    (∀ k r, s.reports[k]? = some r →
      let rest : State := { s with reports := s.reports.eraseIdx k }
      (∀ g, s.group? r.who.g = some g → g.uid = r.who.g → g.sc.sup = false →
        (∀ q ∈ s.reports.take k, q.who.g ≠ r.who.g) →
        exec (.deferredFaultReport k) s = .next (rest.setGroup { g with
          sc := { g.sc with async := g.sc.async ++ [⟨0x19, false, r.addr, 0, 0, false⟩] } })) ∧
      (∀ x y pa, s.group? r.who.g = none → s.grid? r.who.grid = some y → LogPlace s r.who x pa →
        ∃ t bs, exec (.deferredFaultReport k) s = .next t ∧ t.reports = rest.reports ∧ t.groups = s.groups ∧
          t.grid? r.who.grid = some { y with nlog := y.nlog + 1, deferred := true } ∧
          t.ctx? r.who.ctx = some { x with logw := x.logw + 1 } ∧
          LogEntryOf s 1 r.cause.toNat (if r.engine then 2 else if r.who.lane then 1 else 0) r.who r.who.pc r.addr bs ∧
          OnlyCells s t x.spec.world (bs.zipIdx.map fun b => (pa + b.2, b.1)))) ∧
    (∀ (die : Nat) (v : Word), die < 16 →
      let d := s.die die
      let f := d.ft
      let x := v.toNat
      let ft (f : FirstTouch) : State := s.setDie die { d with ft := f }
      let fits (size : Nat) : Prop := x % size = 0 ∧ 2 ^ 36 * die ≤ x ∧ x < 2 ^ 36 * (die + 1)
      let fill (i : Instr) (size limit : Nat) (pool : List Nat) (more : FirstTouch) : Prop :=
        (¬ fits size → exec i s = .next (ft { f with flags := f.flags ||| 16 })) ∧
        (fits size → limit ≤ pool.length → exec i s = .next (ft { f with flags := f.flags ||| 8 })) ∧
        (fits size → pool.length < limit → exec i s = .next (ft more))
      fill (.ftfill8k die v) (2 ^ 13) 1024 f.small { f with small := f.small ++ [x] } ∧
      fill (.ftfill8m die v) (2 ^ 23) 32 f.large { f with large := f.large ++ [x] } ∧
      fill (.ftrsvfill die v) (2 ^ 13) 256 f.reserve { f with reserve := f.reserve ++ [x] } ∧
      exec (.ftstatClear die v) s = .next (ft { f with flags := f.flags &&& ~~~BitVec.ofNat 5 (x / 2 ^ 24) }) ∧
      (∀ core, core < 128 →
        let n := 128 * die + core
        let b := min 64 (x % 2 ^ 7) / 4 * 4
        let t := s.setCore n { s.core n with newBudget := some b }
        exec (.cbudWrite die core v) s = .next t ∧ (t.applyBudgets.core n).budget = b)) ∧
    (∀ offset v, exec (.registerWrite offset v) s = .next s)

-- The host and the fabric (spec/20).

/-- R160 to R162, R167, R374, R433 to R435, R457: the host's requests and START. A context is created once its number is free;
START launches the conductor grid once; a posted write changes the bytes it covers and no other, and a read returns them
line by line, a poisoned line as ones; a request that meets a held PTE waits, and so does every request behind one that waits; the
control page reads as its table says, and any other request is answered
Unsupported Request.
Where the spec leaves the manner open it follows log entries 24 and 25. -/
def Obligations.HostRequestsAct : Prop :=
  ∀ (s : State),
    (∀ k : ContextSpec, 2 ≤ s.clk.phase → k.number < 2 ^ 16 → s.ctx? k.number = none → k.logBase.toNat % 64 = 0 →
      (∃ j, 4 ≤ j ∧ j ≤ 20 ∧ k.logSize = 2 ^ j) →
      (k.slice = 0 → exec (.contextCreation k) s =
        .next { s with ctxs := s.ctxs ++ [⟨{ k with slice := 4500000 }, none, none, 0, 0, 0, 0, false⟩] }) ∧
      (281250 ≤ k.slice → k.slice ≤ 72000000 →
        exec (.contextCreation k) s = .next { s with ctxs := s.ctxs ++ [⟨k, none, none, 0, 0, 0, 0, false⟩] }) ∧
      ((0 < k.slice ∧ k.slice < 281250) ∨ 72000000 < k.slice → exec (.contextCreation k) s = .next s)) ∧
    (∀ n (v : Word) (c : Context), s.ctx? n = some c →
      (c.start ≠ none ∨ c.ending = true → exec (.start n v) s = .next s) ∧
      (c.start = none → c.ending = false → (∀ y ∈ s.grids, y.uid ≠ s.sched.uid) →
        ∃ t y, exec (.start n v) s = .next t ∧ t.groups = s.groups ∧ untimed t.grids = untimed (s.grids ++ [y]) ∧
          y.uid = s.sched.uid ∧ y.handle = wordOf (2 ^ 32 * (n % 2 ^ 16) + (c.serial + 1).toNat) ∧ y.ctx = n ∧ y.conductor = true ∧
          t.ctx? n = some { c with start := some v, cond := some y.uid, serial := c.serial + 1 } ∧
          ((v.toNat % 128 ≠ 0 ∨ (s.tablesAsleep n v = false ∧ s.walk n v = .bad)) → y.status = some (statusOf 5 12 0)) ∧
          ∀ b cb, DeviceRecord s n c.spec.world v b cb → SameMemory s t ∧
            match validate n (c.serial + 1).toNat true b cb with
            | some r => y.status = some (statusOf 5 r 0)
            | none => y.status = none ∧ y.reading = none ∧ y.lrec = launchRec b ∧ y.chans = (chanBytes cb).map channelOfBytes)) ∧
    (∀ n (c : Context) addr data pa, HostTurn s → s.ctx? n = some c →
      PageAt s 16 n c.spec.world .store (word addr) (List.length data) pa →
      ∃ t, exec (.hostPostedWrite (some n) addr data) s = .next t ∧ t.groups = s.groups ∧ t.out = s.out ∧
        OnlyCells s t c.spec.world (data.zipIdx.map fun b => (pa + b.2, b.1)) ∧
        t.mem.poison = s.mem.poison.filter fun k => !(decide (pa ≤ 128 * k) && decide (128 * k + 128 ≤ pa + data.length))) ∧
    (∀ n (c : Context) addr len pa, HostTurn s → s.ctx? n = some c → PageAt s 16 n c.spec.world .load (word addr) len pa →
      pa % 128 = addr % 128 →
      let part (p : Nat × Nat) : OutMsg :=
        let bad := decide ((pa + p.1) / 128 ∈ s.mem.poison)
        .hostData ((List.range p.2).map fun i => if bad then 0xFF else s.physByte c.spec.world (pa + p.1 + i)) bad
      exec (.hostRead (some n) addr len) s = .next { s.counted 1 0 with out := s.out ++ (lineParts addr len).map part }) ∧
    (∀ p addr data len, HostTurn s → (∀ n, p = some n → s.ctx? n = none) → (p = none → 2 ^ 28 < addr + min (List.length data) len) →
      exec (.hostPostedWrite p addr data) s = .next (s.said (.unsupportedRequest addr)) ∧
        exec (.hostRead p addr len) s = .next (s.said (.unsupportedRequest addr))) ∧
    (∀ n (c : Context) addr data len, HostTurn s → s.ctx? n = some c → s.tablesAsleep n (word addr) = false →
      s.walk n (word addr) = .bad → 0 < List.length data → 0 < len →
      exec (.hostPostedWrite (some n) addr data) s = .next (s.said (.unsupportedRequest addr)) ∧
        exec (.hostRead (some n) addr len) s = .next (s.said (.unsupportedRequest addr))) ∧
    (∀ n (c : Context) addr data len, HostTurn s → s.ctx? n = some c → s.tablesAsleep n (word addr) = false →
      s.walk n (word addr) = .held → 0 < List.length data → 0 < len →
      let waits (a : DeviceAct) : State :=
        { s.counted 0 1 with jobs := s.jobs ++ [⟨s.sched.uid, a, some (s.clk.clock, s.clk.clock)⟩] }
      exec (.hostPostedWrite (some n) addr data) s = .next (waits (.hostWrite (some n) addr data)) ∧
        exec (.hostRead (some n) addr len) s = .next (waits (.hostRead (some n) addr len))) ∧
    (∀ p addr data len, (∃ j ∈ s.jobs, j.act.isHost = true) →
      let waits (a : DeviceAct) : State := { s.counted 0 1 with jobs := s.jobs ++ [⟨s.sched.uid, a, none⟩] }
      exec (.hostPostedWrite p addr data) s = .next (waits (.hostWrite p addr data)) ∧
        exec (.hostRead p addr len) s = .next (waits (.hostRead p addr len))) ∧
    (∀ n (c : Context) (v : Word), HostTurn s → n < 2 ^ 16 → s.ctx? n = some c →
      exec (.hostPostedWrite none (4096 * n) (leBytes 8 v.toNat)) s = exec (.start n v) s ∧
      exec (.hostPostedWrite none (4096 * n + 0x28) (leBytes 8 v.toNat)) s = .next (s.setCtx { c with logr := v }) ∧
      (∀ k data, k < 4096 → k ≠ 0 → k ≠ 0x28 → k + List.length data ≤ 4096 →
        exec (.hostPostedWrite none (4096 * n + k) data) s = .next s) ∧
      ∀ k, k < 512 →
        exec (.hostRead none (4096 * n + 8 * k) 8) s = .next (s.said (.hostData (leBytes 8 (pageWord s c k)) false)))

/-- R275, R295, R363, R436, R438 to R442: the fabric and the outbound side. A request whose token and grant entry admit it
acts once on the bytes it names, a duplicate gets its first answer again, and any other is refused; a fenced sequence
number is refused from then on. Keys rotate, unacknowledged requests are sent again, and an access ends with its
acknowledgement or as DEFER.
Where the spec leaves the manner open it follows log entries 4 and 26. -/
def Obligations.FabricRequestsAct : Prop :=
  ∀ (s : State),
    (∀ (r : FabricRequest),
      let answered (t : State) (a : FabricAnswer) : Prop := t.out = s.out ++ [.fabricAnswer r.source r.srcCtx r.sequence a]
      let kept (t : State) (a : FabricAnswer) : Prop := (r.source, r.srcCtx, r.sequence, a) ∈ t.fabric.answered
      let plain : Prop := r.op ≠ .fenceSequence ∧ r.op ≠ .invalidated
      let first : Prop := ∀ j ∈ s.jobs, j.act.isPeer r.source r.srcCtx r.sequence = false
      ∃ t, exec (.fabricIngress r) s = .next t ∧ t.groups = s.groups ∧
        (r.op = .fenceSequence → answered t .done ∧ t.mem = s.mem ∧ (r.source, r.srcCtx, r.sequence) ∈ t.fabric.fencedSeq) ∧
        (r.op = .invalidated → t.mem = s.mem ∧ t.fabric = { s.fabric with recalled := s.fabric.recalled.filter fun x =>
          !(x.1 == r.source && x.2.1 == r.target && x.2.2.1 == r.sequence) }) ∧
        (∀ a, plain → (r.source, r.srcCtx, r.sequence) ∉ s.fabric.fencedSeq →
          (s.fabric.answered.find? fun x => x.1 == r.source && x.2.1 == r.srcCtx && x.2.2.1 == r.sequence) =
            some (r.source, r.srcCtx, r.sequence, a) → answered t a ∧ t.mem = s.mem ∧ t.fabric = s.fabric) ∧
        (plain → first →
          ((r.source, r.srcCtx, r.sequence) ∈ s.fabric.fencedSeq ∨
            ((∀ x ∈ s.fabric.answered, ¬ (x.1 = r.source ∧ x.2.1 = r.srcCtx ∧ x.2.2.1 = r.sequence)) ∧
              (r.source ∈ s.fabric.fenced ∨ (r.compat = false ∧ ¬ TokenGood s r)))) →
          answered t .refused ∧ kept t .refused ∧ t.mem = s.mem) ∧
        (∀ (c : Context) pe, plain → first → Unanswered s r → (r.compat = true ∨ TokenGood s r) → s.ctx? r.target = some c →
          PageAt s 16 r.target c.spec.world .load (c.spec.gtBase + word (16 * r.region.toNat)) 16 pe → goodData s pe 16 →
          let e := s.physRead c.spec.world pe 16
          let n := requestBytes r.op
          let ctx := field e 0x0C 2
          let world := BitVec.ofNat 4 (field e 0x0F 1 / 16)
          let va := word (field e 0 8 + r.offset.toNat)
          let given : Prop := (r.source, ctx, va.toNat % 2 ^ 53 / 8192) ∈ s.fabric.given
          (¬ EntryAdmits r e → answered t .refused ∧ kept t .refused ∧ t.mem = s.mem) ∧
          (∀ l, EntryAdmits r e → r.op = .fetchTranslation → r.compat = true → s.tablesAsleep ctx va = false →
            s.walk ctx va = .leaf l → s.asleepAt (l.phys va) = false → l.phys va < 2 ^ 51 →
            answered t (.translation l.r l.w l.a l.world) ∧ t.mem = s.mem ∧
              (r.source, ctx, va.toNat % 2 ^ 53 / 8192) ∈ t.fabric.given) ∧
          (EntryAdmits r e → (r.op = .fetchTranslation ∧ r.compat = false) ∨
            (r.op ≠ .fetchTranslation ∧ r.compat = true ∧ ¬ given) → answered t .refused ∧ t.mem = s.mem) ∧
          (∀ pa, EntryAdmits r e → r.op ≠ .fetchTranslation → (r.compat = true → given) →
            PageAt s 16 ctx world (requestAcc r.op) va n pa → goodData s pa n → 0 < n →
            ((requestAcc r.op).isAtomic = true → va.toNat % n = 0) →
            (∀ k w x, (r.op = .atomic k w x ∨ r.op = .reduction k w x) → k.toNat ≤ 9 ∧ (k.toNat = 9 → w = false)) →
            let bs := (List.range n).map fun i => s.physByte world (pa + i)
            let new := requestStores r.op (leNat bs)
            answered t (requestAnswer r.op bs) ∧ kept t (requestAnswer r.op bs) ∧
              OnlyCells s t world (new.zipIdx.map fun b => (pa + b.2, b.1))))) ∧
    (s.fabric.rotated + 1125000 ≤ s.clk.tick → exec .linkKeyRotation s = .next { s with
      fabric := { s.fabric with keyGen := s.fabric.keyGen + 1, rotated := s.fabric.rotated + 1125000 } }) ∧
    (∀ k o w, s.outb[k]? = some o → o.who = some w → 2 ^ 51 ≤ o.pa → o.dead = false → o.gen + 3 ≤ s.fabric.keyGen →
      exec (.endToEndRetry k) s =
        .next (State.said ({ s with outb := s.outb.set k { o with gen := s.fabric.keyGen } }.emit 0x13 (homeSource o.pa)
          (o.pa / 2 ^ 42 % 2 ^ 9) (o.seqno % 2 ^ 32) w.ctx 16) (packetOf w.ctx o))) ∧
    (∀ peer,
      let hit (o : Outbound) : Bool := decide (2 ^ 51 ≤ o.pa ∧ o.pa / 2 ^ 42 % 2 ^ 9 = peer) && !o.dead
      let loads (o : Outbound) : Bool := match o.kind with
        | .load _ => true
        | _ => false
      let ctx (o : Outbound) : Nat := match o.who with
        | some w => w.ctx
        | none => noCtx
      exec (.linkDeath peer) s = .next { s with
        outb := s.outb.map fun o => if hit o && !loads o then { o with dead := true } else o
        out := s.out ++ (s.outb.filter hit).map fun o =>
          if loads o then packetOf (ctx o) o else .fabricFence peer (ctx o) o.seqno }) ∧
    (∀ k o w g, s.outb[k]? = some o → o.who = some w → s.group? w.g = some g → g.uid = w.g →
      (∀ e ∈ s.engs, o.id ∉ e.acks.getD e.sent) → (∀ r, o.req = some r → r.id = o.id ∧ r.who = w) →
      let i : Instr := .outboundAcknowledgement k
      let gone (n : Nat) : State := { s.counted n 0 with outb := s.outb.eraseIdx k }
      let report (n : Nat) (cause : BitVec 8) : State := { gone n with reports := s.reports ++ [⟨w, false, o.va, cause⟩] }
      let seen (t : State) : State :=
        match (o.req.map fun r => r.op : Option MemOp) with
        | some (.load _ true scope) => if 2 ≤ scope then t.setCore w.core { t.core w.core with near := [] } else t
        | _ => t
      (∀ d, o.kind = .store d → s.awaits g.uid o.id = false →
        (o.dead = true → exec i s = .next (seen (report 1 0x19))) ∧
        (o.dead = false → o.pa < 2 ^ 51 → exec i s = .next (seen (gone 1)) ∨ exec i s = .next (seen (report 1 0x19))) ∧
        (o.dead = false → 2 ^ 51 ≤ o.pa → exec i s = .next (seen (gone 1)) ∨ exec i s = .next (seen (report 1 0x11)))) ∧
      ((∀ d, o.kind ≠ .store d) → s.awaits g.uid o.id = true →
        (o.dead = false →
          (∃ x, exec i s = .next (seen ((gone 2).setGroup (g.returned o.id x)))) ∨
            (2 ^ 51 ≤ o.pa ∧ ∃ t, exec i s = .next t ∧ t.group? g.uid = none)) ∧
        (o.dead = true → ∃ x, exec i s = .next (seen ((report 2 0x19).setGroup (g.returned o.id x)))))) ∧
    (∀ k o, s.outb[k]? = some o → o.who = none →
      exec (.outboundAcknowledgement k) s = .next { s.counted 1 0 with outb := s.outb.eraseIdx k }) ∧
    (∀ k p, s.unfetched[k]? = some p →
      ∃ r w a world, exec (.translationFetch k) s = .next { s.counted 4 0 with
        fabric := { s.fabric with cached := s.fabric.cached ++ [⟨p.1, p.2, r, w, a, world⟩] } }) ∧
    (∀ ctx page,
      let f : Fabric := { s.fabric with
        cached := s.fabric.cached.filter fun p => !(p.ctx == ctx && p.page == page)
        draining := s.fabric.draining.filter fun p => p != (ctx, page) }
      let uses (o : Outbound) : Prop := 2 ^ 51 ≤ o.pa ∧ o.pa / 8192 = page ∧ ∃ w, o.who = some w ∧ w.ctx = ctx
      ((∀ o ∈ s.outb, ¬ uses o) →
        exec (.invalidation ctx page) s = .next (State.said { s with fabric := f } (.invalidationAck ctx page))) ∧
      ((∃ o ∈ s.outb, uses o) →
        exec (.invalidation ctx page) s = .next { s with fabric := { f with draining := f.draining ++ [(ctx, page)] } })) ∧
    (∀ source, source ∉ s.fabric.fenced →
      let late (x : Nat × Nat × Nat × Nat) : Prop := x.1 = source ∧ x.2.2.2 + 2 ^ 24 ≤ s.clk.tick
      ((∀ x ∈ s.fabric.recalled, ¬ late x) → exec (.invalidationTimeout source) s = .next s) ∧
      ((∃ x ∈ s.fabric.recalled, late x) →
        ∃ t l, exec (.invalidationTimeout source) s = .next t ∧
          t = { s with fabric := { s.fabric with fenced := s.fabric.fenced ++ [source] }, out := s.out ++ l } ∧
          ∀ ctx page, .controlInterrupt "page may be reused" ctx page 0 ∈ l ↔
            (∃ x ∈ s.fabric.recalled, x.1 = source ∧ x.2.1 = ctx ∧ x.2.2.1 = page) ∧
              ∀ x ∈ s.fabric.recalled, x.2.1 = ctx → x.2.2.1 = page → x.1 = source ∨ x.1 ∈ s.fabric.fenced))

-- Time, power and Tramir (spec/15, spec/20, spec/22).

/-- R374, R376, R377, R383, R404, R412, R413, R455 to R459: time and power. A tick advances every die's counter by one, or by
none or two where a correction is due; loss of the reference, its return and holdover; a fatal module error fences the
module, which then issues nothing; module reset, the phases and the change to full service; and a die's sleep and wake.
Where the spec leaves the manner open it follows log entries 28, 41, 42 and 43. -/
def Obligations.TimeAndPowerAct : Prop :=
  ∀ (s : State),
    let stops : Prop := s.clk.fenced = false ∧ s.stopDue = true
    (stops → s.clockTick = s) ∧
    (∀ d, (s.clk.half = true ∨ s.clk.phase = 2) → ¬ stops → s.slotDue = false → s.disciplineDue = false → s.stepDue = false →
      s.clockTick.clk = { s.clk with
          clock := s.clk.clock + 1, half := false, tick := s.clk.tick + 1, back := s.clockTick.clk.back } ∧
        (s.clk.back = none → s.clockTick.clk.back = none) ∧ s.clockTick.meridian d = s.meridian d +
          (if (s.die d).corr = 1 then 0 else if (s.die d).corr = 2 then 2 else 1)) ∧
    ((s.clk.half = true ∨ s.clk.phase = 2) → (s.slotDue = true ∨ s.disciplineDue = true ∨ s.stepDue = true) → s.clockTick = s) ∧
    (s.clk.half = false → s.clk.phase ≠ 2 → ¬ stops →
      s.clockTick.clk = { s.clk with clock := s.clk.clock + 1, half := true } ∧ s.clockTick.dies = s.dies) ∧
    (∀ die ahead, die < 16 →
      let d := s.die die
      let x := if ahead = true then d.offset - 1 else d.offset + 1
      let near (y : Word) : Prop := (x - y).toNat ≤ 2 ∨ (y - x).toNat ≤ 2
      let far (y : Word) : Nat := min y.toNat (-y).toNat
      let soon (e : Die) : Word := if e.corr = 1 then e.offset - 1 else if e.corr = 2 then e.offset + 1 else e.offset
      d.corr = 0 → (d.lastCorr = 0 ∨ d.lastCorr + 1024 ≤ s.clk.tick) →
      ((s.clk.lost ≠ none ∧ far x ≤ 1000) ∨
        (s.clk.lost = none ∧ ((near 0 ∧ ∀ e < 16, e ≠ die → near (soon (s.die e))) ∨ far x < far d.offset))) →
      exec (.counterCorrection die ahead) s = .next (s.setDie die { d with corr := if ahead then 1 else 2 })) ∧
    (s.clk.lost = none → exec .referenceLoss s =
      .next (State.said { s with clk := { s.clk with lost := some s.clk.tick, back := none } } (.controlInterrupt "reference lost" 0 0 0))) ∧
    (s.clk.lost = none → exec .referenceReturn s = .next s) ∧
    (∀ t, s.clk.lost = some t → s.clk.tick ≤ t + 112500000 →
      exec .referenceReturn s = .next { s with clk := { s.clk with lost := none, back := some s.clk.tick } } ∧
      exec .holdoverExpiry s = .next s) ∧
    (∀ cause, s.clk.fenced = false →
      let failed (cause : Nat) (o : Out) : Prop := ∃ d : Dump,
        o = .next { s.counted 1 0 with clk := { s.clk with fenced := true }, tramir := { s.tramir with dump := some d } } ∧
        d.cause = cause ∧ d.stamp = word s.clk.tick ∧ d.pools = s.cores.map (fun c => (c.1, c.2.scratch, c.2.acc)) ∧
        d.samples = s.units.map (fun u => (u.1, u.2.samples)) ∧ d.logs.map (fun l => l.1) = s.ctxs.map (fun c => c.spec.number) ∧
        ∀ g ∈ s.groups, g.isResident = true → (∀ c, s.ctx? g.place.ctx = some c → c.spec.prot = false) →
          ∃ bs, (g.place.core, g.place.slot, bs) ∈ d.records ∧ StopRecordOf s g 0x20 (.clock s.clk.clock) false bs
      failed cause (exec (.fatalModuleError cause) s) ∧
      ∀ t, s.clk.lost = some t → t + 112500000 < s.clk.tick →
        failed 1 (exec .holdoverExpiry s) ∧ failed 1 (exec .referenceReturn s)) ∧
    (s.clk.fenced = true → (∀ i, s.sched.turn = .event i → whileFenced i = false) → s.sched.turn ≠ .tick →
      (∀ core k, s.sched.turn ≠ .replace core k) → (∀ die big k, s.sched.turn ≠ .replaceDie die big k) →
      step s = .next s.advance) ∧
    (exec .moduleReset s = .next { State.reset with
      sched := { s.sched with cur := none }
      mem := ⟨s.mem.bytes, s.mem.keys, [], [], [], []⟩
      tramir := { State.reset.tramir with dump := s.tramir.dump, keys := s.tramir.keys }
      out := s.out }) ∧
    (s.clk.phase < 2 →
      exec .phaseChange s = .next { s with clk := { s.clk with phase := s.clk.phase + 1, half := false } }) ∧
    (s.clk.phase = 2 →
      ∃ t, exec .fullService s = .next t ∧ t.clk = { s.clk with phase := 3, half := false } ∧ SameMemory s t ∧
        ∀ u g, s.group? u = some g → ∃ h, t.group? u = some h ∧
          h = { g with sc := { g.sc with wait := h.sc.wait }, ln := { g.ln with wait := h.ln.wait } } ∧
          ((∀ w, g.sc.wait ≠ .walk w) → h.sc.wait = g.sc.wait) ∧ ((∀ w, g.ln.wait ≠ .walk w) → h.ln.wait = g.ln.wait) ∧
          ∀ w since last, w.stage = .held since last →
            (g.sc.wait = .walk w → h.sc.wait = .walk { w with stage := .held since 0 }) ∧
            (g.ln.wait = .walk w → h.ln.wait = .walk { w with stage := .held since 0 })) ∧
    (∀ die, die < 16 →
      let d := s.die die
      let k := die / 8
      let pages : Prop := ∃ e ∈ (s.stack k).pg, e.getLsbD 63 = true ∧ e.toNat / 2 ^ 48 % 2 ^ 4 = d.world.toNat
      let marks (t : State) (w : Nat) : Prop := look 0 (t.unit die).marks die = w ∧ look 0 (t.unit 16).marks die = w
      (d.awake = true → (∀ g ∈ s.groups, g.isResident = true → g.place.core / 128 ≠ die) →
        (pages → ∃ e, e ≠ die ∧ e / 8 = k ∧ (s.die e).awake = true ∧ (s.die e).world = d.world) →
        ∃ t, exec (.dieSleep die) s = .next t ∧ t.groups = s.groups ∧ SameMemory s t ∧ OnlyDie s t die ∧
          t.die die = { d with awake := false, resync := none, granted := [] } ∧ marks t (2 ^ 64)) ∧
      (d.awake = true → (∃ g ∈ s.groups, g.isResident = true ∧ g.place.core / 128 = die) → exec (.dieSleep die) s = .next s) ∧
      (d.awake = false →
        ∃ t, exec (.dieWake die) s = .next t ∧ t.groups = s.groups ∧ t.mem = s.mem ∧ OnlyDie s t die ∧
          (t.die die).awake = true ∧ marks t (s.meridian die).toNat ∧
          (pages → (t.die die).stale = true ∧ (t.die die).resync = some ⟨(s.stack k).slot, [], 0⟩) ∧
          (¬ pages → (t.die die).stale = false ∧ (t.die die).replica = [])))

/-- R376, R398, R399, R414, R448, R454, R460: what Tramir does. A world is latched on a die with no group, whose pools then
read zero; the management path answers its requests and arms and disarms automata; the dump is returned in signed pieces;
and a protected context leaves the module in two phases.
Where the spec leaves the manner open it follows log entries 20, 27 and 29. -/
def Obligations.TramirActs : Prop :=
  ∀ (s : State),
    (∀ (die : Nat) (w : BitVec 4), die < 16 →
      let free : Prop := (∀ g ∈ s.groups, g.isResident = true → g.place.core / 128 ≠ die) ∧
        (∀ t ∈ s.teams, t.core / 128 = die → t.saved ≠ none) ∧ (s.die die).port = [] ∧ (s.die die).portWait = []
      let latched (t : State) : Prop := (t.die die).world = w ∧ (t.die die).replica = [] ∧ OnlyDie s t die ∧ t.mem = s.mem ∧
        t.groups = s.groups ∧ ∀ n, t.core n = if n / 128 = die then
          { s.core n with scratch := [], acc := [], poisonS := [], poisonA := [], near := [] } else s.core n
      (free → (∃ t, exec (.worldAssignment die w) s = .next t ∧ latched t ∧ t.out = s.out) ∧
        ∃ t, exec (.spdmRequest (.assignWorld die w)) s = .next t ∧ latched t ∧ t.out = s.out) ∧
      (¬ free → exec (.worldAssignment die w) s = .next s ∧
        exec (.spdmRequest (.assignWorld die w)) s = .next (s.said .managementError))) ∧
    (∀ n, (∀ c, s.ctx? n = some c →
        exec (.spdmRequest (.measurements n)) s =
          .next (s.said (.signedBytes c.spec.measure (Config.signature 0 256 c.spec.measure)))) ∧
      (s.ctx? n = none → exec (.spdmRequest (.measurements n)) s = .next (s.said .managementError))) ∧
    (exec (.spdmRequest .unauthenticated) s = .next (s.said .managementError)) ∧
    (exec (.spdmRequest .readStatus) s = .next (s.said (.managementWord (word s.clk.phase)))) ∧
    (∀ core, exec (.spdmRequest (.readBudget core)) s = .next (s.said (.managementWord (wordOf
      (2 ^ 16 * min 255 (s.coreWeight core) + (s.core core).budget))))) ∧
    (∀ die (v : Word) t, s.clk.fenced = false → die < 16 →
      let op := v.toNat / 2 ^ 28 % 2 ^ 4
      ((op = 1 ∧ exec (.resume die v) s = .next t) ∨ (op = 2 ∧ exec (.discard die v) s = .next t) ∨
        (op = 3 ∧ exec (.fatal die v) s = .next t) ∨ (op = 4 ∧ exec (.stop die v) s = .next t) ∨
        (op = 5 ∧ exec (.evict die v) s = .next t)) →
      exec (.spdmRequest (.gctl die v)) s = .next (t.said (.managementWord (t.die die).gctl))) ∧
    (∀ unit a tab owner, s.clk.fenced = false → unit ≤ 16 → a < 4 →
      let u := s.unit unit
      let i : Instr := .spdmRequest (.arm unit a tab owner)
      (u.autos.getD a none ≠ none → exec i s = .next (s.said (.managementWord 1))) ∧
      (u.autos.getD a none = none →
        (∀ r, tableReason tab = some r → exec i s = .next (s.said (.managementWord (wordOf (2 + 256 * r))))) ∧
        (tableReason tab = none → s.compsTaken unit tab = true → exec i s = .next (s.said (.managementWord 3))) ∧
        (tableReason tab = none → s.compsTaken unit tab = false →
          let now := s.armStamp unit
          ∃ t, exec i s = .next t ∧ t.groups = s.groups ∧ SameMemory s t ∧
            t.out = s.out ++ [.managementWord (wordOf (2 ^ 32 * (now % 2 ^ 32)))] ∧
            t.unit unit = { u with autos := u.autos.set a (some ⟨tab, owner, now, tabStart tab, List.replicate 4 0,
              List.replicate 4 0, [none, none], 0, false, none⟩) }))) ∧
    (∀ unit a owner,
      let u := s.unit unit
      let i : Instr := .spdmRequest (.disarm unit a owner)
      let now := (s.meridian unit).toNat
      let idle : Prop := (∀ y, s.firstEvent unit = some y → now < y.2.1) ∧ s.markedPast unit now = true ∧
        ∀ x, u.autos.getD a none = some x → ∀ y ∈ x.tm, ∀ n, y = some n → now < n
      ((∀ x, u.autos.getD a none = some x → x.owner ≠ owner ∨ x.ending ≠ none) →
        exec i s = .next (s.said (.managementWord 1))) ∧
      (∀ x, UnitCalm u → u.autos.getD a none = some x → x.owner = owner → idle →
        ∃ t, exec i s = .next t ∧ t.groups = s.groups ∧ SameMemory s t ∧
          t.out = s.out ++ [.managementWord (wordOf (2 ^ 32 * x.nacc.toNat))] ∧
          t.unit unit = { u with autos := u.autos.set a none } ∧
          ∀ n, (t.core n).watches = (s.core n).watches.filter fun w => !(w.unit == unit && w.auto == a)) ∧
      (∀ x, UnitCalm u → u.autos.getD a none = some x → x.owner = owner → ¬ idle →
        exec i s = .next (s.setUnit unit { u with autos := u.autos.set a (some { x with ending := some ⟨now, none⟩ }) }))) ∧
    (∀ piece, ((s.tramir.dump = none ∨ 2 ^ 17 ≤ piece) → exec (.dumpRead piece) s = .next (s.said .managementError)) ∧
      (∀ d, s.tramir.dump = some d → piece < 2 ^ 17 →
        ∃ bs, bs.length = 65536 ∧
          (∀ i < 65536, ∀ w, bs.getD i 0 = s.physByte w (0x3FE00000000 + 65536 * piece + i)) ∧
          exec (.dumpRead piece) s = .next (s.said (.signedBytes bs
            (Config.signature 0 256 (bs ++ leBytes 8 piece ++ leBytes 8 d.stamp.toNat)))))) ∧
    (∀ n dest (c : Context), s.ctx? n = some c → c.spec.prot = true → c.ending = false →
      ((∀ m ∈ s.tramir.moving, m.ctx ≠ n) →
        ∃ t, exec (.migration n dest) s = .next t ∧ t.mem = s.mem ∧
          t.tramir.moving = s.tramir.moving ++ [MigrationState.mk n dest false] ∧
          ((∀ g ∈ s.groups, s.group? g.uid = some g) → ∀ u g, s.group? u = some g →
            t.group? u = some (if g.place.ctx = n ∧ g.isResident = true then g.evictionReaches s.clk.clock else g))) ∧
      (s.tramir.moving.find? (fun m => m.ctx == n) = some ⟨n, dest, false⟩ →
        (∀ g ∈ s.groups, g.place.ctx = n → g.isResident = false) → (∀ o ∈ s.engs, o.who.ctx = n → o.started = none) →
        (∀ o ∈ s.mats, o.who.ctx ≠ n) → (∀ r ∈ s.allReqs, r.who.ctx ≠ n) → (∀ o ∈ s.outb, ∀ w, o.who = some w → w.ctx ≠ n) →
        exec (.migration n dest) s = .next (State.said { s with tramir := { s.tramir with
          moving := s.tramir.moving.map fun (m : MigrationState) => if m.ctx = n then { m with sent := true } else m } }
            (.migrationSent n dest)))) ∧
    (∀ n (c : Context) m, s.ctx? n = some c → s.tramir.moving.find? (fun m => m.ctx == n) = some m → m.sent = true →
      ∃ t, exec (.migrationConfirmation n) s = .next t ∧ t.ctx? n = none ∧ (∀ g ∈ t.groups, g.place.ctx ≠ n) ∧
        (∀ y ∈ t.grids, y.ctx ≠ n) ∧ t.tramir.moving = s.tramir.moving.filter (fun m => m.ctx != n) ∧
        (c.spec.world ≠ 0 → (∀ x ∈ s.ctxs, x.spec.number ≠ n → x.spec.world ≠ c.spec.world) →
          (∀ k ∈ t.mem.keys, k.2.world ≠ c.spec.world) ∧
          ((∀ d ∈ s.dies, d.2.world ≠ c.spec.world) → ∀ k ∈ t.tramir.keys, k.1 ≠ .world c.spec.world) ∧
          ∀ a, (s.keyOf (a / 128)).world = c.spec.world → cellGet t.mem.bytes a = 0))
end

