-- ==== Sys2Proof/Laws/Memory.lean ====
section
/-! SUPPORT. The sparse stores: a write reads back and leaves every other address alone, every operation keeps the canonical
form, and two canonical stores with the same contents are equal. -/

namespace Sys2Proof.Machine

open Sys2Proof

variable {w : Nat}

/-- An address is above an optional bound. -/
def above (lo : Option Nat) (a : Nat) : Prop := ∀ l, lo = some l → l < a

theorem cellsAbove_cons {lo : Option Nat} {x : Nat} {v : BitVec w} {t : List (Nat × BitVec w)} :
    cellsAbove lo ((x, v) :: t) = true ↔ above lo x ∧ v ≠ 0 ∧ cellsAbove (some x) t = true := by
  cases lo <;> simp [cellsAbove, above, and_assoc]

/-- A bound may be lowered. -/
theorem cellsAbove_of_lower {lo lo' : Option Nat} {m : List (Nat × BitVec w)} (h : cellsAbove lo m = true)
    (hl : ∀ a, above lo a → above lo' a) : cellsAbove lo' m = true := by
  cases m with
  | nil => rfl
  | cons p t =>
    obtain ⟨x, v⟩ := p
    rw [cellsAbove_cons] at h ⊢
    exact ⟨hl _ h.1, h.2⟩

/-- Nothing is listed at or below the bound. -/
theorem cellGet_of_above {x b : Nat} {m : List (Nat × BitVec w)} (h : cellsAbove (some x) m = true) (hb : b ≤ x) :
    cellGet m b = 0 := by
  induction m generalizing x with
  | nil => rfl
  | cons p t ih =>
    obtain ⟨y, v⟩ := p
    rw [cellsAbove_cons] at h
    have hy := h.1 x rfl
    simp only [cellGet]
    rw [if_neg (by omega), ih h.2.2 (by omega)]

theorem cellGet_cellSet_above {lo : Option Nat} {m : List (Nat × BitVec w)} (h : cellsAbove lo m = true) (a b : Nat)
    (v : BitVec w) : cellGet (cellSet m a v) b = if b = a then v else cellGet m b := by
  induction m generalizing lo with
  | nil =>
    simp only [cellSet]
    by_cases hv : v = 0
    · rw [if_pos hv, hv]
      simp only [cellGet, ite_self]
    · rw [if_neg hv]
      by_cases hb : b = a
      · rw [if_pos hb, hb]
        simp only [cellGet, if_pos]
      · rw [if_neg hb]
        simp only [cellGet]
        rw [if_neg (Ne.symm hb)]
  | cons p t ih =>
    obtain ⟨x, u⟩ := p
    rw [cellsAbove_cons] at h
    simp only [cellSet]
    split
    · rename_i hax
      split
      · rename_i hv
        split
        · rename_i hb
          subst hb hv
          have := cellGet_of_above h.2.2 (Nat.le_of_lt hax)
          simp only [cellGet]
          rw [if_neg (by omega), this]
        · rfl
      · by_cases hb : b = a
        · simp [cellGet, hb]
        · simp [cellGet, hb, Ne.symm hb]
    · split
      · rename_i hax
        subst hax
        split
        · rename_i hv
          split
          · rename_i hb
            rw [hb, cellGet_of_above h.2.2 (Nat.le_refl _), hv]
          · rename_i hb
            simp [cellGet, Ne.symm hb]
        · by_cases hb : b = a
          · simp [cellGet, hb]
          · simp [cellGet, hb, Ne.symm hb]
      · rename_i hax
        simp only [cellGet]
        split
        · rename_i hxb
          rw [if_neg (by omega)]
        · exact ih h.2.2

/-- A write reads back, and every other address reads as before. -/
theorem cellGet_cellSet {m : List (Nat × BitVec w)} (h : cellsWf m = true) (a b : Nat) (v : BitVec w) :
    cellGet (cellSet m a v) b = if b = a then v else cellGet m b :=
  cellGet_cellSet_above h a b v

theorem cellsAbove_cellSet {lo : Option Nat} {m : List (Nat × BitVec w)} (h : cellsAbove lo m = true) {a : Nat}
    (ha : above lo a) (v : BitVec w) : cellsAbove lo (cellSet m a v) = true := by
  induction m generalizing lo with
  | nil =>
    simp only [cellSet]
    split
    · rfl
    · rename_i hv
      exact cellsAbove_cons.2 ⟨ha, hv, rfl⟩
  | cons p t ih =>
    obtain ⟨x, u⟩ := p
    have h' := cellsAbove_cons.1 h
    simp only [cellSet]
    split
    · rename_i hax
      split
      · exact h
      · rename_i hv
        exact cellsAbove_cons.2 ⟨ha, hv, cellsAbove_cons.2 ⟨fun l hl => by cases hl; exact hax, h'.2⟩⟩
    · split
      · rename_i hax
        subst hax
        split
        · exact cellsAbove_of_lower h'.2.2 fun b hb l hl => Nat.lt_trans (ha l hl) (hb _ rfl)
        · rename_i hv
          exact cellsAbove_cons.2 ⟨ha, hv, h'.2.2⟩
      · rename_i h1 h2
        exact cellsAbove_cons.2 ⟨h'.1, h'.2.1, ih h'.2.2 (fun l hl => by cases hl; omega)⟩

/-- A write keeps the canonical form. -/
theorem cellsWf_cellSet {m : List (Nat × BitVec w)} (h : cellsWf m = true) (a : Nat) (v : BitVec w) :
    cellsWf (cellSet m a v) = true :=
  cellsAbove_cellSet h (fun _ hl => by cases hl) v

/-- Removing entries keeps the canonical form. -/
theorem cellsWf_filter {m : List (Nat × BitVec w)} (h : cellsWf m = true) (p : Nat × BitVec w → Bool) :
    cellsWf (m.filter p) = true := by
  suffices ∀ lo, cellsAbove lo m = true → cellsAbove lo (m.filter p) = true from this none h
  clear h
  intro lo h
  induction m generalizing lo with
  | nil => rfl
  | cons q t ih =>
    obtain ⟨x, v⟩ := q
    have h' := cellsAbove_cons.1 h
    rw [List.filter_cons]
    split
    · exact cellsAbove_cons.2 ⟨h'.1, h'.2.1, ih _ h'.2.2⟩
    · exact cellsAbove_of_lower (ih _ h'.2.2) fun b hb l hl => Nat.lt_trans (h'.1 l hl) (hb _ rfl)

/-- Two canonical stores with the same contents are the same data. -/
theorem cells_ext {m n : List (Nat × BitVec w)} (hm : cellsWf m = true) (hn : cellsWf n = true)
    (h : ∀ a, cellGet m a = cellGet n a) : m = n := by
  suffices ∀ lo, cellsAbove lo m = true → cellsAbove lo n = true → m = n from this none hm hn
  clear hm hn
  induction m generalizing n with
  | nil =>
    intro lo _ hn
    cases n with
    | nil => rfl
    | cons q t =>
      obtain ⟨x, v⟩ := q
      have h' := cellsAbove_cons.1 hn
      exact absurd (by simpa [cellGet] using (h x).symm) h'.2.1
  | cons p t ih =>
    intro lo hm hn
    obtain ⟨x, u⟩ := p
    have hm' := cellsAbove_cons.1 hm
    cases n with
    | nil => exact absurd (by simpa [cellGet] using h x) hm'.2.1
    | cons q r =>
      obtain ⟨y, v⟩ := q
      have hn' := cellsAbove_cons.1 hn
      have hxy : x = y := by
        rcases Nat.lt_trichotomy x y with hlt | heq | hgt
        · have := h x
          simp only [cellGet, if_pos] at this
          rw [if_neg (by omega), cellGet_of_above hn'.2.2 (Nat.le_of_lt hlt)] at this
          exact absurd this hm'.2.1
        · exact heq
        · have := h y
          simp only [cellGet, if_pos] at this
          rw [if_neg (by omega), cellGet_of_above hm'.2.2 (Nat.le_of_lt hgt)] at this
          exact absurd this.symm hn'.2.1
      subst hxy
      have huv : u = v := by simpa [cellGet] using h x
      subst huv
      have := ih (n := r) (fun a => by
        have ha := h a
        simp only [cellGet] at ha
        split at ha
        · rename_i hxa
          rw [← hxa, cellGet_of_above hm'.2.2 (Nat.le_refl _), cellGet_of_above hn'.2.2 (Nat.le_refl _)]
        · exact ha) (some x) hm'.2.2 hn'.2.2
      rw [this]

-- Bytes.

/-- A memory write keeps the canonical form. -/
theorem memWf_memWrite {m : Mem} (h : memWf m = true) (a : Nat) (bs : List Byte) : memWf (memWrite m a bs) = true := by
  induction bs generalizing m a with
  | nil => exact h
  | cons b t ih => exact ih (cellsWf_cellSet h a b) (a + 1)

/-- The bytes of a memory after a write. -/
theorem cellGet_memWrite {m : Mem} (h : memWf m = true) (a b : Nat) (bs : List Byte) :
    cellGet (memWrite m a bs) b = if a ≤ b ∧ b < a + bs.length then bs.getD (b - a) 0 else cellGet m b := by
  induction bs generalizing m a with
  | nil => simp only [memWrite]; rw [if_neg (by simp)]
  | cons x t ih =>
    simp only [memWrite]
    rw [ih (cellsWf_cellSet h a x), cellGet_cellSet h]
    by_cases hb : b = a
    · subst hb
      rw [if_neg (by omega), if_pos rfl, if_pos ⟨Nat.le_refl _, by simp only [List.length_cons]; omega⟩, Nat.sub_self]
      rfl
    · rw [if_neg hb]
      by_cases hin : a + 1 ≤ b ∧ b < a + 1 + t.length
      · rw [if_pos hin, if_pos (by simp only [List.length_cons]; omega)]
        obtain ⟨k, hk⟩ : ∃ k, b - a = k + 1 := ⟨b - a - 1, by omega⟩
        rw [hk, show b - (a + 1) = k by omega]
        rfl
      · rw [if_neg hin, if_neg (by simp only [List.length_cons]; omega)]

theorem memRead_length (m : Mem) (a n : Nat) : (memRead m a n).length = n := by
  induction n generalizing a with
  | zero => rfl
  | succ k ih => simp [memRead, ih]

/-- A byte of what is read. -/
theorem memRead_getD (m : Mem) (a n k : Nat) (h : k < n) : (memRead m a n).getD k 0 = cellGet m (a + k) := by
  induction n generalizing a k with
  | zero => omega
  | succ j ih =>
    cases k with
    | zero => rfl
    | succ i =>
      have := ih (a + 1) i (by omega)
      rw [show a + (i + 1) = a + 1 + i by omega, ← this]
      rfl

/-- What was written reads back. -/
theorem memRead_memWrite {m : Mem} (h : memWf m = true) (a : Nat) (bs : List Byte) :
    memRead (memWrite m a bs) a bs.length = bs := by
  apply List.ext_getElem (memRead_length ..)
  intro i h1 h2
  have := memRead_getD (memWrite m a bs) a bs.length i h2
  rw [cellGet_memWrite h, if_pos (by omega), show a + i - a = i by omega] at this
  simpa [List.getD_eq_getElem?_getD, h1, h2] using this

/-- A read outside the bytes written is as before. -/
theorem memRead_memWrite_apart {m : Mem} (h : memWf m = true) (a b n : Nat) (bs : List Byte)
    (hd : b + n ≤ a ∨ a + bs.length ≤ b) : memRead (memWrite m a bs) b n = memRead m b n := by
  induction n generalizing b with
  | zero => rfl
  | succ k ih =>
    simp only [memRead]
    rw [cellGet_memWrite h, if_neg (by omega), ih (b + 1) (by omega)]

theorem leBytes_length (n x : Nat) : (leBytes n x).length = n := by
  induction n generalizing x with
  | zero => rfl
  | succ k ih => simp [leBytes, ih]

/-- The bytes of a number give it back, modulo its width. -/
theorem leNat_leBytes (n x : Nat) : leNat (leBytes n x) = x % 256 ^ n := by
  induction n generalizing x with
  | zero => simp [leBytes, leNat, Nat.mod_one]
  | succ k ih =>
    simp only [leBytes, leNat, ih, BitVec.toNat_ofNat]
    show x % 256 + 256 * (x / 256 % 256 ^ k) = _
    rw [Nat.pow_succ, Nat.mul_comm (256 ^ k) 256, Nat.mod_mul]

-- Objects by number.

/-- An object that was set reads back, and every other one is as before. -/
theorem look_put {α : Type} (d : α) (l : List (Nat × α)) (k n : Nat) (v : α) :
    look d (put l k v) n = if n = k then v else look d l n := by
  induction l with
  | nil => simp only [put, look, eq_comm]
  | cons p t ih =>
    obtain ⟨x, u⟩ := p
    simp only [put]
    split
    · simp only [look, eq_comm]
    · split
      · rename_i hk
        subst hk
        by_cases h : n = k
        · simp [look, h]
        · have h' : ¬ k = n := fun e => h e.symm
          simp [look, h, h']
      · rename_i hk
        simp only [look, ih]
        by_cases h : x = n
        · subst h; simp [Ne.symm hk]
        · simp [h]

@[simp] theorem look_put_same {α : Type} (d : α) (l : List (Nat × α)) (k : Nat) (v : α) : look d (put l k v) k = v := by
  rw [look_put, if_pos rfl]

end Sys2Proof.Machine
end

