-- ==== Sys2Proof/Laws/State.lean ====
section
/-! SUPPORT. Every update of the state, field by field: what it leaves alone, and the objects that stay the same. Each is true
by unfolding, so that no proof unfolds a record update. -/

namespace Sys2Proof.Machine

open Sys2Proof

-- setGroup.

@[simp] theorem State.setGroup_clk (s : State) (g : Group) : (s.setGroup g).clk = s.clk := rfl
@[simp] theorem State.setGroup_sched (s : State) (g : Group) : (s.setGroup g).sched = s.sched := rfl
@[simp] theorem State.setGroup_mem (s : State) (g : Group) : (s.setGroup g).mem = s.mem := rfl
@[simp] theorem State.setGroup_order (s : State) (g : Group) : (s.setGroup g).order = s.order := rfl
@[simp] theorem State.setGroup_teams (s : State) (g : Group) : (s.setGroup g).teams = s.teams := rfl
@[simp] theorem State.setGroup_cores (s : State) (g : Group) : (s.setGroup g).cores = s.cores := rfl
@[simp] theorem State.setGroup_latches (s : State) (g : Group) : (s.setGroup g).latches = s.latches := rfl
@[simp] theorem State.setGroup_mats (s : State) (g : Group) : (s.setGroup g).mats = s.mats := rfl
@[simp] theorem State.setGroup_engs (s : State) (g : Group) : (s.setGroup g).engs = s.engs := rfl
@[simp] theorem State.setGroup_dies (s : State) (g : Group) : (s.setGroup g).dies = s.dies := rfl
@[simp] theorem State.setGroup_stks (s : State) (g : Group) : (s.setGroup g).stks = s.stks := rfl
@[simp] theorem State.setGroup_units (s : State) (g : Group) : (s.setGroup g).units = s.units := rfl
@[simp] theorem State.setGroup_ctxs (s : State) (g : Group) : (s.setGroup g).ctxs = s.ctxs := rfl
@[simp] theorem State.setGroup_grids (s : State) (g : Group) : (s.setGroup g).grids = s.grids := rfl
@[simp] theorem State.setGroup_returns (s : State) (g : Group) : (s.setGroup g).returns = s.returns := rfl
@[simp] theorem State.setGroup_arrivals (s : State) (g : Group) : (s.setGroup g).arrivals = s.arrivals := rfl
@[simp] theorem State.setGroup_outb (s : State) (g : Group) : (s.setGroup g).outb = s.outb := rfl
@[simp] theorem State.setGroup_reports (s : State) (g : Group) : (s.setGroup g).reports = s.reports := rfl
@[simp] theorem State.setGroup_jobs (s : State) (g : Group) : (s.setGroup g).jobs = s.jobs := rfl
@[simp] theorem State.setGroup_fabric (s : State) (g : Group) : (s.setGroup g).fabric = s.fabric := rfl
@[simp] theorem State.setGroup_tramir (s : State) (g : Group) : (s.setGroup g).tramir = s.tramir := rfl
@[simp] theorem State.setGroup_hart (s : State) (g : Group) : (s.setGroup g).hart = s.hart := rfl
@[simp] theorem State.setGroup_out (s : State) (g : Group) : (s.setGroup g).out = s.out := rfl
@[simp] theorem State.setGroup_core (s : State) (g : Group) (k : Nat) : (s.setGroup g).core k = s.core k := rfl
@[simp] theorem State.setGroup_die (s : State) (g : Group) (k : Nat) : (s.setGroup g).die k = s.die k := rfl
@[simp] theorem State.setGroup_stack (s : State) (g : Group) (k : Nat) : (s.setGroup g).stack k = s.stack k := rfl
@[simp] theorem State.setGroup_unit (s : State) (g : Group) (k : Nat) : (s.setGroup g).unit k = s.unit k := rfl
@[simp] theorem State.setGroup_team (s : State) (g : Group) (u : Nat) : (s.setGroup g).team? u = s.team? u := rfl
@[simp] theorem State.setGroup_grid (s : State) (g : Group) (u : Nat) : (s.setGroup g).grid? u = s.grid? u := rfl
@[simp] theorem State.setGroup_ctx (s : State) (g : Group) (k : Nat) : (s.setGroup g).ctx? k = s.ctx? k := rfl

-- setCore.

@[simp] theorem State.setCore_clk (s : State) (n : Nat) (c : Core) : (s.setCore n c).clk = s.clk := rfl
@[simp] theorem State.setCore_sched (s : State) (n : Nat) (c : Core) : (s.setCore n c).sched = s.sched := rfl
@[simp] theorem State.setCore_mem (s : State) (n : Nat) (c : Core) : (s.setCore n c).mem = s.mem := rfl
@[simp] theorem State.setCore_order (s : State) (n : Nat) (c : Core) : (s.setCore n c).order = s.order := rfl
@[simp] theorem State.setCore_groups (s : State) (n : Nat) (c : Core) : (s.setCore n c).groups = s.groups := rfl
@[simp] theorem State.setCore_teams (s : State) (n : Nat) (c : Core) : (s.setCore n c).teams = s.teams := rfl
@[simp] theorem State.setCore_latches (s : State) (n : Nat) (c : Core) : (s.setCore n c).latches = s.latches := rfl
@[simp] theorem State.setCore_mats (s : State) (n : Nat) (c : Core) : (s.setCore n c).mats = s.mats := rfl
@[simp] theorem State.setCore_engs (s : State) (n : Nat) (c : Core) : (s.setCore n c).engs = s.engs := rfl
@[simp] theorem State.setCore_dies (s : State) (n : Nat) (c : Core) : (s.setCore n c).dies = s.dies := rfl
@[simp] theorem State.setCore_stks (s : State) (n : Nat) (c : Core) : (s.setCore n c).stks = s.stks := rfl
@[simp] theorem State.setCore_units (s : State) (n : Nat) (c : Core) : (s.setCore n c).units = s.units := rfl
@[simp] theorem State.setCore_ctxs (s : State) (n : Nat) (c : Core) : (s.setCore n c).ctxs = s.ctxs := rfl
@[simp] theorem State.setCore_grids (s : State) (n : Nat) (c : Core) : (s.setCore n c).grids = s.grids := rfl
@[simp] theorem State.setCore_returns (s : State) (n : Nat) (c : Core) : (s.setCore n c).returns = s.returns := rfl
@[simp] theorem State.setCore_arrivals (s : State) (n : Nat) (c : Core) : (s.setCore n c).arrivals = s.arrivals := rfl
@[simp] theorem State.setCore_outb (s : State) (n : Nat) (c : Core) : (s.setCore n c).outb = s.outb := rfl
@[simp] theorem State.setCore_reports (s : State) (n : Nat) (c : Core) : (s.setCore n c).reports = s.reports := rfl
@[simp] theorem State.setCore_jobs (s : State) (n : Nat) (c : Core) : (s.setCore n c).jobs = s.jobs := rfl
@[simp] theorem State.setCore_fabric (s : State) (n : Nat) (c : Core) : (s.setCore n c).fabric = s.fabric := rfl
@[simp] theorem State.setCore_tramir (s : State) (n : Nat) (c : Core) : (s.setCore n c).tramir = s.tramir := rfl
@[simp] theorem State.setCore_hart (s : State) (n : Nat) (c : Core) : (s.setCore n c).hart = s.hart := rfl
@[simp] theorem State.setCore_out (s : State) (n : Nat) (c : Core) : (s.setCore n c).out = s.out := rfl
@[simp] theorem State.setCore_group (s : State) (n : Nat) (c : Core) (u : Nat) : (s.setCore n c).group? u = s.group? u := rfl
@[simp] theorem State.setCore_die (s : State) (n : Nat) (c : Core) (k : Nat) : (s.setCore n c).die k = s.die k := rfl
@[simp] theorem State.setCore_stack (s : State) (n : Nat) (c : Core) (k : Nat) : (s.setCore n c).stack k = s.stack k := rfl
@[simp] theorem State.setCore_unit (s : State) (n : Nat) (c : Core) (k : Nat) : (s.setCore n c).unit k = s.unit k := rfl
@[simp] theorem State.setCore_team (s : State) (n : Nat) (c : Core) (u : Nat) : (s.setCore n c).team? u = s.team? u := rfl
@[simp] theorem State.setCore_grid (s : State) (n : Nat) (c : Core) (u : Nat) : (s.setCore n c).grid? u = s.grid? u := rfl
@[simp] theorem State.setCore_ctx (s : State) (n : Nat) (c : Core) (k : Nat) : (s.setCore n c).ctx? k = s.ctx? k := rfl

-- setDie.

@[simp] theorem State.setDie_clk (s : State) (n : Nat) (d : Die) : (s.setDie n d).clk = s.clk := rfl
@[simp] theorem State.setDie_sched (s : State) (n : Nat) (d : Die) : (s.setDie n d).sched = s.sched := rfl
@[simp] theorem State.setDie_mem (s : State) (n : Nat) (d : Die) : (s.setDie n d).mem = s.mem := rfl
@[simp] theorem State.setDie_order (s : State) (n : Nat) (d : Die) : (s.setDie n d).order = s.order := rfl
@[simp] theorem State.setDie_groups (s : State) (n : Nat) (d : Die) : (s.setDie n d).groups = s.groups := rfl
@[simp] theorem State.setDie_teams (s : State) (n : Nat) (d : Die) : (s.setDie n d).teams = s.teams := rfl
@[simp] theorem State.setDie_cores (s : State) (n : Nat) (d : Die) : (s.setDie n d).cores = s.cores := rfl
@[simp] theorem State.setDie_latches (s : State) (n : Nat) (d : Die) : (s.setDie n d).latches = s.latches := rfl
@[simp] theorem State.setDie_mats (s : State) (n : Nat) (d : Die) : (s.setDie n d).mats = s.mats := rfl
@[simp] theorem State.setDie_engs (s : State) (n : Nat) (d : Die) : (s.setDie n d).engs = s.engs := rfl
@[simp] theorem State.setDie_stks (s : State) (n : Nat) (d : Die) : (s.setDie n d).stks = s.stks := rfl
@[simp] theorem State.setDie_units (s : State) (n : Nat) (d : Die) : (s.setDie n d).units = s.units := rfl
@[simp] theorem State.setDie_ctxs (s : State) (n : Nat) (d : Die) : (s.setDie n d).ctxs = s.ctxs := rfl
@[simp] theorem State.setDie_grids (s : State) (n : Nat) (d : Die) : (s.setDie n d).grids = s.grids := rfl
@[simp] theorem State.setDie_returns (s : State) (n : Nat) (d : Die) : (s.setDie n d).returns = s.returns := rfl
@[simp] theorem State.setDie_arrivals (s : State) (n : Nat) (d : Die) : (s.setDie n d).arrivals = s.arrivals := rfl
@[simp] theorem State.setDie_outb (s : State) (n : Nat) (d : Die) : (s.setDie n d).outb = s.outb := rfl
@[simp] theorem State.setDie_reports (s : State) (n : Nat) (d : Die) : (s.setDie n d).reports = s.reports := rfl
@[simp] theorem State.setDie_jobs (s : State) (n : Nat) (d : Die) : (s.setDie n d).jobs = s.jobs := rfl
@[simp] theorem State.setDie_fabric (s : State) (n : Nat) (d : Die) : (s.setDie n d).fabric = s.fabric := rfl
@[simp] theorem State.setDie_tramir (s : State) (n : Nat) (d : Die) : (s.setDie n d).tramir = s.tramir := rfl
@[simp] theorem State.setDie_hart (s : State) (n : Nat) (d : Die) : (s.setDie n d).hart = s.hart := rfl
@[simp] theorem State.setDie_out (s : State) (n : Nat) (d : Die) : (s.setDie n d).out = s.out := rfl
@[simp] theorem State.setDie_group (s : State) (n : Nat) (d : Die) (u : Nat) : (s.setDie n d).group? u = s.group? u := rfl
@[simp] theorem State.setDie_core (s : State) (n : Nat) (d : Die) (k : Nat) : (s.setDie n d).core k = s.core k := rfl
@[simp] theorem State.setDie_stack (s : State) (n : Nat) (d : Die) (k : Nat) : (s.setDie n d).stack k = s.stack k := rfl
@[simp] theorem State.setDie_unit (s : State) (n : Nat) (d : Die) (k : Nat) : (s.setDie n d).unit k = s.unit k := rfl
@[simp] theorem State.setDie_team (s : State) (n : Nat) (d : Die) (u : Nat) : (s.setDie n d).team? u = s.team? u := rfl
@[simp] theorem State.setDie_grid (s : State) (n : Nat) (d : Die) (u : Nat) : (s.setDie n d).grid? u = s.grid? u := rfl
@[simp] theorem State.setDie_ctx (s : State) (n : Nat) (d : Die) (k : Nat) : (s.setDie n d).ctx? k = s.ctx? k := rfl

-- setStack.

@[simp] theorem State.setStack_clk (s : State) (n : Nat) (x : Stack) : (s.setStack n x).clk = s.clk := rfl
@[simp] theorem State.setStack_sched (s : State) (n : Nat) (x : Stack) : (s.setStack n x).sched = s.sched := rfl
@[simp] theorem State.setStack_mem (s : State) (n : Nat) (x : Stack) : (s.setStack n x).mem = s.mem := rfl
@[simp] theorem State.setStack_order (s : State) (n : Nat) (x : Stack) : (s.setStack n x).order = s.order := rfl
@[simp] theorem State.setStack_groups (s : State) (n : Nat) (x : Stack) : (s.setStack n x).groups = s.groups := rfl
@[simp] theorem State.setStack_teams (s : State) (n : Nat) (x : Stack) : (s.setStack n x).teams = s.teams := rfl
@[simp] theorem State.setStack_cores (s : State) (n : Nat) (x : Stack) : (s.setStack n x).cores = s.cores := rfl
@[simp] theorem State.setStack_latches (s : State) (n : Nat) (x : Stack) : (s.setStack n x).latches = s.latches := rfl
@[simp] theorem State.setStack_mats (s : State) (n : Nat) (x : Stack) : (s.setStack n x).mats = s.mats := rfl
@[simp] theorem State.setStack_engs (s : State) (n : Nat) (x : Stack) : (s.setStack n x).engs = s.engs := rfl
@[simp] theorem State.setStack_dies (s : State) (n : Nat) (x : Stack) : (s.setStack n x).dies = s.dies := rfl
@[simp] theorem State.setStack_units (s : State) (n : Nat) (x : Stack) : (s.setStack n x).units = s.units := rfl
@[simp] theorem State.setStack_ctxs (s : State) (n : Nat) (x : Stack) : (s.setStack n x).ctxs = s.ctxs := rfl
@[simp] theorem State.setStack_grids (s : State) (n : Nat) (x : Stack) : (s.setStack n x).grids = s.grids := rfl
@[simp] theorem State.setStack_returns (s : State) (n : Nat) (x : Stack) : (s.setStack n x).returns = s.returns := rfl
@[simp] theorem State.setStack_arrivals (s : State) (n : Nat) (x : Stack) : (s.setStack n x).arrivals = s.arrivals := rfl
@[simp] theorem State.setStack_outb (s : State) (n : Nat) (x : Stack) : (s.setStack n x).outb = s.outb := rfl
@[simp] theorem State.setStack_reports (s : State) (n : Nat) (x : Stack) : (s.setStack n x).reports = s.reports := rfl
@[simp] theorem State.setStack_jobs (s : State) (n : Nat) (x : Stack) : (s.setStack n x).jobs = s.jobs := rfl
@[simp] theorem State.setStack_fabric (s : State) (n : Nat) (x : Stack) : (s.setStack n x).fabric = s.fabric := rfl
@[simp] theorem State.setStack_tramir (s : State) (n : Nat) (x : Stack) : (s.setStack n x).tramir = s.tramir := rfl
@[simp] theorem State.setStack_hart (s : State) (n : Nat) (x : Stack) : (s.setStack n x).hart = s.hart := rfl
@[simp] theorem State.setStack_out (s : State) (n : Nat) (x : Stack) : (s.setStack n x).out = s.out := rfl
@[simp] theorem State.setStack_group (s : State) (n : Nat) (x : Stack) (u : Nat) : (s.setStack n x).group? u = s.group? u := rfl
@[simp] theorem State.setStack_core (s : State) (n : Nat) (x : Stack) (k : Nat) : (s.setStack n x).core k = s.core k := rfl
@[simp] theorem State.setStack_die (s : State) (n : Nat) (x : Stack) (k : Nat) : (s.setStack n x).die k = s.die k := rfl
@[simp] theorem State.setStack_unit (s : State) (n : Nat) (x : Stack) (k : Nat) : (s.setStack n x).unit k = s.unit k := rfl
@[simp] theorem State.setStack_team (s : State) (n : Nat) (x : Stack) (u : Nat) : (s.setStack n x).team? u = s.team? u := rfl
@[simp] theorem State.setStack_grid (s : State) (n : Nat) (x : Stack) (u : Nat) : (s.setStack n x).grid? u = s.grid? u := rfl
@[simp] theorem State.setStack_ctx (s : State) (n : Nat) (x : Stack) (k : Nat) : (s.setStack n x).ctx? k = s.ctx? k := rfl

-- setUnit.

@[simp] theorem State.setUnit_clk (s : State) (n : Nat) (x : TrigUnit) : (s.setUnit n x).clk = s.clk := rfl
@[simp] theorem State.setUnit_sched (s : State) (n : Nat) (x : TrigUnit) : (s.setUnit n x).sched = s.sched := rfl
@[simp] theorem State.setUnit_mem (s : State) (n : Nat) (x : TrigUnit) : (s.setUnit n x).mem = s.mem := rfl
@[simp] theorem State.setUnit_order (s : State) (n : Nat) (x : TrigUnit) : (s.setUnit n x).order = s.order := rfl
@[simp] theorem State.setUnit_groups (s : State) (n : Nat) (x : TrigUnit) : (s.setUnit n x).groups = s.groups := rfl
@[simp] theorem State.setUnit_teams (s : State) (n : Nat) (x : TrigUnit) : (s.setUnit n x).teams = s.teams := rfl
@[simp] theorem State.setUnit_cores (s : State) (n : Nat) (x : TrigUnit) : (s.setUnit n x).cores = s.cores := rfl
@[simp] theorem State.setUnit_latches (s : State) (n : Nat) (x : TrigUnit) : (s.setUnit n x).latches = s.latches := rfl
@[simp] theorem State.setUnit_mats (s : State) (n : Nat) (x : TrigUnit) : (s.setUnit n x).mats = s.mats := rfl
@[simp] theorem State.setUnit_engs (s : State) (n : Nat) (x : TrigUnit) : (s.setUnit n x).engs = s.engs := rfl
@[simp] theorem State.setUnit_dies (s : State) (n : Nat) (x : TrigUnit) : (s.setUnit n x).dies = s.dies := rfl
@[simp] theorem State.setUnit_stks (s : State) (n : Nat) (x : TrigUnit) : (s.setUnit n x).stks = s.stks := rfl
@[simp] theorem State.setUnit_ctxs (s : State) (n : Nat) (x : TrigUnit) : (s.setUnit n x).ctxs = s.ctxs := rfl
@[simp] theorem State.setUnit_grids (s : State) (n : Nat) (x : TrigUnit) : (s.setUnit n x).grids = s.grids := rfl
@[simp] theorem State.setUnit_returns (s : State) (n : Nat) (x : TrigUnit) : (s.setUnit n x).returns = s.returns := rfl
@[simp] theorem State.setUnit_arrivals (s : State) (n : Nat) (x : TrigUnit) : (s.setUnit n x).arrivals = s.arrivals := rfl
@[simp] theorem State.setUnit_outb (s : State) (n : Nat) (x : TrigUnit) : (s.setUnit n x).outb = s.outb := rfl
@[simp] theorem State.setUnit_reports (s : State) (n : Nat) (x : TrigUnit) : (s.setUnit n x).reports = s.reports := rfl
@[simp] theorem State.setUnit_jobs (s : State) (n : Nat) (x : TrigUnit) : (s.setUnit n x).jobs = s.jobs := rfl
@[simp] theorem State.setUnit_fabric (s : State) (n : Nat) (x : TrigUnit) : (s.setUnit n x).fabric = s.fabric := rfl
@[simp] theorem State.setUnit_tramir (s : State) (n : Nat) (x : TrigUnit) : (s.setUnit n x).tramir = s.tramir := rfl
@[simp] theorem State.setUnit_hart (s : State) (n : Nat) (x : TrigUnit) : (s.setUnit n x).hart = s.hart := rfl
@[simp] theorem State.setUnit_out (s : State) (n : Nat) (x : TrigUnit) : (s.setUnit n x).out = s.out := rfl
@[simp] theorem State.setUnit_group (s : State) (n : Nat) (x : TrigUnit) (u : Nat) : (s.setUnit n x).group? u = s.group? u := rfl
@[simp] theorem State.setUnit_core (s : State) (n : Nat) (x : TrigUnit) (k : Nat) : (s.setUnit n x).core k = s.core k := rfl
@[simp] theorem State.setUnit_die (s : State) (n : Nat) (x : TrigUnit) (k : Nat) : (s.setUnit n x).die k = s.die k := rfl
@[simp] theorem State.setUnit_stack (s : State) (n : Nat) (x : TrigUnit) (k : Nat) : (s.setUnit n x).stack k = s.stack k := rfl
@[simp] theorem State.setUnit_team (s : State) (n : Nat) (x : TrigUnit) (u : Nat) : (s.setUnit n x).team? u = s.team? u := rfl
@[simp] theorem State.setUnit_grid (s : State) (n : Nat) (x : TrigUnit) (u : Nat) : (s.setUnit n x).grid? u = s.grid? u := rfl
@[simp] theorem State.setUnit_ctx (s : State) (n : Nat) (x : TrigUnit) (k : Nat) : (s.setUnit n x).ctx? k = s.ctx? k := rfl

-- setTeam.

@[simp] theorem State.setTeam_clk (s : State) (t : Team) : (s.setTeam t).clk = s.clk := rfl
@[simp] theorem State.setTeam_sched (s : State) (t : Team) : (s.setTeam t).sched = s.sched := rfl
@[simp] theorem State.setTeam_mem (s : State) (t : Team) : (s.setTeam t).mem = s.mem := rfl
@[simp] theorem State.setTeam_order (s : State) (t : Team) : (s.setTeam t).order = s.order := rfl
@[simp] theorem State.setTeam_groups (s : State) (t : Team) : (s.setTeam t).groups = s.groups := rfl
@[simp] theorem State.setTeam_cores (s : State) (t : Team) : (s.setTeam t).cores = s.cores := rfl
@[simp] theorem State.setTeam_latches (s : State) (t : Team) : (s.setTeam t).latches = s.latches := rfl
@[simp] theorem State.setTeam_mats (s : State) (t : Team) : (s.setTeam t).mats = s.mats := rfl
@[simp] theorem State.setTeam_engs (s : State) (t : Team) : (s.setTeam t).engs = s.engs := rfl
@[simp] theorem State.setTeam_dies (s : State) (t : Team) : (s.setTeam t).dies = s.dies := rfl
@[simp] theorem State.setTeam_stks (s : State) (t : Team) : (s.setTeam t).stks = s.stks := rfl
@[simp] theorem State.setTeam_units (s : State) (t : Team) : (s.setTeam t).units = s.units := rfl
@[simp] theorem State.setTeam_ctxs (s : State) (t : Team) : (s.setTeam t).ctxs = s.ctxs := rfl
@[simp] theorem State.setTeam_grids (s : State) (t : Team) : (s.setTeam t).grids = s.grids := rfl
@[simp] theorem State.setTeam_returns (s : State) (t : Team) : (s.setTeam t).returns = s.returns := rfl
@[simp] theorem State.setTeam_arrivals (s : State) (t : Team) : (s.setTeam t).arrivals = s.arrivals := rfl
@[simp] theorem State.setTeam_outb (s : State) (t : Team) : (s.setTeam t).outb = s.outb := rfl
@[simp] theorem State.setTeam_reports (s : State) (t : Team) : (s.setTeam t).reports = s.reports := rfl
@[simp] theorem State.setTeam_jobs (s : State) (t : Team) : (s.setTeam t).jobs = s.jobs := rfl
@[simp] theorem State.setTeam_fabric (s : State) (t : Team) : (s.setTeam t).fabric = s.fabric := rfl
@[simp] theorem State.setTeam_tramir (s : State) (t : Team) : (s.setTeam t).tramir = s.tramir := rfl
@[simp] theorem State.setTeam_hart (s : State) (t : Team) : (s.setTeam t).hart = s.hart := rfl
@[simp] theorem State.setTeam_out (s : State) (t : Team) : (s.setTeam t).out = s.out := rfl
@[simp] theorem State.setTeam_group (s : State) (t : Team) (u : Nat) : (s.setTeam t).group? u = s.group? u := rfl
@[simp] theorem State.setTeam_core (s : State) (t : Team) (k : Nat) : (s.setTeam t).core k = s.core k := rfl
@[simp] theorem State.setTeam_die (s : State) (t : Team) (k : Nat) : (s.setTeam t).die k = s.die k := rfl
@[simp] theorem State.setTeam_stack (s : State) (t : Team) (k : Nat) : (s.setTeam t).stack k = s.stack k := rfl
@[simp] theorem State.setTeam_unit (s : State) (t : Team) (k : Nat) : (s.setTeam t).unit k = s.unit k := rfl
@[simp] theorem State.setTeam_grid (s : State) (t : Team) (u : Nat) : (s.setTeam t).grid? u = s.grid? u := rfl
@[simp] theorem State.setTeam_ctx (s : State) (t : Team) (k : Nat) : (s.setTeam t).ctx? k = s.ctx? k := rfl

-- setGrid.

@[simp] theorem State.setGrid_clk (s : State) (t : Grid) : (s.setGrid t).clk = s.clk := rfl
@[simp] theorem State.setGrid_sched (s : State) (t : Grid) : (s.setGrid t).sched = s.sched := rfl
@[simp] theorem State.setGrid_mem (s : State) (t : Grid) : (s.setGrid t).mem = s.mem := rfl
@[simp] theorem State.setGrid_order (s : State) (t : Grid) : (s.setGrid t).order = s.order := rfl
@[simp] theorem State.setGrid_groups (s : State) (t : Grid) : (s.setGrid t).groups = s.groups := rfl
@[simp] theorem State.setGrid_teams (s : State) (t : Grid) : (s.setGrid t).teams = s.teams := rfl
@[simp] theorem State.setGrid_cores (s : State) (t : Grid) : (s.setGrid t).cores = s.cores := rfl
@[simp] theorem State.setGrid_latches (s : State) (t : Grid) : (s.setGrid t).latches = s.latches := rfl
@[simp] theorem State.setGrid_mats (s : State) (t : Grid) : (s.setGrid t).mats = s.mats := rfl
@[simp] theorem State.setGrid_engs (s : State) (t : Grid) : (s.setGrid t).engs = s.engs := rfl
@[simp] theorem State.setGrid_dies (s : State) (t : Grid) : (s.setGrid t).dies = s.dies := rfl
@[simp] theorem State.setGrid_stks (s : State) (t : Grid) : (s.setGrid t).stks = s.stks := rfl
@[simp] theorem State.setGrid_units (s : State) (t : Grid) : (s.setGrid t).units = s.units := rfl
@[simp] theorem State.setGrid_ctxs (s : State) (t : Grid) : (s.setGrid t).ctxs = s.ctxs := rfl
@[simp] theorem State.setGrid_returns (s : State) (t : Grid) : (s.setGrid t).returns = s.returns := rfl
@[simp] theorem State.setGrid_arrivals (s : State) (t : Grid) : (s.setGrid t).arrivals = s.arrivals := rfl
@[simp] theorem State.setGrid_outb (s : State) (t : Grid) : (s.setGrid t).outb = s.outb := rfl
@[simp] theorem State.setGrid_reports (s : State) (t : Grid) : (s.setGrid t).reports = s.reports := rfl
@[simp] theorem State.setGrid_jobs (s : State) (t : Grid) : (s.setGrid t).jobs = s.jobs := rfl
@[simp] theorem State.setGrid_fabric (s : State) (t : Grid) : (s.setGrid t).fabric = s.fabric := rfl
@[simp] theorem State.setGrid_tramir (s : State) (t : Grid) : (s.setGrid t).tramir = s.tramir := rfl
@[simp] theorem State.setGrid_hart (s : State) (t : Grid) : (s.setGrid t).hart = s.hart := rfl
@[simp] theorem State.setGrid_out (s : State) (t : Grid) : (s.setGrid t).out = s.out := rfl
@[simp] theorem State.setGrid_group (s : State) (t : Grid) (u : Nat) : (s.setGrid t).group? u = s.group? u := rfl
@[simp] theorem State.setGrid_core (s : State) (t : Grid) (k : Nat) : (s.setGrid t).core k = s.core k := rfl
@[simp] theorem State.setGrid_die (s : State) (t : Grid) (k : Nat) : (s.setGrid t).die k = s.die k := rfl
@[simp] theorem State.setGrid_stack (s : State) (t : Grid) (k : Nat) : (s.setGrid t).stack k = s.stack k := rfl
@[simp] theorem State.setGrid_unit (s : State) (t : Grid) (k : Nat) : (s.setGrid t).unit k = s.unit k := rfl
@[simp] theorem State.setGrid_team (s : State) (t : Grid) (u : Nat) : (s.setGrid t).team? u = s.team? u := rfl
@[simp] theorem State.setGrid_ctx (s : State) (t : Grid) (k : Nat) : (s.setGrid t).ctx? k = s.ctx? k := rfl

-- setCtx.

@[simp] theorem State.setCtx_clk (s : State) (c : Context) : (s.setCtx c).clk = s.clk := rfl
@[simp] theorem State.setCtx_sched (s : State) (c : Context) : (s.setCtx c).sched = s.sched := rfl
@[simp] theorem State.setCtx_mem (s : State) (c : Context) : (s.setCtx c).mem = s.mem := rfl
@[simp] theorem State.setCtx_order (s : State) (c : Context) : (s.setCtx c).order = s.order := rfl
@[simp] theorem State.setCtx_groups (s : State) (c : Context) : (s.setCtx c).groups = s.groups := rfl
@[simp] theorem State.setCtx_teams (s : State) (c : Context) : (s.setCtx c).teams = s.teams := rfl
@[simp] theorem State.setCtx_cores (s : State) (c : Context) : (s.setCtx c).cores = s.cores := rfl
@[simp] theorem State.setCtx_latches (s : State) (c : Context) : (s.setCtx c).latches = s.latches := rfl
@[simp] theorem State.setCtx_mats (s : State) (c : Context) : (s.setCtx c).mats = s.mats := rfl
@[simp] theorem State.setCtx_engs (s : State) (c : Context) : (s.setCtx c).engs = s.engs := rfl
@[simp] theorem State.setCtx_dies (s : State) (c : Context) : (s.setCtx c).dies = s.dies := rfl
@[simp] theorem State.setCtx_stks (s : State) (c : Context) : (s.setCtx c).stks = s.stks := rfl
@[simp] theorem State.setCtx_units (s : State) (c : Context) : (s.setCtx c).units = s.units := rfl
@[simp] theorem State.setCtx_grids (s : State) (c : Context) : (s.setCtx c).grids = s.grids := rfl
@[simp] theorem State.setCtx_returns (s : State) (c : Context) : (s.setCtx c).returns = s.returns := rfl
@[simp] theorem State.setCtx_arrivals (s : State) (c : Context) : (s.setCtx c).arrivals = s.arrivals := rfl
@[simp] theorem State.setCtx_outb (s : State) (c : Context) : (s.setCtx c).outb = s.outb := rfl
@[simp] theorem State.setCtx_reports (s : State) (c : Context) : (s.setCtx c).reports = s.reports := rfl
@[simp] theorem State.setCtx_jobs (s : State) (c : Context) : (s.setCtx c).jobs = s.jobs := rfl
@[simp] theorem State.setCtx_fabric (s : State) (c : Context) : (s.setCtx c).fabric = s.fabric := rfl
@[simp] theorem State.setCtx_tramir (s : State) (c : Context) : (s.setCtx c).tramir = s.tramir := rfl
@[simp] theorem State.setCtx_hart (s : State) (c : Context) : (s.setCtx c).hart = s.hart := rfl
@[simp] theorem State.setCtx_out (s : State) (c : Context) : (s.setCtx c).out = s.out := rfl
@[simp] theorem State.setCtx_group (s : State) (c : Context) (u : Nat) : (s.setCtx c).group? u = s.group? u := rfl
@[simp] theorem State.setCtx_core (s : State) (c : Context) (k : Nat) : (s.setCtx c).core k = s.core k := rfl
@[simp] theorem State.setCtx_die (s : State) (c : Context) (k : Nat) : (s.setCtx c).die k = s.die k := rfl
@[simp] theorem State.setCtx_stack (s : State) (c : Context) (k : Nat) : (s.setCtx c).stack k = s.stack k := rfl
@[simp] theorem State.setCtx_unit (s : State) (c : Context) (k : Nat) : (s.setCtx c).unit k = s.unit k := rfl
@[simp] theorem State.setCtx_team (s : State) (c : Context) (u : Nat) : (s.setCtx c).team? u = s.team? u := rfl
@[simp] theorem State.setCtx_grid (s : State) (c : Context) (u : Nat) : (s.setCtx c).grid? u = s.grid? u := rfl

-- send.

@[simp] theorem State.send_clk (s : State) (m : OutMsg) : (s.send m).clk = s.clk := rfl
@[simp] theorem State.send_sched (s : State) (m : OutMsg) : (s.send m).sched = s.sched := rfl
@[simp] theorem State.send_mem (s : State) (m : OutMsg) : (s.send m).mem = s.mem := rfl
@[simp] theorem State.send_order (s : State) (m : OutMsg) : (s.send m).order = s.order := rfl
@[simp] theorem State.send_groups (s : State) (m : OutMsg) : (s.send m).groups = s.groups := rfl
@[simp] theorem State.send_teams (s : State) (m : OutMsg) : (s.send m).teams = s.teams := rfl
@[simp] theorem State.send_cores (s : State) (m : OutMsg) : (s.send m).cores = s.cores := rfl
@[simp] theorem State.send_latches (s : State) (m : OutMsg) : (s.send m).latches = s.latches := rfl
@[simp] theorem State.send_mats (s : State) (m : OutMsg) : (s.send m).mats = s.mats := rfl
@[simp] theorem State.send_engs (s : State) (m : OutMsg) : (s.send m).engs = s.engs := rfl
@[simp] theorem State.send_dies (s : State) (m : OutMsg) : (s.send m).dies = s.dies := rfl
@[simp] theorem State.send_stks (s : State) (m : OutMsg) : (s.send m).stks = s.stks := rfl
@[simp] theorem State.send_units (s : State) (m : OutMsg) : (s.send m).units = s.units := rfl
@[simp] theorem State.send_ctxs (s : State) (m : OutMsg) : (s.send m).ctxs = s.ctxs := rfl
@[simp] theorem State.send_grids (s : State) (m : OutMsg) : (s.send m).grids = s.grids := rfl
@[simp] theorem State.send_returns (s : State) (m : OutMsg) : (s.send m).returns = s.returns := rfl
@[simp] theorem State.send_arrivals (s : State) (m : OutMsg) : (s.send m).arrivals = s.arrivals := rfl
@[simp] theorem State.send_outb (s : State) (m : OutMsg) : (s.send m).outb = s.outb := rfl
@[simp] theorem State.send_reports (s : State) (m : OutMsg) : (s.send m).reports = s.reports := rfl
@[simp] theorem State.send_jobs (s : State) (m : OutMsg) : (s.send m).jobs = s.jobs := rfl
@[simp] theorem State.send_fabric (s : State) (m : OutMsg) : (s.send m).fabric = s.fabric := rfl
@[simp] theorem State.send_tramir (s : State) (m : OutMsg) : (s.send m).tramir = s.tramir := rfl
@[simp] theorem State.send_hart (s : State) (m : OutMsg) : (s.send m).hart = s.hart := rfl
@[simp] theorem State.send_group (s : State) (m : OutMsg) (u : Nat) : (s.send m).group? u = s.group? u := rfl
@[simp] theorem State.send_core (s : State) (m : OutMsg) (k : Nat) : (s.send m).core k = s.core k := rfl
@[simp] theorem State.send_die (s : State) (m : OutMsg) (k : Nat) : (s.send m).die k = s.die k := rfl
@[simp] theorem State.send_stack (s : State) (m : OutMsg) (k : Nat) : (s.send m).stack k = s.stack k := rfl
@[simp] theorem State.send_unit (s : State) (m : OutMsg) (k : Nat) : (s.send m).unit k = s.unit k := rfl
@[simp] theorem State.send_team (s : State) (m : OutMsg) (u : Nat) : (s.send m).team? u = s.team? u := rfl
@[simp] theorem State.send_grid (s : State) (m : OutMsg) (u : Nat) : (s.send m).grid? u = s.grid? u := rfl
@[simp] theorem State.send_ctx (s : State) (m : OutMsg) (k : Nat) : (s.send m).ctx? k = s.ctx? k := rfl

-- fresh.

@[simp] theorem State.fresh_clk (s : State) : s.fresh.2.clk = s.clk := rfl
@[simp] theorem State.fresh_mem (s : State) : s.fresh.2.mem = s.mem := rfl
@[simp] theorem State.fresh_order (s : State) : s.fresh.2.order = s.order := rfl
@[simp] theorem State.fresh_groups (s : State) : s.fresh.2.groups = s.groups := rfl
@[simp] theorem State.fresh_teams (s : State) : s.fresh.2.teams = s.teams := rfl
@[simp] theorem State.fresh_cores (s : State) : s.fresh.2.cores = s.cores := rfl
@[simp] theorem State.fresh_latches (s : State) : s.fresh.2.latches = s.latches := rfl
@[simp] theorem State.fresh_mats (s : State) : s.fresh.2.mats = s.mats := rfl
@[simp] theorem State.fresh_engs (s : State) : s.fresh.2.engs = s.engs := rfl
@[simp] theorem State.fresh_dies (s : State) : s.fresh.2.dies = s.dies := rfl
@[simp] theorem State.fresh_stks (s : State) : s.fresh.2.stks = s.stks := rfl
@[simp] theorem State.fresh_units (s : State) : s.fresh.2.units = s.units := rfl
@[simp] theorem State.fresh_ctxs (s : State) : s.fresh.2.ctxs = s.ctxs := rfl
@[simp] theorem State.fresh_grids (s : State) : s.fresh.2.grids = s.grids := rfl
@[simp] theorem State.fresh_returns (s : State) : s.fresh.2.returns = s.returns := rfl
@[simp] theorem State.fresh_arrivals (s : State) : s.fresh.2.arrivals = s.arrivals := rfl
@[simp] theorem State.fresh_outb (s : State) : s.fresh.2.outb = s.outb := rfl
@[simp] theorem State.fresh_reports (s : State) : s.fresh.2.reports = s.reports := rfl
@[simp] theorem State.fresh_jobs (s : State) : s.fresh.2.jobs = s.jobs := rfl
@[simp] theorem State.fresh_fabric (s : State) : s.fresh.2.fabric = s.fabric := rfl
@[simp] theorem State.fresh_tramir (s : State) : s.fresh.2.tramir = s.tramir := rfl
@[simp] theorem State.fresh_hart (s : State) : s.fresh.2.hart = s.hart := rfl
@[simp] theorem State.fresh_out (s : State) : s.fresh.2.out = s.out := rfl
@[simp] theorem State.fresh_group (s : State) (u : Nat) : s.fresh.2.group? u = s.group? u := rfl
@[simp] theorem State.fresh_core (s : State) (k : Nat) : s.fresh.2.core k = s.core k := rfl
@[simp] theorem State.fresh_die (s : State) (k : Nat) : s.fresh.2.die k = s.die k := rfl
@[simp] theorem State.fresh_stack (s : State) (k : Nat) : s.fresh.2.stack k = s.stack k := rfl
@[simp] theorem State.fresh_unit (s : State) (k : Nat) : s.fresh.2.unit k = s.unit k := rfl
@[simp] theorem State.fresh_team (s : State) (u : Nat) : s.fresh.2.team? u = s.team? u := rfl
@[simp] theorem State.fresh_grid (s : State) (u : Nat) : s.fresh.2.grid? u = s.grid? u := rfl
@[simp] theorem State.fresh_ctx (s : State) (k : Nat) : s.fresh.2.ctx? k = s.ctx? k := rfl

-- nextFree.

@[simp] theorem State.nextFree_clk (s : State) : s.nextFree.2.clk = s.clk := rfl
@[simp] theorem State.nextFree_mem (s : State) : s.nextFree.2.mem = s.mem := rfl
@[simp] theorem State.nextFree_order (s : State) : s.nextFree.2.order = s.order := rfl
@[simp] theorem State.nextFree_groups (s : State) : s.nextFree.2.groups = s.groups := rfl
@[simp] theorem State.nextFree_teams (s : State) : s.nextFree.2.teams = s.teams := rfl
@[simp] theorem State.nextFree_cores (s : State) : s.nextFree.2.cores = s.cores := rfl
@[simp] theorem State.nextFree_latches (s : State) : s.nextFree.2.latches = s.latches := rfl
@[simp] theorem State.nextFree_mats (s : State) : s.nextFree.2.mats = s.mats := rfl
@[simp] theorem State.nextFree_engs (s : State) : s.nextFree.2.engs = s.engs := rfl
@[simp] theorem State.nextFree_dies (s : State) : s.nextFree.2.dies = s.dies := rfl
@[simp] theorem State.nextFree_stks (s : State) : s.nextFree.2.stks = s.stks := rfl
@[simp] theorem State.nextFree_units (s : State) : s.nextFree.2.units = s.units := rfl
@[simp] theorem State.nextFree_ctxs (s : State) : s.nextFree.2.ctxs = s.ctxs := rfl
@[simp] theorem State.nextFree_grids (s : State) : s.nextFree.2.grids = s.grids := rfl
@[simp] theorem State.nextFree_returns (s : State) : s.nextFree.2.returns = s.returns := rfl
@[simp] theorem State.nextFree_arrivals (s : State) : s.nextFree.2.arrivals = s.arrivals := rfl
@[simp] theorem State.nextFree_outb (s : State) : s.nextFree.2.outb = s.outb := rfl
@[simp] theorem State.nextFree_reports (s : State) : s.nextFree.2.reports = s.reports := rfl
@[simp] theorem State.nextFree_jobs (s : State) : s.nextFree.2.jobs = s.jobs := rfl
@[simp] theorem State.nextFree_fabric (s : State) : s.nextFree.2.fabric = s.fabric := rfl
@[simp] theorem State.nextFree_tramir (s : State) : s.nextFree.2.tramir = s.tramir := rfl
@[simp] theorem State.nextFree_hart (s : State) : s.nextFree.2.hart = s.hart := rfl
@[simp] theorem State.nextFree_out (s : State) : s.nextFree.2.out = s.out := rfl
@[simp] theorem State.nextFree_group (s : State) (u : Nat) : s.nextFree.2.group? u = s.group? u := rfl
@[simp] theorem State.nextFree_core (s : State) (k : Nat) : s.nextFree.2.core k = s.core k := rfl
@[simp] theorem State.nextFree_die (s : State) (k : Nat) : s.nextFree.2.die k = s.die k := rfl
@[simp] theorem State.nextFree_stack (s : State) (k : Nat) : s.nextFree.2.stack k = s.stack k := rfl
@[simp] theorem State.nextFree_unit (s : State) (k : Nat) : s.nextFree.2.unit k = s.unit k := rfl
@[simp] theorem State.nextFree_team (s : State) (u : Nat) : s.nextFree.2.team? u = s.team? u := rfl
@[simp] theorem State.nextFree_grid (s : State) (u : Nat) : s.nextFree.2.grid? u = s.grid? u := rfl
@[simp] theorem State.nextFree_ctx (s : State) (k : Nat) : s.nextFree.2.ctx? k = s.ctx? k := rfl

-- wrote.

@[simp] theorem State.wrote_clk (s : State) (l : Nat) (o : List Byte) : (s.wrote l o).clk = s.clk := by unfold State.wrote; dsimp only; split <;> rfl
@[simp] theorem State.wrote_sched (s : State) (l : Nat) (o : List Byte) : (s.wrote l o).sched = s.sched := by unfold State.wrote; dsimp only; split <;> rfl
@[simp] theorem State.wrote_mem (s : State) (l : Nat) (o : List Byte) : (s.wrote l o).mem = s.mem := by unfold State.wrote; dsimp only; split <;> rfl
@[simp] theorem State.wrote_groups (s : State) (l : Nat) (o : List Byte) : (s.wrote l o).groups = s.groups := by unfold State.wrote; dsimp only; split <;> rfl
@[simp] theorem State.wrote_teams (s : State) (l : Nat) (o : List Byte) : (s.wrote l o).teams = s.teams := by unfold State.wrote; dsimp only; split <;> rfl
@[simp] theorem State.wrote_cores (s : State) (l : Nat) (o : List Byte) : (s.wrote l o).cores = s.cores := by unfold State.wrote; dsimp only; split <;> rfl
@[simp] theorem State.wrote_latches (s : State) (l : Nat) (o : List Byte) : (s.wrote l o).latches = s.latches := by unfold State.wrote; dsimp only; split <;> rfl
@[simp] theorem State.wrote_mats (s : State) (l : Nat) (o : List Byte) : (s.wrote l o).mats = s.mats := by unfold State.wrote; dsimp only; split <;> rfl
@[simp] theorem State.wrote_engs (s : State) (l : Nat) (o : List Byte) : (s.wrote l o).engs = s.engs := by unfold State.wrote; dsimp only; split <;> rfl
@[simp] theorem State.wrote_dies (s : State) (l : Nat) (o : List Byte) : (s.wrote l o).dies = s.dies := by unfold State.wrote; dsimp only; split <;> rfl
@[simp] theorem State.wrote_stks (s : State) (l : Nat) (o : List Byte) : (s.wrote l o).stks = s.stks := by unfold State.wrote; dsimp only; split <;> rfl
@[simp] theorem State.wrote_units (s : State) (l : Nat) (o : List Byte) : (s.wrote l o).units = s.units := by unfold State.wrote; dsimp only; split <;> rfl
@[simp] theorem State.wrote_ctxs (s : State) (l : Nat) (o : List Byte) : (s.wrote l o).ctxs = s.ctxs := by unfold State.wrote; dsimp only; split <;> rfl
@[simp] theorem State.wrote_grids (s : State) (l : Nat) (o : List Byte) : (s.wrote l o).grids = s.grids := by unfold State.wrote; dsimp only; split <;> rfl
@[simp] theorem State.wrote_returns (s : State) (l : Nat) (o : List Byte) : (s.wrote l o).returns = s.returns := by unfold State.wrote; dsimp only; split <;> rfl
@[simp] theorem State.wrote_arrivals (s : State) (l : Nat) (o : List Byte) : (s.wrote l o).arrivals = s.arrivals := by unfold State.wrote; dsimp only; split <;> rfl
@[simp] theorem State.wrote_outb (s : State) (l : Nat) (o : List Byte) : (s.wrote l o).outb = s.outb := by unfold State.wrote; dsimp only; split <;> rfl
@[simp] theorem State.wrote_reports (s : State) (l : Nat) (o : List Byte) : (s.wrote l o).reports = s.reports := by unfold State.wrote; dsimp only; split <;> rfl
@[simp] theorem State.wrote_jobs (s : State) (l : Nat) (o : List Byte) : (s.wrote l o).jobs = s.jobs := by unfold State.wrote; dsimp only; split <;> rfl
@[simp] theorem State.wrote_fabric (s : State) (l : Nat) (o : List Byte) : (s.wrote l o).fabric = s.fabric := by unfold State.wrote; dsimp only; split <;> rfl
@[simp] theorem State.wrote_tramir (s : State) (l : Nat) (o : List Byte) : (s.wrote l o).tramir = s.tramir := by unfold State.wrote; dsimp only; split <;> rfl
@[simp] theorem State.wrote_hart (s : State) (l : Nat) (o : List Byte) : (s.wrote l o).hart = s.hart := by unfold State.wrote; dsimp only; split <;> rfl
@[simp] theorem State.wrote_out (s : State) (l : Nat) (o : List Byte) : (s.wrote l o).out = s.out := by unfold State.wrote; dsimp only; split <;> rfl
@[simp] theorem State.wrote_group (s : State) (l : Nat) (o : List Byte) (u : Nat) : (s.wrote l o).group? u = s.group? u := by unfold State.wrote; dsimp only; split <;> rfl
@[simp] theorem State.wrote_core (s : State) (l : Nat) (o : List Byte) (k : Nat) : (s.wrote l o).core k = s.core k := by unfold State.wrote; dsimp only; split <;> rfl
@[simp] theorem State.wrote_die (s : State) (l : Nat) (o : List Byte) (k : Nat) : (s.wrote l o).die k = s.die k := by unfold State.wrote; dsimp only; split <;> rfl
@[simp] theorem State.wrote_stack (s : State) (l : Nat) (o : List Byte) (k : Nat) : (s.wrote l o).stack k = s.stack k := by unfold State.wrote; dsimp only; split <;> rfl
@[simp] theorem State.wrote_unit (s : State) (l : Nat) (o : List Byte) (k : Nat) : (s.wrote l o).unit k = s.unit k := by unfold State.wrote; dsimp only; split <;> rfl
@[simp] theorem State.wrote_team (s : State) (l : Nat) (o : List Byte) (u : Nat) : (s.wrote l o).team? u = s.team? u := by unfold State.wrote; dsimp only; split <;> rfl
@[simp] theorem State.wrote_grid (s : State) (l : Nat) (o : List Byte) (u : Nat) : (s.wrote l o).grid? u = s.grid? u := by unfold State.wrote; dsimp only; split <;> rfl
@[simp] theorem State.wrote_ctx (s : State) (l : Nat) (o : List Byte) (k : Nat) : (s.wrote l o).ctx? k = s.ctx? k := by unfold State.wrote; dsimp only; split <;> rfl

-- wall.

@[simp] theorem State.wall_clk (s : State) (l n : Nat) : (s.wall l n).clk = s.clk := by unfold State.wall; dsimp only; split <;> rfl
@[simp] theorem State.wall_sched (s : State) (l n : Nat) : (s.wall l n).sched = s.sched := by unfold State.wall; dsimp only; split <;> rfl
@[simp] theorem State.wall_mem (s : State) (l n : Nat) : (s.wall l n).mem = s.mem := by unfold State.wall; dsimp only; split <;> rfl
@[simp] theorem State.wall_groups (s : State) (l n : Nat) : (s.wall l n).groups = s.groups := by unfold State.wall; dsimp only; split <;> rfl
@[simp] theorem State.wall_teams (s : State) (l n : Nat) : (s.wall l n).teams = s.teams := by unfold State.wall; dsimp only; split <;> rfl
@[simp] theorem State.wall_cores (s : State) (l n : Nat) : (s.wall l n).cores = s.cores := by unfold State.wall; dsimp only; split <;> rfl
@[simp] theorem State.wall_latches (s : State) (l n : Nat) : (s.wall l n).latches = s.latches := by unfold State.wall; dsimp only; split <;> rfl
@[simp] theorem State.wall_mats (s : State) (l n : Nat) : (s.wall l n).mats = s.mats := by unfold State.wall; dsimp only; split <;> rfl
@[simp] theorem State.wall_engs (s : State) (l n : Nat) : (s.wall l n).engs = s.engs := by unfold State.wall; dsimp only; split <;> rfl
@[simp] theorem State.wall_dies (s : State) (l n : Nat) : (s.wall l n).dies = s.dies := by unfold State.wall; dsimp only; split <;> rfl
@[simp] theorem State.wall_stks (s : State) (l n : Nat) : (s.wall l n).stks = s.stks := by unfold State.wall; dsimp only; split <;> rfl
@[simp] theorem State.wall_units (s : State) (l n : Nat) : (s.wall l n).units = s.units := by unfold State.wall; dsimp only; split <;> rfl
@[simp] theorem State.wall_ctxs (s : State) (l n : Nat) : (s.wall l n).ctxs = s.ctxs := by unfold State.wall; dsimp only; split <;> rfl
@[simp] theorem State.wall_grids (s : State) (l n : Nat) : (s.wall l n).grids = s.grids := by unfold State.wall; dsimp only; split <;> rfl
@[simp] theorem State.wall_returns (s : State) (l n : Nat) : (s.wall l n).returns = s.returns := by unfold State.wall; dsimp only; split <;> rfl
@[simp] theorem State.wall_arrivals (s : State) (l n : Nat) : (s.wall l n).arrivals = s.arrivals := by unfold State.wall; dsimp only; split <;> rfl
@[simp] theorem State.wall_outb (s : State) (l n : Nat) : (s.wall l n).outb = s.outb := by unfold State.wall; dsimp only; split <;> rfl
@[simp] theorem State.wall_reports (s : State) (l n : Nat) : (s.wall l n).reports = s.reports := by unfold State.wall; dsimp only; split <;> rfl
@[simp] theorem State.wall_jobs (s : State) (l n : Nat) : (s.wall l n).jobs = s.jobs := by unfold State.wall; dsimp only; split <;> rfl
@[simp] theorem State.wall_fabric (s : State) (l n : Nat) : (s.wall l n).fabric = s.fabric := by unfold State.wall; dsimp only; split <;> rfl
@[simp] theorem State.wall_tramir (s : State) (l n : Nat) : (s.wall l n).tramir = s.tramir := by unfold State.wall; dsimp only; split <;> rfl
@[simp] theorem State.wall_hart (s : State) (l n : Nat) : (s.wall l n).hart = s.hart := by unfold State.wall; dsimp only; split <;> rfl
@[simp] theorem State.wall_out (s : State) (l n : Nat) : (s.wall l n).out = s.out := by unfold State.wall; dsimp only; split <;> rfl
@[simp] theorem State.wall_group (s : State) (l n : Nat) (u : Nat) : (s.wall l n).group? u = s.group? u := by unfold State.wall; dsimp only; split <;> rfl
@[simp] theorem State.wall_core (s : State) (l n : Nat) (k : Nat) : (s.wall l n).core k = s.core k := by unfold State.wall; dsimp only; split <;> rfl
@[simp] theorem State.wall_die (s : State) (l n : Nat) (k : Nat) : (s.wall l n).die k = s.die k := by unfold State.wall; dsimp only; split <;> rfl
@[simp] theorem State.wall_stack (s : State) (l n : Nat) (k : Nat) : (s.wall l n).stack k = s.stack k := by unfold State.wall; dsimp only; split <;> rfl
@[simp] theorem State.wall_unit (s : State) (l n : Nat) (k : Nat) : (s.wall l n).unit k = s.unit k := by unfold State.wall; dsimp only; split <;> rfl
@[simp] theorem State.wall_team (s : State) (l n : Nat) (u : Nat) : (s.wall l n).team? u = s.team? u := by unfold State.wall; dsimp only; split <;> rfl
@[simp] theorem State.wall_grid (s : State) (l n : Nat) (u : Nat) : (s.wall l n).grid? u = s.grid? u := by unfold State.wall; dsimp only; split <;> rfl
@[simp] theorem State.wall_ctx (s : State) (l n : Nat) (k : Nat) : (s.wall l n).ctx? k = s.ctx? k := by unfold State.wall; dsimp only; split <;> rfl

-- signed.

@[simp] theorem State.signed_clk (s : State) (n : Nat) (w : Agent) (c : Option Nat) (r : List Release) : (s.signed n w c r).clk = s.clk := rfl
@[simp] theorem State.signed_sched (s : State) (n : Nat) (w : Agent) (c : Option Nat) (r : List Release) : (s.signed n w c r).sched = s.sched := rfl
@[simp] theorem State.signed_mem (s : State) (n : Nat) (w : Agent) (c : Option Nat) (r : List Release) : (s.signed n w c r).mem = s.mem := rfl
@[simp] theorem State.signed_groups (s : State) (n : Nat) (w : Agent) (c : Option Nat) (r : List Release) : (s.signed n w c r).groups = s.groups := rfl
@[simp] theorem State.signed_teams (s : State) (n : Nat) (w : Agent) (c : Option Nat) (r : List Release) : (s.signed n w c r).teams = s.teams := rfl
@[simp] theorem State.signed_cores (s : State) (n : Nat) (w : Agent) (c : Option Nat) (r : List Release) : (s.signed n w c r).cores = s.cores := rfl
@[simp] theorem State.signed_latches (s : State) (n : Nat) (w : Agent) (c : Option Nat) (r : List Release) : (s.signed n w c r).latches = s.latches := rfl
@[simp] theorem State.signed_mats (s : State) (n : Nat) (w : Agent) (c : Option Nat) (r : List Release) : (s.signed n w c r).mats = s.mats := rfl
@[simp] theorem State.signed_engs (s : State) (n : Nat) (w : Agent) (c : Option Nat) (r : List Release) : (s.signed n w c r).engs = s.engs := rfl
@[simp] theorem State.signed_dies (s : State) (n : Nat) (w : Agent) (c : Option Nat) (r : List Release) : (s.signed n w c r).dies = s.dies := rfl
@[simp] theorem State.signed_stks (s : State) (n : Nat) (w : Agent) (c : Option Nat) (r : List Release) : (s.signed n w c r).stks = s.stks := rfl
@[simp] theorem State.signed_units (s : State) (n : Nat) (w : Agent) (c : Option Nat) (r : List Release) : (s.signed n w c r).units = s.units := rfl
@[simp] theorem State.signed_ctxs (s : State) (n : Nat) (w : Agent) (c : Option Nat) (r : List Release) : (s.signed n w c r).ctxs = s.ctxs := rfl
@[simp] theorem State.signed_grids (s : State) (n : Nat) (w : Agent) (c : Option Nat) (r : List Release) : (s.signed n w c r).grids = s.grids := rfl
@[simp] theorem State.signed_returns (s : State) (n : Nat) (w : Agent) (c : Option Nat) (r : List Release) : (s.signed n w c r).returns = s.returns := rfl
@[simp] theorem State.signed_arrivals (s : State) (n : Nat) (w : Agent) (c : Option Nat) (r : List Release) : (s.signed n w c r).arrivals = s.arrivals := rfl
@[simp] theorem State.signed_outb (s : State) (n : Nat) (w : Agent) (c : Option Nat) (r : List Release) : (s.signed n w c r).outb = s.outb := rfl
@[simp] theorem State.signed_reports (s : State) (n : Nat) (w : Agent) (c : Option Nat) (r : List Release) : (s.signed n w c r).reports = s.reports := rfl
@[simp] theorem State.signed_jobs (s : State) (n : Nat) (w : Agent) (c : Option Nat) (r : List Release) : (s.signed n w c r).jobs = s.jobs := rfl
@[simp] theorem State.signed_fabric (s : State) (n : Nat) (w : Agent) (c : Option Nat) (r : List Release) : (s.signed n w c r).fabric = s.fabric := rfl
@[simp] theorem State.signed_tramir (s : State) (n : Nat) (w : Agent) (c : Option Nat) (r : List Release) : (s.signed n w c r).tramir = s.tramir := rfl
@[simp] theorem State.signed_hart (s : State) (n : Nat) (w : Agent) (c : Option Nat) (r : List Release) : (s.signed n w c r).hart = s.hart := rfl
@[simp] theorem State.signed_out (s : State) (n : Nat) (w : Agent) (c : Option Nat) (r : List Release) : (s.signed n w c r).out = s.out := rfl
@[simp] theorem State.signed_group (s : State) (n : Nat) (w : Agent) (c : Option Nat) (r : List Release) (u : Nat) : (s.signed n w c r).group? u = s.group? u := rfl
@[simp] theorem State.signed_core (s : State) (n : Nat) (w : Agent) (c : Option Nat) (r : List Release) (k : Nat) : (s.signed n w c r).core k = s.core k := rfl
@[simp] theorem State.signed_die (s : State) (n : Nat) (w : Agent) (c : Option Nat) (r : List Release) (k : Nat) : (s.signed n w c r).die k = s.die k := rfl
@[simp] theorem State.signed_stack (s : State) (n : Nat) (w : Agent) (c : Option Nat) (r : List Release) (k : Nat) : (s.signed n w c r).stack k = s.stack k := rfl
@[simp] theorem State.signed_unit (s : State) (n : Nat) (w : Agent) (c : Option Nat) (r : List Release) (k : Nat) : (s.signed n w c r).unit k = s.unit k := rfl
@[simp] theorem State.signed_team (s : State) (n : Nat) (w : Agent) (c : Option Nat) (r : List Release) (u : Nat) : (s.signed n w c r).team? u = s.team? u := rfl
@[simp] theorem State.signed_grid (s : State) (n : Nat) (w : Agent) (c : Option Nat) (r : List Release) (u : Nat) : (s.signed n w c r).grid? u = s.grid? u := rfl
@[simp] theorem State.signed_ctx (s : State) (n : Nat) (w : Agent) (c : Option Nat) (r : List Release) (k : Nat) : (s.signed n w c r).ctx? k = s.ctx? k := rfl

-- learn.

@[simp] theorem State.learn_clk (s : State) (l : Learned) : (s.learn l).clk = s.clk := rfl
@[simp] theorem State.learn_sched (s : State) (l : Learned) : (s.learn l).sched = s.sched := rfl
@[simp] theorem State.learn_mem (s : State) (l : Learned) : (s.learn l).mem = s.mem := rfl
@[simp] theorem State.learn_groups (s : State) (l : Learned) : (s.learn l).groups = s.groups := rfl
@[simp] theorem State.learn_teams (s : State) (l : Learned) : (s.learn l).teams = s.teams := rfl
@[simp] theorem State.learn_cores (s : State) (l : Learned) : (s.learn l).cores = s.cores := rfl
@[simp] theorem State.learn_latches (s : State) (l : Learned) : (s.learn l).latches = s.latches := rfl
@[simp] theorem State.learn_mats (s : State) (l : Learned) : (s.learn l).mats = s.mats := rfl
@[simp] theorem State.learn_engs (s : State) (l : Learned) : (s.learn l).engs = s.engs := rfl
@[simp] theorem State.learn_dies (s : State) (l : Learned) : (s.learn l).dies = s.dies := rfl
@[simp] theorem State.learn_stks (s : State) (l : Learned) : (s.learn l).stks = s.stks := rfl
@[simp] theorem State.learn_units (s : State) (l : Learned) : (s.learn l).units = s.units := rfl
@[simp] theorem State.learn_ctxs (s : State) (l : Learned) : (s.learn l).ctxs = s.ctxs := rfl
@[simp] theorem State.learn_grids (s : State) (l : Learned) : (s.learn l).grids = s.grids := rfl
@[simp] theorem State.learn_returns (s : State) (l : Learned) : (s.learn l).returns = s.returns := rfl
@[simp] theorem State.learn_arrivals (s : State) (l : Learned) : (s.learn l).arrivals = s.arrivals := rfl
@[simp] theorem State.learn_outb (s : State) (l : Learned) : (s.learn l).outb = s.outb := rfl
@[simp] theorem State.learn_reports (s : State) (l : Learned) : (s.learn l).reports = s.reports := rfl
@[simp] theorem State.learn_jobs (s : State) (l : Learned) : (s.learn l).jobs = s.jobs := rfl
@[simp] theorem State.learn_fabric (s : State) (l : Learned) : (s.learn l).fabric = s.fabric := rfl
@[simp] theorem State.learn_tramir (s : State) (l : Learned) : (s.learn l).tramir = s.tramir := rfl
@[simp] theorem State.learn_hart (s : State) (l : Learned) : (s.learn l).hart = s.hart := rfl
@[simp] theorem State.learn_out (s : State) (l : Learned) : (s.learn l).out = s.out := rfl
@[simp] theorem State.learn_group (s : State) (l : Learned) (u : Nat) : (s.learn l).group? u = s.group? u := rfl
@[simp] theorem State.learn_core (s : State) (l : Learned) (k : Nat) : (s.learn l).core k = s.core k := rfl
@[simp] theorem State.learn_die (s : State) (l : Learned) (k : Nat) : (s.learn l).die k = s.die k := rfl
@[simp] theorem State.learn_stack (s : State) (l : Learned) (k : Nat) : (s.learn l).stack k = s.stack k := rfl
@[simp] theorem State.learn_unit (s : State) (l : Learned) (k : Nat) : (s.learn l).unit k = s.unit k := rfl
@[simp] theorem State.learn_team (s : State) (l : Learned) (u : Nat) : (s.learn l).team? u = s.team? u := rfl
@[simp] theorem State.learn_grid (s : State) (l : Learned) (u : Nat) : (s.learn l).grid? u = s.grid? u := rfl
@[simp] theorem State.learn_ctx (s : State) (l : Learned) (k : Nat) : (s.learn l).ctx? k = s.ctx? k := rfl

-- tell.

@[simp] theorem State.tell_clk (s : State) (m : Mark) (r : List Release) : (s.tell m r).clk = s.clk := by unfold State.tell; split <;> rfl
@[simp] theorem State.tell_sched (s : State) (m : Mark) (r : List Release) : (s.tell m r).sched = s.sched := by unfold State.tell; split <;> rfl
@[simp] theorem State.tell_mem (s : State) (m : Mark) (r : List Release) : (s.tell m r).mem = s.mem := by unfold State.tell; split <;> rfl
@[simp] theorem State.tell_groups (s : State) (m : Mark) (r : List Release) : (s.tell m r).groups = s.groups := by unfold State.tell; split <;> rfl
@[simp] theorem State.tell_teams (s : State) (m : Mark) (r : List Release) : (s.tell m r).teams = s.teams := by unfold State.tell; split <;> rfl
@[simp] theorem State.tell_cores (s : State) (m : Mark) (r : List Release) : (s.tell m r).cores = s.cores := by unfold State.tell; split <;> rfl
@[simp] theorem State.tell_latches (s : State) (m : Mark) (r : List Release) : (s.tell m r).latches = s.latches := by unfold State.tell; split <;> rfl
@[simp] theorem State.tell_mats (s : State) (m : Mark) (r : List Release) : (s.tell m r).mats = s.mats := by unfold State.tell; split <;> rfl
@[simp] theorem State.tell_engs (s : State) (m : Mark) (r : List Release) : (s.tell m r).engs = s.engs := by unfold State.tell; split <;> rfl
@[simp] theorem State.tell_dies (s : State) (m : Mark) (r : List Release) : (s.tell m r).dies = s.dies := by unfold State.tell; split <;> rfl
@[simp] theorem State.tell_stks (s : State) (m : Mark) (r : List Release) : (s.tell m r).stks = s.stks := by unfold State.tell; split <;> rfl
@[simp] theorem State.tell_units (s : State) (m : Mark) (r : List Release) : (s.tell m r).units = s.units := by unfold State.tell; split <;> rfl
@[simp] theorem State.tell_ctxs (s : State) (m : Mark) (r : List Release) : (s.tell m r).ctxs = s.ctxs := by unfold State.tell; split <;> rfl
@[simp] theorem State.tell_grids (s : State) (m : Mark) (r : List Release) : (s.tell m r).grids = s.grids := by unfold State.tell; split <;> rfl
@[simp] theorem State.tell_returns (s : State) (m : Mark) (r : List Release) : (s.tell m r).returns = s.returns := by unfold State.tell; split <;> rfl
@[simp] theorem State.tell_arrivals (s : State) (m : Mark) (r : List Release) : (s.tell m r).arrivals = s.arrivals := by unfold State.tell; split <;> rfl
@[simp] theorem State.tell_outb (s : State) (m : Mark) (r : List Release) : (s.tell m r).outb = s.outb := by unfold State.tell; split <;> rfl
@[simp] theorem State.tell_reports (s : State) (m : Mark) (r : List Release) : (s.tell m r).reports = s.reports := by unfold State.tell; split <;> rfl
@[simp] theorem State.tell_jobs (s : State) (m : Mark) (r : List Release) : (s.tell m r).jobs = s.jobs := by unfold State.tell; split <;> rfl
@[simp] theorem State.tell_fabric (s : State) (m : Mark) (r : List Release) : (s.tell m r).fabric = s.fabric := by unfold State.tell; split <;> rfl
@[simp] theorem State.tell_tramir (s : State) (m : Mark) (r : List Release) : (s.tell m r).tramir = s.tramir := by unfold State.tell; split <;> rfl
@[simp] theorem State.tell_hart (s : State) (m : Mark) (r : List Release) : (s.tell m r).hart = s.hart := by unfold State.tell; split <;> rfl
@[simp] theorem State.tell_out (s : State) (m : Mark) (r : List Release) : (s.tell m r).out = s.out := by unfold State.tell; split <;> rfl
@[simp] theorem State.tell_group (s : State) (m : Mark) (r : List Release) (u : Nat) : (s.tell m r).group? u = s.group? u := by unfold State.tell; split <;> rfl
@[simp] theorem State.tell_core (s : State) (m : Mark) (r : List Release) (k : Nat) : (s.tell m r).core k = s.core k := by unfold State.tell; split <;> rfl
@[simp] theorem State.tell_die (s : State) (m : Mark) (r : List Release) (k : Nat) : (s.tell m r).die k = s.die k := by unfold State.tell; split <;> rfl
@[simp] theorem State.tell_stack (s : State) (m : Mark) (r : List Release) (k : Nat) : (s.tell m r).stack k = s.stack k := by unfold State.tell; split <;> rfl
@[simp] theorem State.tell_unit (s : State) (m : Mark) (r : List Release) (k : Nat) : (s.tell m r).unit k = s.unit k := by unfold State.tell; split <;> rfl
@[simp] theorem State.tell_team (s : State) (m : Mark) (r : List Release) (u : Nat) : (s.tell m r).team? u = s.team? u := by unfold State.tell; split <;> rfl
@[simp] theorem State.tell_grid (s : State) (m : Mark) (r : List Release) (u : Nat) : (s.tell m r).grid? u = s.grid? u := by unfold State.tell; split <;> rfl
@[simp] theorem State.tell_ctx (s : State) (m : Mark) (r : List Release) (k : Nat) : (s.tell m r).ctx? k = s.ctx? k := by unfold State.tell; split <;> rfl

-- hush.

@[simp] theorem State.hush_clk (s : State) (p : Mark → Bool) : (s.hush p).clk = s.clk := rfl
@[simp] theorem State.hush_sched (s : State) (p : Mark → Bool) : (s.hush p).sched = s.sched := rfl
@[simp] theorem State.hush_mem (s : State) (p : Mark → Bool) : (s.hush p).mem = s.mem := rfl
@[simp] theorem State.hush_groups (s : State) (p : Mark → Bool) : (s.hush p).groups = s.groups := rfl
@[simp] theorem State.hush_teams (s : State) (p : Mark → Bool) : (s.hush p).teams = s.teams := rfl
@[simp] theorem State.hush_cores (s : State) (p : Mark → Bool) : (s.hush p).cores = s.cores := rfl
@[simp] theorem State.hush_latches (s : State) (p : Mark → Bool) : (s.hush p).latches = s.latches := rfl
@[simp] theorem State.hush_mats (s : State) (p : Mark → Bool) : (s.hush p).mats = s.mats := rfl
@[simp] theorem State.hush_engs (s : State) (p : Mark → Bool) : (s.hush p).engs = s.engs := rfl
@[simp] theorem State.hush_dies (s : State) (p : Mark → Bool) : (s.hush p).dies = s.dies := rfl
@[simp] theorem State.hush_stks (s : State) (p : Mark → Bool) : (s.hush p).stks = s.stks := rfl
@[simp] theorem State.hush_units (s : State) (p : Mark → Bool) : (s.hush p).units = s.units := rfl
@[simp] theorem State.hush_ctxs (s : State) (p : Mark → Bool) : (s.hush p).ctxs = s.ctxs := rfl
@[simp] theorem State.hush_grids (s : State) (p : Mark → Bool) : (s.hush p).grids = s.grids := rfl
@[simp] theorem State.hush_returns (s : State) (p : Mark → Bool) : (s.hush p).returns = s.returns := rfl
@[simp] theorem State.hush_arrivals (s : State) (p : Mark → Bool) : (s.hush p).arrivals = s.arrivals := rfl
@[simp] theorem State.hush_outb (s : State) (p : Mark → Bool) : (s.hush p).outb = s.outb := rfl
@[simp] theorem State.hush_reports (s : State) (p : Mark → Bool) : (s.hush p).reports = s.reports := rfl
@[simp] theorem State.hush_jobs (s : State) (p : Mark → Bool) : (s.hush p).jobs = s.jobs := rfl
@[simp] theorem State.hush_fabric (s : State) (p : Mark → Bool) : (s.hush p).fabric = s.fabric := rfl
@[simp] theorem State.hush_tramir (s : State) (p : Mark → Bool) : (s.hush p).tramir = s.tramir := rfl
@[simp] theorem State.hush_hart (s : State) (p : Mark → Bool) : (s.hush p).hart = s.hart := rfl
@[simp] theorem State.hush_out (s : State) (p : Mark → Bool) : (s.hush p).out = s.out := rfl
@[simp] theorem State.hush_group (s : State) (p : Mark → Bool) (u : Nat) : (s.hush p).group? u = s.group? u := rfl
@[simp] theorem State.hush_core (s : State) (p : Mark → Bool) (k : Nat) : (s.hush p).core k = s.core k := rfl
@[simp] theorem State.hush_die (s : State) (p : Mark → Bool) (k : Nat) : (s.hush p).die k = s.die k := rfl
@[simp] theorem State.hush_stack (s : State) (p : Mark → Bool) (k : Nat) : (s.hush p).stack k = s.stack k := rfl
@[simp] theorem State.hush_unit (s : State) (p : Mark → Bool) (k : Nat) : (s.hush p).unit k = s.unit k := rfl
@[simp] theorem State.hush_team (s : State) (p : Mark → Bool) (u : Nat) : (s.hush p).team? u = s.team? u := rfl
@[simp] theorem State.hush_grid (s : State) (p : Mark → Bool) (u : Nat) : (s.hush p).grid? u = s.grid? u := rfl
@[simp] theorem State.hush_ctx (s : State) (p : Mark → Bool) (k : Nat) : (s.hush p).ctx? k = s.ctx? k := rfl

-- advance.

@[simp] theorem State.advance_clk (s : State) : s.advance.clk = s.clk := rfl
@[simp] theorem State.advance_mem (s : State) : s.advance.mem = s.mem := rfl
@[simp] theorem State.advance_order (s : State) : s.advance.order = s.order := rfl
@[simp] theorem State.advance_groups (s : State) : s.advance.groups = s.groups := rfl
@[simp] theorem State.advance_teams (s : State) : s.advance.teams = s.teams := rfl
@[simp] theorem State.advance_cores (s : State) : s.advance.cores = s.cores := rfl
@[simp] theorem State.advance_latches (s : State) : s.advance.latches = s.latches := rfl
@[simp] theorem State.advance_mats (s : State) : s.advance.mats = s.mats := rfl
@[simp] theorem State.advance_engs (s : State) : s.advance.engs = s.engs := rfl
@[simp] theorem State.advance_dies (s : State) : s.advance.dies = s.dies := rfl
@[simp] theorem State.advance_stks (s : State) : s.advance.stks = s.stks := rfl
@[simp] theorem State.advance_units (s : State) : s.advance.units = s.units := rfl
@[simp] theorem State.advance_ctxs (s : State) : s.advance.ctxs = s.ctxs := rfl
@[simp] theorem State.advance_grids (s : State) : s.advance.grids = s.grids := rfl
@[simp] theorem State.advance_returns (s : State) : s.advance.returns = s.returns := rfl
@[simp] theorem State.advance_arrivals (s : State) : s.advance.arrivals = s.arrivals := rfl
@[simp] theorem State.advance_outb (s : State) : s.advance.outb = s.outb := rfl
@[simp] theorem State.advance_reports (s : State) : s.advance.reports = s.reports := rfl
@[simp] theorem State.advance_jobs (s : State) : s.advance.jobs = s.jobs := rfl
@[simp] theorem State.advance_fabric (s : State) : s.advance.fabric = s.fabric := rfl
@[simp] theorem State.advance_tramir (s : State) : s.advance.tramir = s.tramir := rfl
@[simp] theorem State.advance_hart (s : State) : s.advance.hart = s.hart := rfl
@[simp] theorem State.advance_out (s : State) : s.advance.out = s.out := rfl
@[simp] theorem State.advance_group (s : State) (u : Nat) : s.advance.group? u = s.group? u := rfl
@[simp] theorem State.advance_core (s : State) (k : Nat) : s.advance.core k = s.core k := rfl
@[simp] theorem State.advance_die (s : State) (k : Nat) : s.advance.die k = s.die k := rfl
@[simp] theorem State.advance_stack (s : State) (k : Nat) : s.advance.stack k = s.stack k := rfl
@[simp] theorem State.advance_unit (s : State) (k : Nat) : s.advance.unit k = s.unit k := rfl
@[simp] theorem State.advance_team (s : State) (u : Nat) : s.advance.team? u = s.team? u := rfl
@[simp] theorem State.advance_grid (s : State) (u : Nat) : s.advance.grid? u = s.grid? u := rfl
@[simp] theorem State.advance_ctx (s : State) (k : Nat) : s.advance.ctx? k = s.ctx? k := rfl

-- What an update sets.

@[simp] theorem State.send_out (s : State) (m : OutMsg) : (s.send m).out = s.out ++ [m] := rfl
@[simp] theorem State.advance_turns (s : State) : s.advance.sched.turns = s.sched.turns + 1 := rfl
@[simp] theorem State.advance_cur (s : State) : s.advance.sched.cur = s.sched.cur := rfl

end Sys2Proof.Machine
end

