-- ==== Sys2Proof/Laws/Ops.lean ====
section
/-! SUPPORT. What each shared operation does, said once: the registers, the objects of the state, physical memory, and the
course of a scalar word. -/

namespace Sys2Proof.Machine

open Sys2Proof

-- Registers (R8).

/-- s0 reads zero. -/
@[simp] theorem Group.getS_zero (g : Group) : g.getS 0 = 0 := by simp [Group.getS]
/-- c7 reads 1. -/
@[simp] theorem Group.getC_seven (g : Group) : g.getC 7 = true := by simp [Group.getC]
/-- A write to s0 is discarded. -/
@[simp] theorem Group.setS_zero (g : Group) (x : Word) : g.setS 0 x = g := by simp [Group.setS]
/-- A write to c7 is discarded. -/
@[simp] theorem Group.setC_seven (g : Group) (b : Bool) : g.setC 7 b = g := by simp [Group.setC]

theorem Group.getS_of_ne (g : Group) {n : BitVec 6} (h : n ≠ 0) : g.getS n = g.sc.s[n.toNat]'n.isLt := if_neg h
theorem Group.setS_of_ne (g : Group) {n : BitVec 6} (h : n ≠ 0) (x : Word) :
    g.setS n x = { g with sc := { g.sc with s := g.sc.s.set n.toNat x n.isLt } } := if_neg h

/-- What an s register reads after a write of one. -/
theorem Group.getS_setS (g : Group) (n m : BitVec 6) (x : Word) :
    (g.setS n x).getS m = if m = 0 then 0 else if m = n then x else g.getS m := by
  by_cases hm : m = 0
  · rw [if_pos hm, hm, Group.getS_zero]
  · rw [if_neg hm]
    by_cases hn : n = 0
    · rw [if_neg (fun h => hm (h.trans hn)), hn, Group.setS_zero]
    · rw [Group.setS_of_ne g hn, Group.getS_of_ne _ hm]
      by_cases h : m = n
      · subst h
        rw [if_pos rfl]
        exact Vector.getElem_set_self _
      · rw [if_neg h, Group.getS_of_ne _ hm]
        exact Vector.getElem_set_ne n.isLt m.isLt (fun e => h (BitVec.eq_of_toNat_eq e.symm))

/-- A write of an s register changes nothing else of the group. -/
theorem Group.setS_frame (g : Group) (n : BitVec 6) (x : Word) :
    (g.setS n x).uid = g.uid ∧ (g.setS n x).ln = g.ln ∧ (g.setS n x).sr = g.sr ∧ (g.setS n x).sc.c = g.sc.c ∧
      (g.setS n x).sc.pend = g.sc.pend ∧ (g.setS n x).sc.spc = g.sc.spc ∧ (g.setS n x).sc.outst = g.sc.outst := by
  unfold Group.setS
  split <;> exact ⟨rfl, rfl, rfl, rfl, rfl, rfl, rfl⟩

/-- s0 and c7 are never pending. -/
@[simp] theorem Group.pending_zero (g : Group) : g.pending 0 = false := rfl
@[simp] theorem Group.pending_c7 (g : Group) : g.pending 71 = false := rfl

-- Objects of the state.

theorem find_map_same {α : Type} (l : List α) (key : α → Nat) (y : α) :
    (l.map fun x => if key x == key y then y else x).find? (fun x => key x == key y)
      = (l.find? fun x => key x == key y).map fun _ => y := by
  induction l with
  | nil => rfl
  | cons a t ih =>
    rw [List.map_cons, List.find?_cons, List.find?_cons]
    by_cases h : key a = key y
    · simp [h]
    · have h1 : (key a == key y) = false := beq_eq_false_iff_ne.2 h
      simp only [h1, Bool.false_eq_true, if_false]
      exact ih

theorem find_map_other {α : Type} (l : List α) (key : α → Nat) (y : α) (u : Nat) (hu : u ≠ key y) :
    (l.map fun x => if key x == key y then y else x).find? (fun x => key x == u) = l.find? fun x => key x == u := by
  induction l with
  | nil => rfl
  | cons a t ih =>
    rw [List.map_cons, List.find?_cons, List.find?_cons]
    by_cases h : key a = key y
    · have h1 : (key y == u) = false := beq_eq_false_iff_ne.2 (Ne.symm hu)
      have h2 : (key a == u) = false := by rw [h]; exact h1
      simp only [h, beq_self_eq_true, if_true, h1]
      exact ih
    · have h1 : (key a == key y) = false := beq_eq_false_iff_ne.2 h
      simp only [h1, Bool.false_eq_true, if_false]
      cases hk : key a == u
      · exact ih
      · rfl

/-- A group that was set is found, if one of its key was there. -/
theorem State.group?_setGroup_same (s : State) (g : Group) :
    (s.setGroup g).group? g.uid = (s.group? g.uid).map fun _ => g :=
  find_map_same s.groups (fun x => x.uid) g

/-- Every other group is found as before. -/
theorem State.group?_setGroup_other (s : State) (g : Group) (u : Nat) (h : u ≠ g.uid) :
    (s.setGroup g).group? u = s.group? u :=
  find_map_other s.groups (fun x => x.uid) g u h

theorem State.grid?_setGrid_same (s : State) (t : Grid) : (s.setGrid t).grid? t.uid = (s.grid? t.uid).map fun _ => t :=
  find_map_same s.grids (fun x => x.uid) t

theorem State.team?_setTeam_same (s : State) (t : Team) : (s.setTeam t).team? t.uid = (s.team? t.uid).map fun _ => t :=
  find_map_same s.teams (fun x => x.uid) t

theorem State.core_setCore (s : State) (n k : Nat) (c : Core) :
    (s.setCore n c).core k = if k = n then c else s.core k := look_put ..

theorem State.die_setDie (s : State) (n k : Nat) (d : Die) : (s.setDie n d).die k = if k = n then d else s.die k :=
  look_put ..

theorem State.unit_setUnit (s : State) (n k : Nat) (x : TrigUnit) :
    (s.setUnit n x).unit k = if k = n then x else s.unit k := look_put ..

theorem State.stack_setStack (s : State) (n k : Nat) (x : Stack) :
    (s.setStack n x).stack k = if k = n then x else s.stack k := look_put ..

-- Events.

/-- Emitting an event changes the trigger units alone. -/
theorem State.emit_eq (s : State) (cls : Nat) (src : BitVec 16) (tag payload ctx die : Nat) :
    s.emit cls src tag payload ctx die = { s with units := (s.emit cls src tag payload ctx die).units } := by
  unfold State.emit State.emitBy
  dsimp only
  split <;> rfl

theorem State.emit_mem (s : State) (cls : Nat) (src : BitVec 16) (tag payload ctx die : Nat) :
    (s.emit cls src tag payload ctx die).mem = s.mem := by
  rw [State.emit_eq]

-- Outbound accesses.

/-- What is sent changes no byte of the module's memory. -/
theorem State.transmit_mem (s : State) (ctx n : Nat) (token : Word) (l : List (Nat × OutKind)) :
    (s.transmit ctx n token l).mem = s.mem := by
  unfold State.transmit
  split
  · rfl
  · split
    · rfl
    · next pa k r _ =>
      generalize ((pa, k) :: r) = l
      induction l generalizing s with
      | nil => rfl
      | cons p t ih => exact ih (s.send (.hostRequest (p.1 - 0x4000000000000) p.2))

theorem State.nextPacket_mem (s : State) (ctx pa : Nat) : (s.nextPacket ctx pa).2.mem = s.mem := by
  unfold State.nextPacket
  split
  · rfl
  · exact State.emit_mem ..

theorem State.sendOut_mem (s : State) (who : Option Origin) (ctx : Nat) (va : Word) (pa : Nat) (kind : OutKind) :
    (s.sendOut who ctx va pa kind).2.mem = s.mem := by
  unfold State.sendOut
  dsimp only
  rw [State.transmit_mem]
  exact State.nextPacket_mem ..

-- History and physical memory.

/-- Of the state, only memory and its history have changed. -/
abbrev OnlyMem (s t : State) : Prop := t = { s with mem := t.mem, order := t.order }

theorem OnlyMem.trans {s t u : State} (h1 : OnlyMem s t) (h2 : OnlyMem t u) : OnlyMem s u :=
  Eq.trans h2 (by rw [h1])

/-- A write that enters history, and a wall, change the history alone. -/
theorem State.wrote_eq (s : State) (l : Nat) (o : List Byte) : s.wrote l o = { s with order := (s.wrote l o).order } := by
  unfold State.wrote
  dsimp only
  split <;> rfl
theorem State.wall_eq (s : State) (l n : Nat) : s.wall l n = { s with order := (s.wall l n).order } := by
  unfold State.wall
  dsimp only
  split <;> rfl

/-- A line rewritten under another key changes memory and its history alone, and keeps its canonical form. -/
theorem State.rekey_eq (s : State) (w : BitVec 4) (line : Nat) : OnlyMem s (s.rekey w line) := by
  unfold State.rekey OnlyMem
  dsimp only
  split
  · rfl
  · rw [State.wall_eq]

theorem State.rekey_wf {s : State} (h : memWf s.mem.bytes = true) (w : BitVec 4) (line : Nat) :
    memWf (s.rekey w line).mem.bytes = true := by
  unfold State.rekey
  generalize s.physRead w (128 * line) 128 = bs
  dsimp only
  split
  · exact h
  · show memWf (memWrite (s.wall (128 * line) 128).mem.bytes (128 * line) bs) = true
    rw [State.wall_mem]
    exact memWf_memWrite h (128 * line) bs

theorem State.rekeys_eq (s : State) (w : BitVec 4) (ls : List Nat) :
    OnlyMem s (ls.foldl (fun s line => s.rekey w line) s) := by
  induction ls generalizing s with
  | nil => rfl
  | cons l t ih => exact (State.rekey_eq s w l).trans (ih (s.rekey w l))

theorem State.rekeys_wf {s : State} (h : memWf s.mem.bytes = true) (w : BitVec 4) (ls : List Nat) :
    memWf (ls.foldl (fun s line => s.rekey w line) s).mem.bytes = true := by
  induction ls generalizing s with
  | nil => exact h
  | cons l t ih => exact ih (State.rekey_wf h w l)

/-- A store to physical memory changes memory and its history alone. -/
theorem State.physWrite_eq (s : State) (w : BitVec 4) (a : Nat) (bs : List Byte) : OnlyMem s (s.physWrite w a bs) := by
  unfold State.physWrite OnlyMem
  dsimp only
  have h := State.rekeys_eq s w (linesAt a bs.length)
  generalize (linesAt a bs.length).foldl (fun s line => s.rekey w line) s = t at h ⊢
  rw [State.wrote_eq, h]

/-- A store to physical memory keeps the canonical form. -/
theorem State.physWrite_wf {s : State} (h : memWf s.mem.bytes = true) (w : BitVec 4) (a : Nat) (bs : List Byte) :
    memWf (s.physWrite w a bs).mem.bytes = true := by
  unfold State.physWrite
  dsimp only
  exact memWf_memWrite (by rw [State.wrote_mem]; exact State.rekeys_wf h w _) a bs

/-- The tag of a line that was written is written with it: memory and its history alone change, canonically. -/
theorem State.retag_eq (s : State) (line : Nat) : OnlyMem s (s.retag line) := by
  unfold State.retag
  split
  · exact State.physWrite_eq ..
  · rfl
theorem State.retag_wf {s : State} (h : memWf s.mem.bytes = true) (line : Nat) : memWf (s.retag line).mem.bytes = true := by
  unfold State.retag
  split
  · exact State.physWrite_wf h ..
  · exact h

theorem State.retags_eq (s : State) (ls : List Nat) : OnlyMem s (ls.foldl State.retag s) := by
  induction ls generalizing s with
  | nil => rfl
  | cons l t ih => exact (State.retag_eq s l).trans (ih (s.retag l))
theorem State.retags_wf {s : State} (h : memWf s.mem.bytes = true) (ls : List Nat) :
    memWf (ls.foldl State.retag s).mem.bytes = true := by
  induction ls generalizing s with
  | nil => exact h
  | cons l t ih => exact ih (State.retag_wf h l)

/-- A write request at its home changes memory and its history alone, and keeps the canonical form. -/
theorem State.homeWrite_eq (s : State) (w : BitVec 4) (a : Nat) (bs : List Byte) : OnlyMem s (s.homeWrite w a bs) :=
  (State.physWrite_eq s w a bs).trans (State.retags_eq _ _)
theorem State.homeWrite_wf {s : State} (h : memWf s.mem.bytes = true) (w : BitVec 4) (a : Nat) (bs : List Byte) :
    memWf (s.homeWrite w a bs).mem.bytes = true :=
  State.retags_wf (State.physWrite_wf h w a bs) _

/-- Errors change no byte. -/
@[simp] theorem State.poisonLines_bytes (s : State) (ls : List Nat) : (s.poisonLines ls).mem.bytes = s.mem.bytes := rfl
@[simp] theorem State.clearPoison_bytes (s : State) (a n : Nat) : (s.clearPoison a n).mem.bytes = s.mem.bytes := rfl

/-- What every step of a fold keeps, the fold keeps. -/
theorem foldl_keeps {α β : Type} {f : β → α → β} {P : β → Prop} (hf : ∀ b a, P b → P (f b a)) (l : List α) (b : β) (h : P b) :
    P (l.foldl f b) := by
  induction l generalizing b with
  | nil => exact h
  | cons a t ih => exact ih _ (hf b a h)

/-- The writes of an agent that is no stream keep the canonical form. -/
theorem State.physStore_wf {s : State} (h : memWf s.mem.bytes = true) (who : Option Origin) (ctx : Nat) (w : BitVec 4) (va : Word)
    (l : List (Nat × Byte)) : memWf (s.physStore who ctx w va l).1.mem.bytes = true := by
  unfold State.physStore
  refine foldl_keeps (P := fun x : State × List Nat => memWf x.1.mem.bytes = true) (fun x r hx => ?_) (runsOf l) (s, []) h
  dsimp only
  split
  · rw [State.clearPoison_bytes]
    exact State.homeWrite_wf (by rw [State.poisonLines_bytes]; exact hx) ..
  · rw [State.sendOut_mem]
    exact hx

/-- Writes of a core's pools keep their canonical form. -/
theorem Core.writeScratch_wf {c : Core} (h : memWf c.scratch = true) (a : Nat) (bs : List Byte) :
    memWf (c.writeScratch a bs).scratch = true := memWf_memWrite h a bs
theorem Core.writeAcc_wf {c : Core} (h : memWf c.acc = true) (a : Nat) (bs : List Byte) :
    memWf (c.writeAcc a bs).acc = true := memWf_memWrite h a bs

/-- An operation applied to a Plumb replica keeps its canonical form. -/
theorem Die.applyPlumb_wf {d : Die} (h : memWf d.replica = true) (r : PlumbReq) : memWf (d.applyPlumb r).replica = true :=
  memWf_memWrite h _ _

/-- Memory after reset lists nothing and is canonical. -/
theorem reset_memWf : memWf State.reset.mem.bytes = true := rfl

-- The course of a scalar word (R25, R62, R20).

/-- A word that meets every check has its own effect. -/
theorem scalarWordIf_runs {i : Instr} {allowed : Group → Bool} {regs : List Nat} {body : State → Group → Bool → State}
    {s : State} {c : Cur} {g : Group} (hi : s.issuer = some (c, g)) (hl : s.legal i = true) (ha : allowed g = true)
    (hp : ∀ r ∈ regs, g.pending r = false) : scalarWordIf i allowed regs body s = .next (body s g c.hold) := by
  have hf : g.firstPending regs = none := by
    unfold Group.firstPending
    rw [List.find?_eq_none]
    intro r hr
    simp [hp r hr]
  simp [scalarWordIf, hi, hl, ha, hf]

/-- A word that its fields, the service or the mode do not admit raises ILLEGAL. -/
theorem scalarWordIf_illegal {i : Instr} {allowed : Group → Bool} {regs : List Nat} {body : State → Group → Bool → State}
    {s : State} {c : Cur} {g : Group} (hi : s.issuer = some (c, g)) (h : (s.legal i && allowed g) = false) :
    scalarWordIf i allowed regs body s = .next (s.trapScalar g 0x01 (illegalWord c.hold i)) := by
  have : (!s.legal i || !allowed g) = true := by
    cases hl : s.legal i <;> cases ha : allowed g <;> simp_all
  simp [scalarWordIf, hi, this]

/-- A word that names a pending register raises HOLDV with the first one. -/
theorem scalarWordIf_holdv {i : Instr} {allowed : Group → Bool} {regs : List Nat} {body : State → Group → Bool → State}
    {s : State} {c : Cur} {g : Group} {r : Nat} (hi : s.issuer = some (c, g)) (hl : s.legal i = true) (ha : allowed g = true)
    (hp : regs.find? (fun r => g.pending r) = some r) :
    scalarWordIf i allowed regs body s = .next (s.trapScalar g 0x02 (word r)) := by
  simp [scalarWordIf, hi, hl, ha, Group.firstPending, hp]

/-- A scalar word never refuses, and faults only where no group is named (R25). -/
theorem scalarWordIf_cases (i : Instr) (allowed : Group → Bool) (regs : List Nat) (body : State → Group → Bool → State)
    (s : State) : (∃ t, scalarWordIf i allowed regs body s = .next t) ∨
      (s.issuer = none ∧ scalarWordIf i allowed regs body s = .fault .noIssuer) := by
  unfold scalarWordIf
  split
  · exact .inr ⟨by assumption, rfl⟩
  · split
    · exact .inl ⟨_, rfl⟩
    · split <;> exact .inl ⟨_, rfl⟩

/-- A word that completes: SPC, SCNT and the park of H = 1, and no register. -/
theorem State.retire_group? (s : State) (g : Group) (hold : Bool) (next : Word) (h : s.group? g.uid = some g) :
    ∃ g', (s.retire g hold next).group? g.uid = some g' ∧ g'.sc.spc = next ∧ g'.cnt.scnt = g.cnt.scnt + 1 ∧
      g'.sc.s = g.sc.s ∧ g'.sc.c = g.sc.c ∧ g'.sc.pend = g.sc.pend ∧ g'.sr = g.sr ∧ g'.ln = g.ln := by
  let g' : Group := { g with
    sc := { g.sc with spc := next, wait := if hold then .hold else .ready, hold := false, walked := [], vector := none }
    cnt := { g.cnt with scnt := g.cnt.scnt + 1 } }
  have e : s.retire g hold next = s.setGroup g' := rfl
  refine ⟨g', ?_, rfl, rfl, rfl, rfl, rfl, rfl, rfl⟩
  rw [e, show g.uid = g'.uid from rfl, State.group?_setGroup_same, show g'.uid = g.uid from rfl, h]
  rfl

-- Returning from an exception (R28).

theorem Group.trapReturn_spc (g : Group) : g.trapReturn.sc.spc = g.sr.tpc := rfl
theorem Group.trapReturn_thaws (g : Group) : g.trapReturn.ln.frozen = false := rfl
theorem Group.trapReturn_user (g : Group) (h : g.sc.sup = false) : g.trapReturn.sc.sup = false := by
  simp [Group.trapReturn, h]

-- Reads (R271, R281, R289).

/-- What a read does not see is a run of the newest writes that it may miss. -/
theorem State.overlookAt_prefix (s : State) (loc n bound : Nat) (latest : Bool) :
    (s.overlookAt loc n bound latest).2 <+: s.order.unseenAt loc n bound := by
  unfold State.overlookAt
  dsimp only
  split
  · exact List.nil_prefix
  · exact List.take_prefix _ _

/-- A read that takes the latest contents, or that may miss no write, misses none and takes no free value. -/
theorem State.overlookAt_latest (s : State) (loc n bound : Nat) (latest : Bool)
    (h : latest = true ∨ s.order.unseenAt loc n bound = []) : s.overlookAt loc n bound latest = (s, []) := by
  unfold State.overlookAt
  dsimp only
  rcases h with h | h <;> simp [h]

/-- Such a choice changes the counter of free values alone. -/
theorem State.overlookAt_state (s : State) (loc n bound : Nat) (latest : Bool) :
    (s.overlookAt loc n bound latest).1 = s ∨ (s.overlookAt loc n bound latest).1 = (s.nextFree).2 := by
  unfold State.overlookAt
  dsimp only
  split
  · exact .inl rfl
  · exact .inr rfl

-- Stops (R359 to R362, R394).

/-- A stop that starts for a group with no other is on its way, and the group is as it was. -/
theorem State.sendStop_first (s : State) (g : Group) (w : StopWait) (n : Nat) (hc : g.coming = none) (hs : g.stop = none) :
    s.sendStop g w n = s.setGroup { g with coming := some ⟨w, n⟩ } := by
  simp [State.sendStop, hc, hs]

/-- A second stop that halts no team changes nothing. -/
theorem State.sendStop_second (s : State) (g : Group) (w : StopWait) (n : Nat) (h : g.coming ≠ none ∨ g.stop ≠ none)
    (hw : w.halted = false) : s.sendStop g w n = s := by
  have : (g.coming.isNone && g.stop.isNone) = false := by
    rcases h with h | h <;> cases e : g.coming <;> cases e' : g.stop <;> simp_all
  simp [State.sendStop, this, hw]

/-- All that a stop which reaches a group can do: it waits with the group, leaves it as it is, or stops it. -/
theorem State.stopReaches_cases (s : State) (g : Group) (w : StopWait) :
    (∃ x, s.stopReaches g w = s.setGroup { g with coming := none, stop := x }) ∨ s.stopReaches g w = s.stopWaiting g w := by
  unfold State.stopReaches
  split
  · split
    · exact .inl ⟨_, rfl⟩
    · exact .inr rfl
  · split
    · exact .inr rfl
    · exact .inl ⟨g.stop, rfl⟩
  · split
    · exact .inr rfl
    · exact .inl ⟨g.stop, rfl⟩
  · exact .inl ⟨g.stop, rfl⟩

end Sys2Proof.Machine
end

