-- ==== Sys2Proof/Laws/PerInstr.lean ====
section
/-! SUPPORT. One lemma per instruction of each family of LAWS.json. Words: an instruction occupies three parcels when it is a lane
word (R65), one word when it is a scalar or a control-core word (R55, R241), and none when it is a step of the machine. -/

namespace Sys2Proof.Laws.Words

open Sys2Proof Sys2Proof.Machine

/-- The number of 32-bit words of an instruction, whatever its hold bit. -/
def Statement (i : Instr) : Prop :=
  ∀ h : Bool, (encode h i).length = if isStep i then 0 else if (laneSpec i).isSome then 3 else 1

theorem add : ∀ a0 a1 a2, Statement (.add a0 a1 a2) := fun _ _ _ _ => rfl
theorem sub : ∀ a0 a1 a2, Statement (.sub a0 a1 a2) := fun _ _ _ _ => rfl
theorem and : ∀ a0 a1 a2, Statement (.and a0 a1 a2) := fun _ _ _ _ => rfl
theorem or : ∀ a0 a1 a2, Statement (.or a0 a1 a2) := fun _ _ _ _ => rfl
theorem xor : ∀ a0 a1 a2, Statement (.xor a0 a1 a2) := fun _ _ _ _ => rfl
theorem andn : ∀ a0 a1 a2, Statement (.andn a0 a1 a2) := fun _ _ _ _ => rfl
theorem shl : ∀ a0 a1 a2, Statement (.shl a0 a1 a2) := fun _ _ _ _ => rfl
theorem shr : ∀ a0 a1 a2, Statement (.shr a0 a1 a2) := fun _ _ _ _ => rfl
theorem sar : ∀ a0 a1 a2, Statement (.sar a0 a1 a2) := fun _ _ _ _ => rfl
theorem rol : ∀ a0 a1 a2, Statement (.rol a0 a1 a2) := fun _ _ _ _ => rfl
theorem min : ∀ a0 a1 a2, Statement (.min a0 a1 a2) := fun _ _ _ _ => rfl
theorem max : ∀ a0 a1 a2, Statement (.max a0 a1 a2) := fun _ _ _ _ => rfl
theorem minn : ∀ a0 a1 a2, Statement (.minn a0 a1 a2) := fun _ _ _ _ => rfl
theorem maxn : ∀ a0 a1 a2, Statement (.maxn a0 a1 a2) := fun _ _ _ _ => rfl
theorem mul : ∀ a0 a1 a2, Statement (.mul a0 a1 a2) := fun _ _ _ _ => rfl
theorem mulh : ∀ a0 a1 a2, Statement (.mulh a0 a1 a2) := fun _ _ _ _ => rfl
theorem mulhn : ∀ a0 a1 a2, Statement (.mulhn a0 a1 a2) := fun _ _ _ _ => rfl
theorem div : ∀ a0 a1 a2, Statement (.div a0 a1 a2) := fun _ _ _ _ => rfl
theorem divn : ∀ a0 a1 a2, Statement (.divn a0 a1 a2) := fun _ _ _ _ => rfl
theorem rem : ∀ a0 a1 a2, Statement (.rem a0 a1 a2) := fun _ _ _ _ => rfl
theorem remn : ∀ a0 a1 a2, Statement (.remn a0 a1 a2) := fun _ _ _ _ => rfl
theorem clz : ∀ a0 a1, Statement (.clz a0 a1) := fun _ _ _ => rfl
theorem ctz : ∀ a0 a1, Statement (.ctz a0 a1) := fun _ _ _ => rfl
theorem popc : ∀ a0 a1, Statement (.popc a0 a1) := fun _ _ _ => rfl
theorem brev : ∀ a0 a1, Statement (.brev a0 a1) := fun _ _ _ => rfl
theorem cmp : ∀ a0 a1 a2 a3, Statement (.cmp a0 a1 a2 a3) := fun _ _ _ _ _ => rfl
theorem addi : ∀ a0 a1 a2, Statement (.addi a0 a1 a2) := fun _ _ _ _ => rfl
theorem andi : ∀ a0 a1 a2, Statement (.andi a0 a1 a2) := fun _ _ _ _ => rfl
theorem ori : ∀ a0 a1 a2, Statement (.ori a0 a1 a2) := fun _ _ _ _ => rfl
theorem xori : ∀ a0 a1 a2, Statement (.xori a0 a1 a2) := fun _ _ _ _ => rfl
theorem shli : ∀ a0 a1 a2, Statement (.shli a0 a1 a2) := fun _ _ _ _ => rfl
theorem shri : ∀ a0 a1 a2, Statement (.shri a0 a1 a2) := fun _ _ _ _ => rfl
theorem sari : ∀ a0 a1 a2, Statement (.sari a0 a1 a2) := fun _ _ _ _ => rfl
theorem roli : ∀ a0 a1 a2, Statement (.roli a0 a1 a2) := fun _ _ _ _ => rfl
theorem cmpi : ∀ a0 a1 a2 a3, Statement (.cmpi a0 a1 a2 a3) := fun _ _ _ _ _ => rfl
theorem muli : ∀ a0 a1 a2, Statement (.muli a0 a1 a2) := fun _ _ _ _ => rfl
theorem lui : ∀ a0 a1, Statement (.lui a0 a1) := fun _ _ _ => rfl
theorem addpc : ∀ a0 a1, Statement (.addpc a0 a1) := fun _ _ _ => rfl
theorem sel : ∀ a0 a1 a2 a3 a4, Statement (.sel a0 a1 a2 a3 a4) := fun _ _ _ _ _ _ => rfl
theorem cset : ∀ a0 a1, Statement (.cset a0 a1) := fun _ _ _ => rfl
theorem cand : ∀ a0 a1 a2, Statement (.cand a0 a1 a2) := fun _ _ _ _ => rfl
theorem cor : ∀ a0 a1 a2, Statement (.cor a0 a1 a2) := fun _ _ _ _ => rfl
theorem cxor : ∀ a0 a1 a2, Statement (.cxor a0 a1 a2) := fun _ _ _ _ => rfl
theorem cnot : ∀ a0 a1, Statement (.cnot a0 a1) := fun _ _ _ => rfl
theorem movc : ∀ a0 a1, Statement (.movc a0 a1) := fun _ _ _ => rfl
theorem br : ∀ a0 a1 a2, Statement (.br a0 a1 a2) := fun _ _ _ _ => rfl
theorem jmp : ∀ a0 a1, Statement (.jmp a0 a1) := fun _ _ _ => rfl
theorem jr : ∀ a0 a1 a2, Statement (.jr a0 a1 a2) := fun _ _ _ _ => rfl
theorem nop : Statement (.nop) := fun _ => rfl
theorem exit : Statement (.exit) := fun _ => rfl
theorem yield : Statement (.yield) := fun _ => rfl
theorem bkpt : Statement (.bkpt) := fun _ => rfl
theorem trap : ∀ a0, Statement (.trap a0) := fun _ _ => rfl
theorem tret : Statement (.tret) := fun _ => rfl
theorem idemb : Statement (.idemb) := fun _ => rfl
theorem ideme : Statement (.ideme) := fun _ => rfl
theorem halt : Statement (.halt) := fun _ => rfl
theorem sleep : Statement (.sleep) := fun _ => rfl
theorem ldb : ∀ a0 a1 a2, Statement (.ldb a0 a1 a2) := fun _ _ _ _ => rfl
theorem ldh : ∀ a0 a1 a2, Statement (.ldh a0 a1 a2) := fun _ _ _ _ => rfl
theorem ldw : ∀ a0 a1 a2, Statement (.ldw a0 a1 a2) := fun _ _ _ _ => rfl
theorem ldd : ∀ a0 a1 a2, Statement (.ldd a0 a1 a2) := fun _ _ _ _ => rfl
theorem ldbs : ∀ a0 a1 a2, Statement (.ldbs a0 a1 a2) := fun _ _ _ _ => rfl
theorem ldhs : ∀ a0 a1 a2, Statement (.ldhs a0 a1 a2) := fun _ _ _ _ => rfl
theorem ldws : ∀ a0 a1 a2, Statement (.ldws a0 a1 a2) := fun _ _ _ _ => rfl
theorem stb : ∀ a0 a1 a2, Statement (.stb a0 a1 a2) := fun _ _ _ _ => rfl
theorem sth : ∀ a0 a1 a2, Statement (.sth a0 a1 a2) := fun _ _ _ _ => rfl
theorem stw : ∀ a0 a1 a2, Statement (.stw a0 a1 a2) := fun _ _ _ _ => rfl
theorem std : ∀ a0 a1 a2, Statement (.std a0 a1 a2) := fun _ _ _ _ => rfl
theorem ldqRlx : ∀ a0 a1 a2 a3, Statement (.ldqRlx a0 a1 a2 a3) := fun _ _ _ _ _ => rfl
theorem ldqAcq : ∀ a0 a1 a2 a3, Statement (.ldqAcq a0 a1 a2 a3) := fun _ _ _ _ _ => rfl
theorem stqRlx : ∀ a0 a1 a2 a3, Statement (.stqRlx a0 a1 a2 a3) := fun _ _ _ _ _ => rfl
theorem stqRel : ∀ a0 a1 a2 a3, Statement (.stqRel a0 a1 a2 a3) := fun _ _ _ _ _ => rfl
theorem amoAdd : ∀ a0 a1 a2 a3, Statement (.amoAdd a0 a1 a2 a3) := fun _ _ _ _ _ => rfl
theorem amoAnd : ∀ a0 a1 a2 a3, Statement (.amoAnd a0 a1 a2 a3) := fun _ _ _ _ _ => rfl
theorem amoOr : ∀ a0 a1 a2 a3, Statement (.amoOr a0 a1 a2 a3) := fun _ _ _ _ _ => rfl
theorem amoXor : ∀ a0 a1 a2 a3, Statement (.amoXor a0 a1 a2 a3) := fun _ _ _ _ _ => rfl
theorem amoMin : ∀ a0 a1 a2 a3, Statement (.amoMin a0 a1 a2 a3) := fun _ _ _ _ _ => rfl
theorem amoMax : ∀ a0 a1 a2 a3, Statement (.amoMax a0 a1 a2 a3) := fun _ _ _ _ _ => rfl
theorem amoMinn : ∀ a0 a1 a2 a3, Statement (.amoMinn a0 a1 a2 a3) := fun _ _ _ _ _ => rfl
theorem amoMaxn : ∀ a0 a1 a2 a3, Statement (.amoMaxn a0 a1 a2 a3) := fun _ _ _ _ _ => rfl
theorem amoSwap : ∀ a0 a1 a2 a3, Statement (.amoSwap a0 a1 a2 a3) := fun _ _ _ _ _ => rfl
theorem cas : ∀ a0 a1 a2 a3, Statement (.cas a0 a1 a2 a3) := fun _ _ _ _ _ => rfl
theorem fenceAcq : ∀ a0, Statement (.fenceAcq a0) := fun _ _ => rfl
theorem fenceRel : ∀ a0, Statement (.fenceRel a0) := fun _ _ => rfl
theorem fenceAcqrel : ∀ a0, Statement (.fenceAcqrel a0) := fun _ _ => rfl
theorem fenceSc : ∀ a0, Statement (.fenceSc a0) := fun _ _ => rfl
theorem ldspB : ∀ a0 a1 a2, Statement (.ldspB a0 a1 a2) := fun _ _ _ _ => rfl
theorem ldspH : ∀ a0 a1 a2, Statement (.ldspH a0 a1 a2) := fun _ _ _ _ => rfl
theorem ldspW : ∀ a0 a1 a2, Statement (.ldspW a0 a1 a2) := fun _ _ _ _ => rfl
theorem ldspD : ∀ a0 a1 a2, Statement (.ldspD a0 a1 a2) := fun _ _ _ _ => rfl
theorem ldspBs : ∀ a0 a1 a2, Statement (.ldspBs a0 a1 a2) := fun _ _ _ _ => rfl
theorem ldspHs : ∀ a0 a1 a2, Statement (.ldspHs a0 a1 a2) := fun _ _ _ _ => rfl
theorem ldspWs : ∀ a0 a1 a2, Statement (.ldspWs a0 a1 a2) := fun _ _ _ _ => rfl
theorem stspB : ∀ a0 a1 a2, Statement (.stspB a0 a1 a2) := fun _ _ _ _ => rfl
theorem stspH : ∀ a0 a1 a2, Statement (.stspH a0 a1 a2) := fun _ _ _ _ => rfl
theorem stspW : ∀ a0 a1 a2, Statement (.stspW a0 a1 a2) := fun _ _ _ _ => rfl
theorem stspD : ∀ a0 a1 a2, Statement (.stspD a0 a1 a2) := fun _ _ _ _ => rfl
theorem datumSet : ∀ a0 a1, Statement (.datumSet a0 a1) := fun _ _ _ => rfl
theorem datumClear : ∀ a0, Statement (.datumClear a0) := fun _ _ => rfl
theorem datumQuery : ∀ a0 a1, Statement (.datumQuery a0 a1) := fun _ _ _ => rfl
theorem getsr : ∀ a0 a1, Statement (.getsr a0 a1) := fun _ _ _ => rfl
theorem setsr : ∀ a0 a1, Statement (.setsr a0 a1) := fun _ _ _ => rfl
theorem lrun : ∀ a0 a1, Statement (.lrun a0 a1) := fun _ _ _ => rfl
theorem lwait : ∀ a0, Statement (.lwait a0) := fun _ _ => rfl
theorem lget : ∀ a0 a1 a2, Statement (.lget a0 a1 a2) := fun _ _ _ _ => rfl
theorem lset : ∀ a0 a1 a2, Statement (.lset a0 a1 a2) := fun _ _ _ _ => rfl
theorem lmaskRead : ∀ a0 a1, Statement (.lmaskRead a0 a1) := fun _ _ _ => rfl
theorem lmaskWrite : ∀ a0 a1, Statement (.lmaskWrite a0 a1) := fun _ _ _ => rfl
theorem mma : ∀ a0 a1 a2, Statement (.mma a0 a1 a2) := fun _ _ _ _ => rfl
theorem mgang : ∀ a0, Statement (.mgang a0) := fun _ _ => rfl
theorem mwait : ∀ a0, Statement (.mwait a0) := fun _ _ => rfl
theorem accz : ∀ a0 a1, Statement (.accz a0 a1) := fun _ _ _ => rfl
theorem accv : ∀ a0 a1 a2, Statement (.accv a0 a1 a2) := fun _ _ _ _ => rfl
theorem cpyG2s : ∀ a0 a1 a2 a3 a4, Statement (.cpyG2s a0 a1 a2 a3 a4) := fun _ _ _ _ _ _ => rfl
theorem cpyS2g : ∀ a0 a1 a2 a3 a4, Statement (.cpyS2g a0 a1 a2 a3 a4) := fun _ _ _ _ _ _ => rfl
theorem cpyGth : ∀ a0 a1 a2 a3 a4, Statement (.cpyGth a0 a1 a2 a3 a4) := fun _ _ _ _ _ _ => rfl
theorem cpySct : ∀ a0 a1 a2 a3 a4, Statement (.cpySct a0 a1 a2 a3 a4) := fun _ _ _ _ _ _ => rfl
theorem cpyG2g : ∀ a0 a1 a2 a3 a4, Statement (.cpyG2g a0 a1 a2 a3 a4) := fun _ _ _ _ _ _ => rfl
theorem cpyw : ∀ a0 a1, Statement (.cpyw a0 a1) := fun _ _ _ => rfl
theorem cpywPoll : ∀ a0 a1, Statement (.cpywPoll a0 a1) := fun _ _ _ => rfl
theorem yieldc : ∀ a0 a1, Statement (.yieldc a0 a1) := fun _ _ _ => rfl
theorem collSum : ∀ a0 a1 a2 a3, Statement (.collSum a0 a1 a2 a3) := fun _ _ _ _ _ => rfl
theorem collMax : ∀ a0 a1 a2 a3, Statement (.collMax a0 a1 a2 a3) := fun _ _ _ _ _ => rfl
theorem collMin : ∀ a0 a1 a2 a3, Statement (.collMin a0 a1 a2 a3) := fun _ _ _ _ _ => rfl
theorem collGather : ∀ a0 a1 a2 a3, Statement (.collGather a0 a1 a2 a3) := fun _ _ _ _ _ => rfl
theorem collBcast : ∀ a0 a1 a2 a3, Statement (.collBcast a0 a1 a2 a3) := fun _ _ _ _ _ => rfl
theorem barInit : ∀ a0 a1, Statement (.barInit a0 a1) := fun _ _ _ => rfl
theorem barArvRlx : ∀ a0 a1, Statement (.barArvRlx a0 a1) := fun _ _ _ => rfl
theorem barArvRel : ∀ a0 a1, Statement (.barArvRel a0 a1) := fun _ _ _ => rfl
theorem barWait : ∀ a0 a1 a2, Statement (.barWait a0 a1 a2) := fun _ _ _ _ => rfl
theorem barArw : ∀ a0 a1, Statement (.barArw a0 a1) := fun _ _ _ => rfl
theorem barArvx : ∀ a0, Statement (.barArvx a0) := fun _ _ => rfl
theorem barQuery : ∀ a0 a1, Statement (.barQuery a0 a1) := fun _ _ _ => rfl
theorem plst : ∀ a0 a1 a2, Statement (.plst a0 a1 a2) := fun _ _ _ _ => rfl
theorem plamoAdd : ∀ a0 a1 a2, Statement (.plamoAdd a0 a1 a2) := fun _ _ _ _ => rfl
theorem plamoMax : ∀ a0 a1 a2, Statement (.plamoMax a0 a1 a2) := fun _ _ _ _ => rfl
theorem plamoCas : ∀ a0 a1 a2, Statement (.plamoCas a0 a1 a2) := fun _ _ _ _ => rfl
theorem plfence : Statement (.plfence) := fun _ => rfl
theorem plwait : Statement (.plwait) := fun _ => rfl
theorem plsync : ∀ a0, Statement (.plsync a0) := fun _ _ => rfl
theorem thnew : ∀ a0 a1 a2, Statement (.thnew a0 a1 a2) := fun _ _ _ _ => rfl
theorem thcopy : ∀ a0 a1, Statement (.thcopy a0 a1) := fun _ _ _ => rfl
theorem thdrop : ∀ a0, Statement (.thdrop a0) := fun _ _ => rfl
theorem thbind : ∀ a0 a1, Statement (.thbind a0 a1) := fun _ _ _ => rfl
theorem tver : ∀ a0 a1, Statement (.tver a0 a1) := fun _ _ _ => rfl
theorem thinfo : ∀ a0 a1 a2, Statement (.thinfo a0 a1 a2) := fun _ _ _ _ => rfl
theorem ckclr : ∀ a0, Statement (.ckclr a0) := fun _ _ => rfl
theorem ckrd : ∀ a0 a1, Statement (.ckrd a0 a1) := fun _ _ _ => rfl
theorem ckchk : ∀ a0, Statement (.ckchk a0) := fun _ _ => rfl
theorem ckadd : ∀ a0 a1, Statement (.ckadd a0 a1) := fun _ _ _ => rfl
theorem launch : ∀ a0 a1, Statement (.launch a0 a1) := fun _ _ _ => rfl
theorem gwait : ∀ a0 a1, Statement (.gwait a0 a1) := fun _ _ _ => rfl
theorem gquery : ∀ a0 a1, Statement (.gquery a0 a1) := fun _ _ _ => rfl
theorem rolesw : ∀ a0, Statement (.rolesw a0) := fun _ _ => rfl
theorem roleq : ∀ a0 a1, Statement (.roleq a0 a1) := fun _ _ _ => rfl
theorem evt : ∀ a0 a1, Statement (.evt a0 a1) := fun _ _ _ => rfl
theorem tarm : ∀ a0 a1 a2, Statement (.tarm a0 a1 a2) := fun _ _ _ _ => rfl
theorem tdisarm : ∀ a0 a1, Statement (.tdisarm a0 a1) := fun _ _ _ => rfl
theorem sopen : ∀ a0 a1 a2, Statement (.sopen a0 a1 a2) := fun _ _ _ _ => rfl
theorem sadd : ∀ a0 a1 a2, Statement (.sadd a0 a1 a2) := fun _ _ _ _ => rfl
theorem sclose : ∀ a0 a1, Statement (.sclose a0 a1) := fun _ _ _ => rfl
theorem dtlbi : ∀ a0 a1, Statement (.dtlbi a0 a1) := fun _ _ _ => rfl
theorem dtlbf : Statement (.dtlbf) := fun _ => rfl
theorem iadd : ∀ a0, Statement (.iadd a0) := fun _ _ => rfl
theorem isub : ∀ a0, Statement (.isub a0) := fun _ _ => rfl
theorem imul : ∀ a0, Statement (.imul a0) := fun _ _ => rfl
theorem imulh : ∀ a0, Statement (.imulh a0) := fun _ _ => rfl
theorem imad : ∀ a0, Statement (.imad a0) := fun _ _ => rfl
theorem imin : ∀ a0, Statement (.imin a0) := fun _ _ => rfl
theorem imax : ∀ a0, Statement (.imax a0) := fun _ _ => rfl
theorem iabs : ∀ a0, Statement (.iabs a0) := fun _ _ => rfl
theorem laneAnd : ∀ a0, Statement (.laneAnd a0) := fun _ _ => rfl
theorem laneOr : ∀ a0, Statement (.laneOr a0) := fun _ _ => rfl
theorem laneXor : ∀ a0, Statement (.laneXor a0) := fun _ _ => rfl
theorem blut : ∀ a0, Statement (.blut a0) := fun _ _ => rfl
theorem laneShl : ∀ a0, Statement (.laneShl a0) := fun _ _ => rfl
theorem laneShr : ∀ a0, Statement (.laneShr a0) := fun _ _ => rfl
theorem laneSar : ∀ a0, Statement (.laneSar a0) := fun _ _ => rfl
theorem laneRol : ∀ a0, Statement (.laneRol a0) := fun _ _ => rfl
theorem lanePopc : ∀ a0, Statement (.lanePopc a0) := fun _ _ => rfl
theorem laneClz : ∀ a0, Statement (.laneClz a0) := fun _ _ => rfl
theorem laneBrev : ∀ a0, Statement (.laneBrev a0) := fun _ _ => rfl
theorem bfe : ∀ a0, Statement (.bfe a0) := fun _ _ => rfl
theorem bfi : ∀ a0, Statement (.bfi a0) := fun _ _ => rfl
theorem isetp : ∀ a0, Statement (.isetp a0) := fun _ _ => rfl
theorem laneSel : ∀ a0, Statement (.laneSel a0) := fun _ _ => rfl
theorem mov : ∀ a0, Statement (.mov a0) := fun _ _ => rfl
theorem iadd64 : ∀ a0, Statement (.iadd64 a0) := fun _ _ => rfl
theorem imul64 : ∀ a0, Statement (.imul64 a0) := fun _ _ => rfl
theorem idiv : ∀ a0, Statement (.idiv a0) := fun _ _ => rfl
theorem irem : ∀ a0, Statement (.irem a0) := fun _ _ => rfl
theorem dot4 : ∀ a0, Statement (.dot4 a0) := fun _ _ => rfl
theorem bsel : ∀ a0, Statement (.bsel a0) := fun _ _ => rfl
theorem lea : ∀ a0, Statement (.lea a0) := fun _ _ => rfl
theorem fadd : ∀ a0, Statement (.fadd a0) := fun _ _ => rfl
theorem fsub : ∀ a0, Statement (.fsub a0) := fun _ _ => rfl
theorem fmul : ∀ a0, Statement (.fmul a0) := fun _ _ => rfl
theorem ffma : ∀ a0, Statement (.ffma a0) := fun _ _ => rfl
theorem fmin : ∀ a0, Statement (.fmin a0) := fun _ _ => rfl
theorem fmax : ∀ a0, Statement (.fmax a0) := fun _ _ => rfl
theorem fsetp : ∀ a0, Statement (.fsetp a0) := fun _ _ => rfl
theorem fclass : ∀ a0, Statement (.fclass a0) := fun _ _ => rfl
theorem frcp : ∀ a0, Statement (.frcp a0) := fun _ _ => rfl
theorem frsq : ∀ a0, Statement (.frsq a0) := fun _ _ => rfl
theorem fsqrt : ∀ a0, Statement (.fsqrt a0) := fun _ _ => rfl
theorem fexp2 : ∀ a0, Statement (.fexp2 a0) := fun _ _ => rfl
theorem flog2 : ∀ a0, Statement (.flog2 a0) := fun _ _ => rfl
theorem fsin : ∀ a0, Statement (.fsin a0) := fun _ _ => rfl
theorem fcos : ∀ a0, Statement (.fcos a0) := fun _ _ => rfl
theorem fdiv : ∀ a0, Statement (.fdiv a0) := fun _ _ => rfl
theorem pkadd : ∀ a0, Statement (.pkadd a0) := fun _ _ => rfl
theorem pkmul : ∀ a0, Statement (.pkmul a0) := fun _ _ => rfl
theorem pkfma : ∀ a0, Statement (.pkfma a0) := fun _ _ => rfl
theorem pkmnx : ∀ a0, Statement (.pkmnx a0) := fun _ _ => rfl
theorem fcvt : ∀ a0, Statement (.fcvt a0) := fun _ _ => rfl
theorem f2i : ∀ a0, Statement (.f2i a0) := fun _ _ => rfl
theorem i2f : ∀ a0, Statement (.i2f a0) := fun _ _ => rfl
theorem frnd : ∀ a0, Statement (.frnd a0) := fun _ _ => rfl
theorem fscale : ∀ a0, Statement (.fscale a0) := fun _ _ => rfl
theorem pack : ∀ a0, Statement (.pack a0) := fun _ _ => rfl
theorem unpack : ∀ a0, Statement (.unpack a0) := fun _ _ => rfl
theorem ld : ∀ a0, Statement (.ld a0) := fun _ _ => rfl
theorem st : ∀ a0, Statement (.st a0) := fun _ _ => rfl
theorem atom : ∀ a0, Statement (.atom a0) := fun _ _ => rfl
theorem atcas : ∀ a0, Statement (.atcas a0) := fun _ _ => rfl
theorem red : ∀ a0, Statement (.red a0) := fun _ _ => rfl
theorem fenceL : ∀ a0, Statement (.fenceL a0) := fun _ _ => rfl
theorem send : ∀ a0, Statement (.send a0) := fun _ _ => rfl
theorem recv : ∀ a0, Statement (.recv a0) := fun _ _ => rfl
theorem lsmap : ∀ a0, Statement (.lsmap a0) := fun _ _ => rfl
theorem shfl : ∀ a0, Statement (.shfl a0) := fun _ _ => rfl
theorem vote : ∀ a0, Statement (.vote a0) := fun _ _ => rfl
theorem ballot : ∀ a0, Statement (.ballot a0) := fun _ _ => rfl
theorem lmatch : ∀ a0, Statement (.lmatch a0) := fun _ _ => rfl
theorem redux : ∀ a0, Statement (.redux a0) := fun _ _ => rfl
theorem scan : ∀ a0, Statement (.scan a0) := fun _ _ => rfl
theorem lid : ∀ a0, Statement (.lid a0) := fun _ _ => rfl
theorem bra : ∀ a0, Statement (.bra a0) := fun _ _ => rfl
theorem regang : ∀ a0, Statement (.regang a0) := fun _ _ => rfl
theorem lend : ∀ a0, Statement (.lend a0) := fun _ _ => rfl
theorem fresume : ∀ a0, Statement (.fresume a0) := fun _ _ => rfl
theorem lnop : ∀ a0, Statement (.lnop a0) := fun _ _ => rfl
theorem evtl : ∀ a0, Statement (.evtl a0) := fun _ _ => rfl
theorem ckacc : ∀ a0, Statement (.ckacc a0) := fun _ _ => rfl
theorem ltrap : ∀ a0, Statement (.ltrap a0) := fun _ _ => rfl
theorem accld : ∀ a0, Statement (.accld a0) := fun _ _ => rfl
theorem accst : ∀ a0, Statement (.accst a0) := fun _ _ => rfl
theorem scalarResultWrite : ∀ a0 a1, Statement (.scalarResultWrite a0 a1) := fun _ _ _ => rfl
theorem laneResultWrite : ∀ a0 a1, Statement (.laneResultWrite a0 a1) := fun _ _ _ => rfl
theorem holdParkComplete : ∀ a0, Statement (.holdParkComplete a0) := fun _ _ => rfl
theorem laneHoldComplete : ∀ a0, Statement (.laneHoldComplete a0) := fun _ _ => rfl
theorem trapEntry : ∀ a0, Statement (.trapEntry a0) := fun _ _ => rfl
theorem laneTrapEntry : ∀ a0, Statement (.laneTrapEntry a0) := fun _ _ => rfl
theorem asyncCauseTaken : ∀ a0, Statement (.asyncCauseTaken a0) := fun _ _ => rfl
theorem walkComplete : ∀ a0, Statement (.walkComplete a0) := fun _ _ => rfl
theorem heldPteReread : ∀ a0, Statement (.heldPteReread a0) := fun _ _ => rfl
theorem heldPteTimeout : ∀ a0, Statement (.heldPteTimeout a0) := fun _ _ => rfl
theorem firstTouch : ∀ a0, Statement (.firstTouch a0) := fun _ _ => rfl
theorem regangRelease : ∀ a0, Statement (.regangRelease a0) := fun _ _ => rfl
theorem blockAppend : ∀ a0, Statement (.blockAppend a0) := fun _ _ => rfl
theorem blockStart : ∀ a0, Statement (.blockStart a0) := fun _ _ => rfl
theorem blockEnd : ∀ a0, Statement (.blockEnd a0) := fun _ _ => rfl
theorem lwaitComplete : ∀ a0, Statement (.lwaitComplete a0) := fun _ _ => rfl
theorem laneStateWaitEnd : ∀ a0, Statement (.laneStateWaitEnd a0) := fun _ _ => rfl
theorem groupRetire : ∀ a0, Statement (.groupRetire a0) := fun _ _ => rfl
theorem sleepEnd : ∀ a0, Statement (.sleepEnd a0) := fun _ _ => rfl
theorem fenceParkComplete : ∀ a0 a1, Statement (.fenceParkComplete a0 a1) := fun _ _ _ => rfl
theorem haltStop : ∀ a0, Statement (.haltStop a0) := fun _ _ => rfl
theorem roleswComplete : ∀ a0, Statement (.roleswComplete a0) := fun _ _ => rfl
theorem idembSnapshot : ∀ a0, Statement (.idembSnapshot a0) := fun _ _ => rfl
theorem idemeComplete : ∀ a0, Statement (.idemeComplete a0) := fun _ _ => rfl
theorem storeQueueDrain : ∀ a0, Statement (.storeQueueDrain a0) := fun _ _ => rfl
theorem scAccessComplete : ∀ a0 a1, Statement (.scAccessComplete a0 a1) := fun _ _ _ => rfl
theorem homeRequest : ∀ a0 a1, Statement (.homeRequest a0 a1) := fun _ _ _ => rfl
theorem nearCacheReplacement : ∀ a0 a1, Statement (.nearCacheReplacement a0 a1) := fun _ _ _ => rfl
theorem sendSlotWrite : ∀ a0, Statement (.sendSlotWrite a0) := fun _ _ => rfl
theorem recvDelivery : ∀ a0, Statement (.recvDelivery a0) := fun _ _ => rfl
theorem barWaitRelease : ∀ a0, Statement (.barWaitRelease a0) := fun _ _ => rfl
theorem barArvxAcknowledge : ∀ a0, Statement (.barArvxAcknowledge a0) := fun _ _ => rfl
theorem rendezvous : ∀ a0 a1, Statement (.rendezvous a0 a1) := fun _ _ _ => rfl
theorem latchTimeout : ∀ a0 a1, Statement (.latchTimeout a0 a1) := fun _ _ _ => rfl
theorem mmaAccept : ∀ a0, Statement (.mmaAccept a0) := fun _ _ => rfl
theorem mmaPartComplete : ∀ a0, Statement (.mmaPartComplete a0) := fun _ _ => rfl
theorem mwaitComplete : ∀ a0, Statement (.mwaitComplete a0) := fun _ _ => rfl
theorem copyStart : ∀ a0, Statement (.copyStart a0) := fun _ _ => rfl
theorem copyDone : ∀ a0, Statement (.copyDone a0) := fun _ _ => rfl
theorem cpywComplete : ∀ a0, Statement (.cpywComplete a0) := fun _ _ => rfl
theorem yieldcContinuation : ∀ a0, Statement (.yieldcContinuation a0) := fun _ _ => rfl
theorem collectiveComplete : ∀ a0, Statement (.collectiveComplete a0) := fun _ _ => rfl
theorem collectiveTimeout : ∀ a0, Statement (.collectiveTimeout a0) := fun _ _ => rfl
theorem teamPlacement : ∀ a0, Statement (.teamPlacement a0) := fun _ _ => rfl
theorem waitClockExpiry : ∀ a0, Statement (.waitClockExpiry a0) := fun _ _ => rfl
theorem gridComplete : ∀ a0, Statement (.gridComplete a0) := fun _ _ => rfl
theorem gwaitComplete : ∀ a0, Statement (.gwaitComplete a0) := fun _ _ => rfl
theorem thReturnApply : ∀ a0, Statement (.thReturnApply a0) := fun _ _ => rfl
theorem tensorUnitAnswer : ∀ a0, Statement (.tensorUnitAnswer a0) := fun _ _ => rfl
theorem tarmAnswer : ∀ a0, Statement (.tarmAnswer a0) := fun _ _ => rfl
theorem plumbSlot : ∀ a0, Statement (.plumbSlot a0) := fun _ _ => rfl
theorem plwaitComplete : ∀ a0, Statement (.plwaitComplete a0) := fun _ _ => rfl
theorem plsyncComplete : ∀ a0, Statement (.plsyncComplete a0) := fun _ _ => rfl
theorem frameBoundary : ∀ a0, Statement (.frameBoundary a0) := fun _ _ => rfl
theorem snapshotInstall : ∀ a0, Statement (.snapshotInstall a0) := fun _ _ => rfl
theorem sliceExpiry : ∀ a0 a1, Statement (.sliceExpiry a0 a1) := fun _ _ _ => rfl
theorem groupRestore : ∀ a0, Statement (.groupRestore a0) := fun _ _ => rfl
theorem uncorrectableError : ∀ a0, Statement (.uncorrectableError a0) := fun _ _ => rfl
theorem grazerVisit : ∀ a0, Statement (.grazerVisit a0) := fun _ _ => rfl
theorem grazerRetry : ∀ a0, Statement (.grazerRetry a0) := fun _ _ => rfl
theorem deferredFaultReport : ∀ a0, Statement (.deferredFaultReport a0) := fun _ _ => rfl
theorem resume : ∀ a0 a1, Statement (.resume a0 a1) := fun _ _ _ => rfl
theorem discard : ∀ a0 a1, Statement (.discard a0 a1) := fun _ _ _ => rfl
theorem fatal : ∀ a0 a1, Statement (.fatal a0 a1) := fun _ _ _ => rfl
theorem stop : ∀ a0 a1, Statement (.stop a0 a1) := fun _ _ _ => rfl
theorem evict : ∀ a0 a1, Statement (.evict a0 a1) := fun _ _ _ => rfl
theorem ctxend : ∀ a0, Statement (.ctxend a0) := fun _ _ => rfl
theorem cbudWrite : ∀ a0 a1 a2, Statement (.cbudWrite a0 a1 a2) := fun _ _ _ _ => rfl
theorem ftfill8k : ∀ a0 a1, Statement (.ftfill8k a0 a1) := fun _ _ _ => rfl
theorem ftfill8m : ∀ a0 a1, Statement (.ftfill8m a0 a1) := fun _ _ _ => rfl
theorem ftrsvfill : ∀ a0 a1, Statement (.ftrsvfill a0 a1) := fun _ _ _ => rfl
theorem ftstatClear : ∀ a0 a1, Statement (.ftstatClear a0 a1) := fun _ _ _ => rfl
theorem tustatClear : ∀ a0 a1, Statement (.tustatClear a0 a1) := fun _ _ _ => rfl
theorem plsatWrite : ∀ a0 a1 a2, Statement (.plsatWrite a0 a1 a2) := fun _ _ _ _ => rfl
theorem plpgWrite : ∀ a0 a1 a2, Statement (.plpgWrite a0 a1 a2) := fun _ _ _ _ => rfl
theorem registerWrite : ∀ a0 a1, Statement (.registerWrite a0 a1) := fun _ _ _ => rfl
theorem start : ∀ a0 a1, Statement (.start a0 a1) := fun _ _ _ => rfl
theorem hostPostedWrite : ∀ a0 a1 a2, Statement (.hostPostedWrite a0 a1 a2) := fun _ _ _ _ => rfl
theorem hostRead : ∀ a0 a1 a2, Statement (.hostRead a0 a1 a2) := fun _ _ _ _ => rfl
theorem fabricIngress : ∀ a0, Statement (.fabricIngress a0) := fun _ _ => rfl
theorem linkKeyRotation : Statement (.linkKeyRotation) := fun _ => rfl
theorem endToEndRetry : ∀ a0, Statement (.endToEndRetry a0) := fun _ _ => rfl
theorem translationFetch : ∀ a0, Statement (.translationFetch a0) := fun _ _ => rfl
theorem invalidation : ∀ a0 a1, Statement (.invalidation a0 a1) := fun _ _ _ => rfl
theorem invalidationTimeout : ∀ a0, Statement (.invalidationTimeout a0) := fun _ _ => rfl
theorem migration : ∀ a0 a1, Statement (.migration a0 a1) := fun _ _ _ => rfl
theorem migrationConfirmation : ∀ a0, Statement (.migrationConfirmation a0) := fun _ _ => rfl
theorem scloseComplete : ∀ a0, Statement (.scloseComplete a0) := fun _ _ => rfl
theorem eventStep : ∀ a0, Statement (.eventStep a0) := fun _ _ => rfl
theorem timer : ∀ a0 a1 a2, Statement (.timer a0 a1 a2) := fun _ _ _ _ => rfl
theorem watermark : ∀ a0 a1, Statement (.watermark a0 a1) := fun _ _ _ => rfl
theorem overflow : ∀ a0 a1, Statement (.overflow a0 a1) := fun _ _ _ => rfl
theorem counterCorrection : ∀ a0 a1, Statement (.counterCorrection a0 a1) := fun _ _ _ => rfl
theorem dieSleep : ∀ a0, Statement (.dieSleep a0) := fun _ _ => rfl
theorem dieWake : ∀ a0, Statement (.dieWake a0) := fun _ _ => rfl
theorem referenceLoss : Statement (.referenceLoss) := fun _ => rfl
theorem referenceReturn : Statement (.referenceReturn) := fun _ => rfl
theorem holdoverExpiry : Statement (.holdoverExpiry) := fun _ => rfl
theorem fatalModuleError : ∀ a0, Statement (.fatalModuleError a0) := fun _ _ => rfl
theorem moduleReset : Statement (.moduleReset) := fun _ => rfl
theorem phaseChange : Statement (.phaseChange) := fun _ => rfl
theorem fullService : Statement (.fullService) := fun _ => rfl
theorem worldAssignment : ∀ a0 a1, Statement (.worldAssignment a0 a1) := fun _ _ _ => rfl
theorem spdmRequest : ∀ a0, Statement (.spdmRequest a0) := fun _ _ => rfl
theorem dumpRead : ∀ a0, Statement (.dumpRead a0) := fun _ _ => rfl
theorem contextCreation : ∀ a0, Statement (.contextCreation a0) := fun _ _ => rfl
theorem linkDeath : ∀ a0, Statement (.linkDeath a0) := fun _ _ => rfl
theorem outboundAcknowledgement : ∀ a0, Statement (.outboundAcknowledgement a0) := fun _ _ => rfl

end Sys2Proof.Laws.Words
end

