-- ==== Sys2Proof/Laws/Words.lean ====
section
/-! SUPPORT. The courses that words share, each said once: the register words of the scalar stream and the lane words. -/

namespace Sys2Proof.Machine

open Sys2Proof

-- Scalar words.

theorem scalarWord_runs {i : Instr} {sup : Bool} {regs : List Nat} {body : State → Group → Bool → State} {s : State} {c : Cur}
    {g : Group} (hi : s.issuer = some (c, g)) (hl : s.legal i = true) (hs : sup = true → g.sc.sup = true)
    (hp : ∀ r ∈ regs, g.pending r = false) : scalarWord i sup regs body s = .next (body s g c.hold) := by
  refine scalarWordIf_runs hi hl ?_ hp
  cases sup with
  | false => rfl
  | true => simp [hs rfl]

/-- A word of two registers of the immediate class. -/
theorem aluNow_runs {i : Instr} {d a b : BitVec 6} {f : Word → Word → Word} {s : State} {c : Cur} {g : Group}
    (hi : s.issuer = some (c, g)) (hl : s.legal i = true) (hp : ∀ r ∈ [d.toNat, a.toNat, b.toNat], g.pending r = false) :
    aluNow i d a b f s = .next (s.writeNow g c.hold (sReg d) (f (g.getS a) (g.getS b))) :=
  scalarWord_runs hi hl (fun h => by cases h) hp

/-- A word of two registers of the deferred class. -/
theorem aluLater_runs {i : Instr} {d a b : BitVec 6} {f : Word → Word → Word} {s : State} {c : Cur} {g : Group}
    (hi : s.issuer = some (c, g)) (hl : s.legal i = true) (hp : ∀ r ∈ [d.toNat, a.toNat, b.toNat], g.pending r = false) :
    aluLater i d a b f s = .next (s.writeLater g c.hold (sReg d) (f (g.getS a) (g.getS b))) :=
  scalarWord_runs hi hl (fun h => by cases h) hp

/-- A word of one register of the immediate class. -/
theorem unaryNow_runs {i : Instr} {d a : BitVec 6} {f : Word → Word} {s : State} {c : Cur} {g : Group}
    (hi : s.issuer = some (c, g)) (hl : s.legal i = true) (hp : ∀ r ∈ [d.toNat, a.toNat], g.pending r = false) :
    unaryNow i d a f s = .next (s.writeNow g c.hold (sReg d) (f (g.getS a))) :=
  scalarWord_runs hi hl (fun h => by cases h) hp

/-- A word of condition registers. -/
theorem copNow_runs {i : Instr} {d : BitVec 3} {regs : List Nat} {f : Group → Bool} {s : State} {c : Cur} {g : Group}
    (hi : s.issuer = some (c, g)) (hl : s.legal i = true) (hp : ∀ r ∈ cReg d :: regs, g.pending r = false) :
    copNow i d regs f s = .next (s.writeNow g c.hold (cReg d) (flagWord (f g))) :=
  scalarWord_runs hi hl (fun h => by cases h) hp

/-- A register number names the s register or the c register. -/
theorem Group.setReg_s (g : Group) (d : BitVec 6) (x : Word) : g.setReg (sReg d) x = g.setS d x := by
  unfold Group.setReg sReg
  rw [if_pos d.isLt, BitVec.ofNat_toNat, BitVec.setWidth_eq]

theorem Group.setReg_c (g : Group) (d : BitVec 3) (x : Word) : g.setReg (cReg d) x = g.setC d (x != 0) := by
  unfold Group.setReg cReg
  rw [if_neg (by omega), show 64 + d.toNat - 64 = d.toNat by omega, BitVec.ofNat_toNat, BitVec.setWidth_eq]

-- Lane words (R72).

/-- A lane word that meets every check has its own effect. -/
theorem laneWord_runs {i : Instr} {body : State → LaneOp → State} {s : State} {c : Cur} {g : Group} {w : LaneW} {p : LaneSpec}
    (hi : s.issuer = some (c, g)) (hp : laneSpec i = some (w, p)) (hl : s.legal i = true)
    (ha : beyondAllotment g.role.vregs (positions p w) = none) (hh : g.ln.firstPending c.sup (positions p w) = none)
    (hb : LaneOp.firstBad ⟨c, g, w, lanesOf (selected c g.ln w)⟩ p = none)
    (ho : LaneOp.oneBad ⟨c, g, w, lanesOf (selected c g.ln w)⟩ p = []) :
    laneWord i body s = .next (body s ⟨c, g, w, lanesOf (selected c g.ln w)⟩) := by
  unfold laneWord laneWordIf
  simp only [hi, hp, hl, if_true, ha, hh, hb, ho, List.isEmpty_nil]

/-- A lane word that the service or its fields do not admit raises ILLEGAL. -/
theorem laneWord_illegal {i : Instr} {body : State → LaneOp → State} {s : State} {c : Cur} {g : Group} {w : LaneW}
    {p : LaneSpec} (hi : s.issuer = some (c, g)) (hp : laneSpec i = some (w, p)) (hl : s.legal i = false) :
    laneWord i body s =
      .next (s.laneTrap ⟨c, g, w, lanesOf (selected c g.ln w)⟩ 0x01 (laneIllegal c.hold i)) := by
  unfold laneWord laneWordIf
  simp only [hi, hp, hl, Bool.false_eq_true, if_false]

/-- A lane word that names a register beyond the allotment raises ALLOT. -/
theorem laneWord_allot {i : Instr} {body : State → LaneOp → State} {s : State} {c : Cur} {g : Group} {w : LaneW}
    {p : LaneSpec} {f : Nat} (hi : s.issuer = some (c, g)) (hp : laneSpec i = some (w, p)) (hl : s.legal i = true)
    (ha : beyondAllotment g.role.vregs (positions p w) = some f) :
    laneWord i body s = .next (s.laneTrap ⟨c, g, w, lanesOf (selected c g.ln w)⟩ 0x04 (word f)) := by
  unfold laneWord laneWordIf
  simp only [hi, hp, hl, if_true, ha]

/-- A lane word that names a pending register raises HOLDV. -/
theorem laneWord_holdv {i : Instr} {body : State → LaneOp → State} {s : State} {c : Cur} {g : Group} {w : LaneW}
    {p : LaneSpec} {f : Nat} (hi : s.issuer = some (c, g)) (hp : laneSpec i = some (w, p)) (hl : s.legal i = true)
    (ha : beyondAllotment g.role.vregs (positions p w) = none) (hh : g.ln.firstPending c.sup (positions p w) = some f) :
    laneWord i body s = .next (s.laneTrap ⟨c, g, w, lanesOf (selected c g.ln w)⟩ 0x02 (word f)) := by
  unfold laneWord laneWordIf
  simp only [hi, hp, hl, if_true, ha, hh]

/-- A lane word never refuses. -/
theorem laneWord_cases (i : Instr) (body : State → LaneOp → State) (s : State) :
    (∃ t, laneWord i body s = .next t) ∨ laneWord i body s = .fault .noIssuer := by
  unfold laneWord laneWordIf
  split
  · dsimp only
    split
    · exact .inl ⟨_, rfl⟩
    · split
      · exact .inl ⟨_, rfl⟩
      · split
        · exact .inl ⟨_, rfl⟩
        · split
          · exact .inl ⟨_, rfl⟩
          · split <;> exact .inl ⟨_, rfl⟩
  · exact .inr rfl

-- Lane registers (R355).

/-- A write of a lane register keeps both lane files canonical. -/
theorem Lanes.writeV_wf {l : Lanes} (hv : cellsWf l.v = true) (hh : cellsWf l.hv = true) (sup : Bool) (r lane : Nat) (x : W32) :
    cellsWf (l.writeV sup r lane x).v = true ∧ cellsWf (l.writeV sup r lane x).hv = true := by
  unfold Lanes.writeV
  dsimp only
  split
  · exact ⟨hv, cellsWf_cellSet hh _ _⟩
  · exact ⟨cellsWf_cellSet hv _ _, hh⟩

theorem Lanes.writeWide_wf {l : Lanes} (hv : cellsWf l.v = true) (hh : cellsWf l.hv = true) (sup : Bool) (r lane : Nat)
    (x : BitVec 128) (n : Nat) :
    cellsWf (l.writeWide sup r lane x n).v = true ∧ cellsWf (l.writeWide sup r lane x n).hv = true := by
  induction n generalizing l r x with
  | zero => exact ⟨hv, hh⟩
  | succ k ih =>
    have h := Lanes.writeV_wf hv hh sup r lane (x.setWidth 32)
    exact ih h.1 h.2 (r + 1) (x >>> 32)

/-- What a lane register reads after a write of one lane of a register. -/
theorem Lanes.readV_writeV {l : Lanes} (hv : cellsWf l.v = true) (hh : cellsWf l.hv = true) (sup sup' : Bool)
    (r r' lane lane' : Nat) (hl : lane < 32) (hl' : lane' < 32) (x : W32) :
    (l.writeV sup r lane x).readV sup' r' lane' =
      if namesHandler sup' r' = namesHandler sup r ∧ r' = r ∧ lane' = lane then x else l.readV sup' r' lane' := by
  have hk : laneKey r' lane' = laneKey r lane ↔ r' = r ∧ lane' = lane := by
    unfold laneKey
    omega
  unfold Lanes.writeV Lanes.readV
  cases h1 : namesHandler sup r <;> cases h2 : namesHandler sup' r' <;>
    simp [cellGet_cellSet hv, cellGet_cellSet hh, hk]

end Sys2Proof.Machine
end

