-- ==== Sys2Proof/Tests/Slice0.lean ====
section
/-! SUPPORT. The model's own tests. Words are written out from the encodings of spec/03 and spec/21 (R55 to R71, R241), the ill-formed
terms from the checks of R57, R60 and R63 to R70, and what a word does from the rule that its comment names. A `witness` shows that
the hypotheses of the statement it names can be met together. -/

set_option Elab.async false

namespace Sys2Proof.Tests

open Sys2Proof Sys2Proof.Machine

-- Words and the instructions they stand for.

theorem test_decode_alu :
    decodeScalar 0b0_000000_000011_000101_000110_0000000 = .ok (.add 3 5 6) ∧
    decodeScalar 0b1_000000_000011_000101_000110_0000001 = .ok (.sub 3 5 6) ∧
    decodeScalar 0b0_000000_000011_000101_000110_0000010 = .ok (.and 3 5 6) ∧
    decodeScalar 0b1_000000_000011_000101_000110_0000011 = .ok (.or 3 5 6) ∧
    decodeScalar 0b0_000000_000011_000101_000110_0000100 = .ok (.xor 3 5 6) ∧
    decodeScalar 0b1_000000_000011_000101_000110_0000101 = .ok (.andn 3 5 6) ∧
    decodeScalar 0b0_000000_000011_000101_000110_0000110 = .ok (.shl 3 5 6) ∧
    decodeScalar 0b1_000000_000011_000101_000110_0000111 = .ok (.shr 3 5 6) ∧
    decodeScalar 0b0_000000_000011_000101_000110_0001000 = .ok (.sar 3 5 6) ∧
    decodeScalar 0b1_000000_000011_000101_000110_0001001 = .ok (.rol 3 5 6) ∧
    decodeScalar 0b0_000000_000011_000101_000110_0001010 = .ok (.min 3 5 6) ∧
    decodeScalar 0b1_000000_000011_000101_000110_0001011 = .ok (.max 3 5 6) ∧
    decodeScalar 0b0_000000_000011_000101_000110_0001100 = .ok (.minn 3 5 6) ∧
    decodeScalar 0b1_000000_000011_000101_000110_0001101 = .ok (.maxn 3 5 6) ∧
    decodeScalar 0b0_000000_000011_000101_000110_0010000 = .ok (.mul 3 5 6) ∧
    decodeScalar 0b1_000000_000011_000101_000110_0010001 = .ok (.mulh 3 5 6) ∧
    decodeScalar 0b0_000000_000011_000101_000110_0010010 = .ok (.mulhn 3 5 6) ∧
    decodeScalar 0b1_000000_000011_000101_000110_0010011 = .ok (.div 3 5 6) ∧
    decodeScalar 0b0_000000_000011_000101_000110_0010100 = .ok (.divn 3 5 6) ∧
    decodeScalar 0b1_000000_000011_000101_000110_0010101 = .ok (.rem 3 5 6) ∧
    decodeScalar 0b0_000000_000011_000101_000110_0010110 = .ok (.remn 3 5 6) ∧
    decodeScalar 0b1_000000_000011_000101_0000000011000 = .ok (.clz 3 5) ∧
    decodeScalar 0b0_000000_000011_000101_0000000011001 = .ok (.ctz 3 5) ∧
    decodeScalar 0b1_000000_000011_000101_0000000011010 = .ok (.popc 3 5) ∧
    decodeScalar 0b0_000000_000011_000101_0000000011011 = .ok (.brev 3 5) :=
  ⟨rfl, rfl, rfl, rfl, rfl, rfl, rfl, rfl, rfl, rfl, rfl, rfl, rfl, rfl, rfl, rfl, rfl, rfl, rfl, rfl, rfl, rfl, rfl, rfl, rfl⟩

theorem test_decode_cmp :
    decodeScalar 0b1_000001_000000_000101_000110_0010_100 = .ok (.cmp 5 6 2 4) :=
  rfl

theorem test_decode_addi :
    decodeScalar 0b0_000010_000011_000101_1000000000110 = .ok (.addi 3 5 4102) :=
  rfl

theorem test_decode_andi :
    decodeScalar 0b1_000011_000011_000101_1000000000110 = .ok (.andi 3 5 4102) :=
  rfl

theorem test_decode_ori :
    decodeScalar 0b0_000100_000011_000101_1000000000110 = .ok (.ori 3 5 4102) :=
  rfl

theorem test_decode_xori :
    decodeScalar 0b1_000101_000011_000101_1000000000110 = .ok (.xori 3 5 4102) :=
  rfl

theorem test_decode_shi :
    decodeScalar 0b0_000110_000011_000101_0000000_000011 = .ok (.shli 3 5 3) ∧
    decodeScalar 0b1_000110_000011_000101_0000001_000011 = .ok (.shri 3 5 3) ∧
    decodeScalar 0b0_000110_000011_000101_0000010_000011 = .ok (.sari 3 5 3) ∧
    decodeScalar 0b1_000110_000011_000101_0000011_000011 = .ok (.roli 3 5 3) :=
  ⟨rfl, rfl, rfl, rfl⟩

theorem test_decode_cmpi :
    decodeScalar 0b0_000111_010_100_000101_1000000000110 = .ok (.cmpi 2 4 5 4102) :=
  rfl

theorem test_decode_muli :
    decodeScalar 0b1_001000_000011_000101_1000000000110 = .ok (.muli 3 5 4102) :=
  rfl

theorem test_decode_lui :
    decodeScalar 0b0_001001_000011_1000000000000000110 = .ok (.lui 3 262150) :=
  rfl

theorem test_decode_addpc :
    decodeScalar 0b1_001010_000011_1000000000000000110 = .ok (.addpc 3 262150) :=
  rfl

theorem test_decode_sel :
    decodeScalar 0b0_001011_000011_000101_000110_000_1_100 = .ok (.sel 3 5 6 true 4) :=
  rfl

theorem test_decode_cop :
    decodeScalar 0b1_001100_000_011_000101_0000000000000 = .ok (.cset 3 5) ∧
    decodeScalar 0b0_001100_000_011_000_101_000_110_0001000 = .ok (.cand 3 5 6) ∧
    decodeScalar 0b1_001100_000_011_000_101_000_110_0010000 = .ok (.cor 3 5 6) ∧
    decodeScalar 0b0_001100_000_011_000_101_000_110_0011000 = .ok (.cxor 3 5 6) ∧
    decodeScalar 0b1_001100_000_011_000_101_0000000100000 = .ok (.cnot 3 5) ∧
    decodeScalar 0b0_001100_000011_000_101_0000000101000 = .ok (.movc 3 5) :=
  ⟨rfl, rfl, rfl, rfl, rfl, rfl⟩

theorem test_decode_br :
    decodeScalar 0b1_010000_100_1_00_1000000000000000110 = .ok (.br 4 true 262150) :=
  rfl

theorem test_decode_jmp :
    decodeScalar 0b0_010001_000011_1000000000000000110 = .ok (.jmp 3 262150) :=
  rfl

theorem test_decode_jr :
    decodeScalar 0b1_010010_000011_000101_1000000000110 = .ok (.jr 3 5 4102) :=
  rfl

theorem test_decode_sys :
    decodeScalar 0b0_010011_0000000000000000000000000 = .ok .nop ∧
    decodeScalar 0b1_010011_0000000000000000000000001 = .ok .exit ∧
    decodeScalar 0b0_010011_0000000000000000000000010 = .ok .yield ∧
    decodeScalar 0b1_010011_0000000000000000000000011 = .ok .bkpt ∧
    decodeScalar 0b0_010011_000000_000101_0000000000100 = .ok (.trap 5) ∧
    decodeScalar 0b1_010011_0000000000000000000000101 = .ok .tret ∧
    decodeScalar 0b0_010011_0000000000000000000000110 = .ok .idemb ∧
    decodeScalar 0b1_010011_0000000000000000000000111 = .ok .ideme ∧
    decodeScalar 0b0_010011_0000000000000000000001000 = .ok .halt ∧
    decodeScalar 0b1_010011_0000000000000000000001001 = .ok .sleep :=
  ⟨rfl, rfl, rfl, rfl, rfl, rfl, rfl, rfl, rfl, rfl⟩

theorem test_decode_ld :
    decodeScalar 0b0_010100_000011_000101_000_1000000110 = .ok (.ldb 3 5 518) ∧
    decodeScalar 0b1_010100_000011_000101_001_1000000110 = .ok (.ldh 3 5 518) ∧
    decodeScalar 0b0_010100_000011_000101_010_1000000110 = .ok (.ldw 3 5 518) ∧
    decodeScalar 0b1_010100_000011_000101_011_1000000110 = .ok (.ldd 3 5 518) ∧
    decodeScalar 0b0_010100_000011_000101_100_1000000110 = .ok (.ldbs 3 5 518) ∧
    decodeScalar 0b1_010100_000011_000101_101_1000000110 = .ok (.ldhs 3 5 518) ∧
    decodeScalar 0b0_010100_000011_000101_110_1000000110 = .ok (.ldws 3 5 518) :=
  ⟨rfl, rfl, rfl, rfl, rfl, rfl, rfl⟩

theorem test_decode_st :
    decodeScalar 0b1_010101_000011_000101_000_1000000110 = .ok (.stb 3 5 518) ∧
    decodeScalar 0b0_010101_000011_000101_001_1000000110 = .ok (.sth 3 5 518) ∧
    decodeScalar 0b1_010101_000011_000101_010_1000000110 = .ok (.stw 3 5 518) ∧
    decodeScalar 0b0_010101_000011_000101_011_1000000110 = .ok (.std 3 5 518) :=
  ⟨rfl, rfl, rfl, rfl⟩

theorem test_decode_ldq :
    decodeScalar 0b1_010110_000011_000101_000000_100_00_11 = .ok (.ldqRlx 3 5 4 3) ∧
    decodeScalar 0b0_010110_000011_000101_000000_100_01_11 = .ok (.ldqAcq 3 5 4 3) :=
  ⟨rfl, rfl⟩

theorem test_decode_stq :
    decodeScalar 0b1_010111_000000_000101_000110_100_00_11 = .ok (.stqRlx 5 6 4 3) ∧
    decodeScalar 0b0_010111_000000_000101_000110_100_01_11 = .ok (.stqRel 5 6 4 3) :=
  ⟨rfl, rfl⟩

theorem test_decode_amo :
    decodeScalar 0b1_011000_000011_000101_000110_00_1_0000 = .ok (.amoAdd 3 5 6 true) ∧
    decodeScalar 0b0_011000_000011_000101_000110_00_1_0001 = .ok (.amoAnd 3 5 6 true) ∧
    decodeScalar 0b1_011000_000011_000101_000110_00_1_0010 = .ok (.amoOr 3 5 6 true) ∧
    decodeScalar 0b0_011000_000011_000101_000110_00_1_0011 = .ok (.amoXor 3 5 6 true) ∧
    decodeScalar 0b1_011000_000011_000101_000110_00_1_0100 = .ok (.amoMin 3 5 6 true) ∧
    decodeScalar 0b0_011000_000011_000101_000110_00_1_0101 = .ok (.amoMax 3 5 6 true) ∧
    decodeScalar 0b1_011000_000011_000101_000110_00_1_0110 = .ok (.amoMinn 3 5 6 true) ∧
    decodeScalar 0b0_011000_000011_000101_000110_00_1_0111 = .ok (.amoMaxn 3 5 6 true) ∧
    decodeScalar 0b1_011000_000011_000101_000110_00_1_1000 = .ok (.amoSwap 3 5 6 true) :=
  ⟨rfl, rfl, rfl, rfl, rfl, rfl, rfl, rfl, rfl⟩

theorem test_decode_cas :
    decodeScalar 0b0_011001_000011_000101_000110_000000_1 = .ok (.cas 3 5 6 true) :=
  rfl

theorem test_decode_fence :
    decodeScalar 0b1_011010_0000000000000000000000_100 = .ok (.fenceAcq 4) ∧
    decodeScalar 0b0_011010_0000000000000000000001_100 = .ok (.fenceRel 4) ∧
    decodeScalar 0b1_011010_0000000000000000000010_100 = .ok (.fenceAcqrel 4) ∧
    decodeScalar 0b0_011010_0000000000000000000011_100 = .ok (.fenceSc 4) :=
  ⟨rfl, rfl, rfl, rfl⟩

theorem test_decode_ldsp :
    decodeScalar 0b1_011011_000011_000101_000_1000000110 = .ok (.ldspB 3 5 518) ∧
    decodeScalar 0b0_011011_000011_000101_001_1000000110 = .ok (.ldspH 3 5 518) ∧
    decodeScalar 0b1_011011_000011_000101_010_1000000110 = .ok (.ldspW 3 5 518) ∧
    decodeScalar 0b0_011011_000011_000101_011_1000000110 = .ok (.ldspD 3 5 518) ∧
    decodeScalar 0b1_011011_000011_000101_100_1000000110 = .ok (.ldspBs 3 5 518) ∧
    decodeScalar 0b0_011011_000011_000101_101_1000000110 = .ok (.ldspHs 3 5 518) ∧
    decodeScalar 0b1_011011_000011_000101_110_1000000110 = .ok (.ldspWs 3 5 518) :=
  ⟨rfl, rfl, rfl, rfl, rfl, rfl, rfl⟩

theorem test_decode_stsp :
    decodeScalar 0b0_011100_000011_000101_000_1000000110 = .ok (.stspB 3 5 518) ∧
    decodeScalar 0b1_011100_000011_000101_001_1000000110 = .ok (.stspH 3 5 518) ∧
    decodeScalar 0b0_011100_000011_000101_010_1000000110 = .ok (.stspW 3 5 518) ∧
    decodeScalar 0b1_011100_000011_000101_011_1000000110 = .ok (.stspD 3 5 518) :=
  ⟨rfl, rfl, rfl, rfl⟩

theorem test_decode_datum :
    decodeScalar 0b0_011101_000000_000101_00000000_011_00 = .ok (.datumSet 5 3) ∧
    decodeScalar 0b1_011101_00000000000000000000_011_01 = .ok (.datumClear 3) ∧
    decodeScalar 0b0_011101_000011_00000000000000_011_10 = .ok (.datumQuery 3 3) :=
  ⟨rfl, rfl, rfl⟩

theorem test_decode_getsr :
    decodeScalar 0b1_011110_000011_000000_1000000000110 = .ok (.getsr 3 4102) :=
  rfl

theorem test_decode_setsr :
    decodeScalar 0b0_011111_000000_000101_1000000000110 = .ok (.setsr 5 4102) :=
  rfl

theorem test_decode_lrun :
    decodeScalar 0b1_100000_000000_000101_1000000000110 = .ok (.lrun 5 4102) :=
  rfl

theorem test_decode_lwait :
    decodeScalar 0b0_100001_000000_000101_0000000000000 = .ok (.lwait 5) :=
  rfl

theorem test_decode_lget :
    decodeScalar 0b1_100010_000011_000000_00001001_00001 = .ok (.lget 3 9 1) :=
  rfl

theorem test_decode_lset :
    decodeScalar 0b0_100011_000000_000101_00001001_00001 = .ok (.lset 5 9 1) :=
  rfl

theorem test_decode_lmask :
    decodeScalar 0b1_100100_000011_0000000000000000_101 = .ok (.lmaskRead 3 5) ∧
    decodeScalar 0b0_100100_000000_000101_0000000001_101 = .ok (.lmaskWrite 5 5) :=
  ⟨rfl, rfl⟩

theorem test_decode_mma :
    decodeScalar 0b1_101000_000011_000101_000110_0000000 = .ok (.mma 3 5 6) :=
  rfl

theorem test_decode_mgang :
    decodeScalar 0b0_101001_000000_000101_0000000000000 = .ok (.mgang 5) :=
  rfl

theorem test_decode_mwait :
    decodeScalar 0b1_101010_000000_000101_0000000000000 = .ok (.mwait 5) :=
  rfl

theorem test_decode_acc :
    decodeScalar 0b0_101011_000000_000101_000110_0000000 = .ok (.accz 5 6) ∧
    decodeScalar 0b1_101011_000011_000101_000110_0000001 = .ok (.accv 3 5 6) :=
  ⟨rfl, rfl⟩

theorem test_decode_cpy :
    decodeScalar 0b0_101100_000011_000101_0000000_0_0_1_000 = .ok (.cpyG2s 3 5 false false true) ∧
    decodeScalar 0b1_101100_000011_000101_0000000_0_0_1_001 = .ok (.cpyS2g 3 5 false false true) ∧
    decodeScalar 0b0_101100_000011_000101_0000000_0_0_1_010 = .ok (.cpyGth 3 5 false false true) ∧
    decodeScalar 0b1_101100_000011_000101_0000000_0_0_1_011 = .ok (.cpySct 3 5 false false true) ∧
    decodeScalar 0b0_101100_000011_000101_0000000_0_0_1_100 = .ok (.cpyG2g 3 5 false false true) :=
  ⟨rfl, rfl, rfl, rfl, rfl⟩

theorem test_decode_cpyw :
    decodeScalar 0b1_101101_000011_000101_0000000000000 = .ok (.cpyw 3 5) ∧
    decodeScalar 0b0_101101_000011_000101_0000000000001 = .ok (.cpywPoll 3 5) :=
  ⟨rfl, rfl⟩

theorem test_decode_yieldc :
    decodeScalar 0b1_101110_000000_000101_1000000000110 = .ok (.yieldc 5 4102) :=
  rfl

theorem test_decode_coll :
    decodeScalar 0b0_101111_000011_000101_000000_1_100_000 = .ok (.collSum 3 5 true 4) ∧
    decodeScalar 0b1_101111_000011_000101_000000_1_100_001 = .ok (.collMax 3 5 true 4) ∧
    decodeScalar 0b0_101111_000011_000101_000000_1_100_010 = .ok (.collMin 3 5 true 4) ∧
    decodeScalar 0b1_101111_000011_000101_000000_1_100_011 = .ok (.collGather 3 5 true 4) ∧
    decodeScalar 0b0_101111_000011_000101_000000_1_100_100 = .ok (.collBcast 3 5 true 4) :=
  ⟨rfl, rfl, rfl, rfl, rfl⟩

theorem test_decode_bar :
    decodeScalar 0b1_110000_000000_000101_000110_0000000 = .ok (.barInit 5 6) ∧
    decodeScalar 0b0_110000_000011_000101_0000000000001 = .ok (.barArvRlx 3 5) ∧
    decodeScalar 0b1_110000_000011_000101_0000000000010 = .ok (.barArvRel 3 5) ∧
    decodeScalar 0b0_110000_000011_000101_000110_0000011 = .ok (.barWait 3 5 6) ∧
    decodeScalar 0b1_110000_000011_000101_0000000000100 = .ok (.barArw 3 5) ∧
    decodeScalar 0b0_110000_000000_000101_0000000000101 = .ok (.barArvx 5) ∧
    decodeScalar 0b1_110000_000011_000101_0000000000110 = .ok (.barQuery 3 5) :=
  ⟨rfl, rfl, rfl, rfl, rfl, rfl, rfl⟩

theorem test_decode_plumb :
    decodeScalar 0b0_110001_000011_000101_000110_0000000 = .ok (.plst 3 5 6) ∧
    decodeScalar 0b1_110001_000011_000101_000110_0000001 = .ok (.plamoAdd 3 5 6) ∧
    decodeScalar 0b0_110001_000011_000101_000110_0000010 = .ok (.plamoMax 3 5 6) ∧
    decodeScalar 0b1_110001_000011_000101_000110_0000011 = .ok (.plamoCas 3 5 6) ∧
    decodeScalar 0b0_110001_0000000000000000000000100 = .ok .plfence ∧
    decodeScalar 0b1_110001_0000000000000000000000101 = .ok .plwait ∧
    decodeScalar 0b0_110001_000011_0000000000000000110 = .ok (.plsync 3) :=
  ⟨rfl, rfl, rfl, rfl, rfl, rfl, rfl⟩

theorem test_decode_th :
    decodeScalar 0b1_110010_000011_000101_000110_0000000 = .ok (.thnew 3 5 6) ∧
    decodeScalar 0b0_110010_000011_000101_0000000000001 = .ok (.thcopy 3 5) ∧
    decodeScalar 0b1_110010_000000_000101_0000000000010 = .ok (.thdrop 5) ∧
    decodeScalar 0b0_110010_000000_000101_000110_0000011 = .ok (.thbind 5 6) ∧
    decodeScalar 0b1_110010_000011_000101_0000000000100 = .ok (.tver 3 5) ∧
    decodeScalar 0b0_110010_000011_000101_000110_0000101 = .ok (.thinfo 3 5 6) :=
  ⟨rfl, rfl, rfl, rfl, rfl, rfl⟩

theorem test_decode_ck :
    decodeScalar 0b1_110011_0000_10_0000000000000000000 = .ok (.ckclr 2) ∧
    decodeScalar 0b0_110011_000011_0000_10_0000000000001 = .ok (.ckrd 3 2) ∧
    decodeScalar 0b1_110011_000000_000101_0000000000010 = .ok (.ckchk 5) ∧
    decodeScalar 0b0_110011_0000_10_000101_0000000000011 = .ok (.ckadd 2 5) :=
  ⟨rfl, rfl, rfl, rfl⟩

theorem test_decode_grid :
    decodeScalar 0b1_110100_000011_000101_0000000000000 = .ok (.launch 3 5) ∧
    decodeScalar 0b0_110100_000011_000101_0000000000001 = .ok (.gwait 3 5) ∧
    decodeScalar 0b1_110100_000011_000101_0000000000010 = .ok (.gquery 3 5) :=
  ⟨rfl, rfl, rfl⟩

theorem test_decode_role :
    decodeScalar 0b0_110101_000000_000101_0000000000000 = .ok (.rolesw 5) ∧
    decodeScalar 0b1_110101_000011_000101_0000000000001 = .ok (.roleq 3 5) :=
  ⟨rfl, rfl⟩

theorem test_decode_evt :
    decodeScalar 0b0_110110_000000_000101_000110_0000000 = .ok (.evt 5 6) ∧
    decodeScalar 0b1_110110_000011_000101_000110_0000001 = .ok (.tarm 3 5 6) ∧
    decodeScalar 0b0_110110_000011_000101_0000000000010 = .ok (.tdisarm 3 5) :=
  ⟨rfl, rfl, rfl⟩

theorem test_decode_seal :
    decodeScalar 0b1_110111_000011_000101_000110_0000000 = .ok (.sopen 3 5 6) ∧
    decodeScalar 0b0_110111_000011_000101_000110_0000001 = .ok (.sadd 3 5 6) ∧
    decodeScalar 0b1_110111_000011_000101_0000000000010 = .ok (.sclose 3 5) :=
  ⟨rfl, rfl, rfl⟩

/-- A lane word from its three parcels, the highest first (R65). -/
def laneWordOf3 (p2 p1 p0 : W32) : Except DecodeError Instr := decodeLane (p2 ++ p1 ++ p0)

theorem test_decode_lane_integer_low :
    laneWordOf3 0b0_0_00000000_101_1_000000100_000001000
      0b000001100_000000000_000000_00000010 0x0 = .ok (.iadd ⟨false, 5, true, 4, 8, 12, 0, 0, 2, 0x0⟩) ∧
    laneWordOf3 0b0_0_00000001_101_1_000000100_000001000
      0b000001100_000000000_000000_00000010 0x0 = .ok (.isub ⟨false, 5, true, 4, 8, 12, 0, 0, 2, 0x0⟩) ∧
    laneWordOf3 0b0_0_00000010_101_1_000000100_000001000
      0b000001100_000000000_000000_00000000 0x0 = .ok (.imul ⟨false, 5, true, 4, 8, 12, 0, 0, 0, 0x0⟩) ∧
    laneWordOf3 0b0_0_00000011_101_1_000000100_000001000
      0b000001100_000000000_000000_00000001 0x0 = .ok (.imulh ⟨false, 5, true, 4, 8, 12, 0, 0, 1, 0x0⟩) ∧
    laneWordOf3 0b0_0_00000100_101_1_000000100_000001000
      0b000001100_000010000_000000_00000000 0x0 = .ok (.imad ⟨false, 5, true, 4, 8, 12, 16, 0, 0, 0x0⟩) ∧
    laneWordOf3 0b0_0_00000101_101_1_000000100_000001000
      0b000001100_000000000_000000_00000001 0x0 = .ok (.imin ⟨false, 5, true, 4, 8, 12, 0, 0, 1, 0x0⟩) ∧
    laneWordOf3 0b0_0_00000110_101_1_000000100_000001000
      0b000001100_000000000_000000_00000001 0x0 = .ok (.imax ⟨false, 5, true, 4, 8, 12, 0, 0, 1, 0x0⟩) ∧
    laneWordOf3 0b0_0_00000111_101_1_000000100_000001000
      0b000000000_000000000_000000_00000001 0x0 = .ok (.iabs ⟨false, 5, true, 4, 8, 0, 0, 0, 1, 0x0⟩) ∧
    laneWordOf3 0b0_0_00001000_101_1_000000100_000001000
      0b000001100_000000000_000000_00000000 0x0 = .ok (.laneAnd ⟨false, 5, true, 4, 8, 12, 0, 0, 0, 0x0⟩) ∧
    laneWordOf3 0b0_0_00001001_101_1_000000100_000001000
      0b000001100_000000000_000000_00000000 0x0 = .ok (.laneOr ⟨false, 5, true, 4, 8, 12, 0, 0, 0, 0x0⟩) ∧
    laneWordOf3 0b0_0_00001010_101_1_000000100_000001000
      0b000001100_000000000_000000_00000000 0x0 = .ok (.laneXor ⟨false, 5, true, 4, 8, 12, 0, 0, 0, 0x0⟩) ∧
    laneWordOf3 0b0_0_00001011_101_1_000000100_000001000
      0b000001100_000010000_000000_11001010 0x0 = .ok (.blut ⟨false, 5, true, 4, 8, 12, 16, 0, 202, 0x0⟩) ∧
    laneWordOf3 0b0_0_00001100_101_1_000000100_000001000
      0b000001100_000000000_000000_00000000 0x0 = .ok (.laneShl ⟨false, 5, true, 4, 8, 12, 0, 0, 0, 0x0⟩) ∧
    laneWordOf3 0b0_0_00001101_101_1_000000100_000001000
      0b000001100_000000000_000000_00000000 0x0 = .ok (.laneShr ⟨false, 5, true, 4, 8, 12, 0, 0, 0, 0x0⟩) ∧
    laneWordOf3 0b0_0_00001110_101_1_000000100_000001000
      0b000001100_000000000_000000_00000000 0x0 = .ok (.laneSar ⟨false, 5, true, 4, 8, 12, 0, 0, 0, 0x0⟩) ∧
    laneWordOf3 0b0_0_00001111_101_1_000000100_000001000
      0b000001100_000000000_000000_00000000 0x0 = .ok (.laneRol ⟨false, 5, true, 4, 8, 12, 0, 0, 0, 0x0⟩) :=
  ⟨rfl, rfl, rfl, rfl, rfl, rfl, rfl, rfl, rfl, rfl, rfl, rfl, rfl, rfl, rfl, rfl⟩

theorem test_decode_lane_integer_high :
    laneWordOf3 0b0_0_00010000_101_1_000000100_000001000
      0b000000000_000000000_000000_00000000 0x0 = .ok (.lanePopc ⟨false, 5, true, 4, 8, 0, 0, 0, 0, 0x0⟩) ∧
    laneWordOf3 0b0_0_00010001_101_1_000000100_000001000
      0b000000000_000000000_000000_00000000 0x0 = .ok (.laneClz ⟨false, 5, true, 4, 8, 0, 0, 0, 0, 0x0⟩) ∧
    laneWordOf3 0b0_0_00010010_101_1_000000100_000001000
      0b000000000_000000000_000000_00000000 0x0 = .ok (.laneBrev ⟨false, 5, true, 4, 8, 0, 0, 0, 0, 0x0⟩) ∧
    laneWordOf3 0b0_0_00010011_101_1_000000100_000001000
      0b000001100_000000000_000000_00000001 0x0 = .ok (.bfe ⟨false, 5, true, 4, 8, 12, 0, 0, 1, 0x0⟩) ∧
    laneWordOf3 0b0_0_00010100_101_1_000000100_000001000
      0b000001100_000010000_000000_00000000 0x0 = .ok (.bfi ⟨false, 5, true, 4, 8, 12, 16, 0, 0, 0x0⟩) ∧
    laneWordOf3 0b0_0_00010101_101_1_000000100_000001000
      0b000001100_000000000_011111_00000001 0x0 = .ok (.isetp ⟨false, 5, true, 4, 8, 12, 0, 31, 1, 0x0⟩) ∧
    laneWordOf3 0b0_0_00010110_101_1_000000100_000001000
      0b000001100_000000000_001111_00000000 0x0 = .ok (.laneSel ⟨false, 5, true, 4, 8, 12, 0, 15, 0, 0x0⟩) ∧
    laneWordOf3 0b0_0_00010111_101_1_000000100_000001000
      0b000000000_000000000_000000_00000000 0x0 = .ok (.mov ⟨false, 5, true, 4, 8, 0, 0, 0, 0, 0x0⟩) ∧
    laneWordOf3 0b0_0_00011000_101_1_000000100_000001000
      0b000001100_000000000_000000_00000000 0x0 = .ok (.iadd64 ⟨false, 5, true, 4, 8, 12, 0, 0, 0, 0x0⟩) ∧
    laneWordOf3 0b0_0_00011001_101_1_000000100_000001000
      0b000001100_000000000_000000_00000000 0x0 = .ok (.imul64 ⟨false, 5, true, 4, 8, 12, 0, 0, 0, 0x0⟩) ∧
    laneWordOf3 0b0_0_00011010_101_1_000000100_000001000
      0b000001100_000000000_000000_00000011 0x0 = .ok (.idiv ⟨false, 5, true, 4, 8, 12, 0, 0, 3, 0x0⟩) ∧
    laneWordOf3 0b0_0_00011011_101_1_000000100_000001000
      0b000001100_000000000_000000_00000011 0x0 = .ok (.irem ⟨false, 5, true, 4, 8, 12, 0, 0, 3, 0x0⟩) ∧
    laneWordOf3 0b0_0_00011100_101_1_000000100_000001000
      0b000001100_000010000_000000_00000111 0x0 = .ok (.dot4 ⟨false, 5, true, 4, 8, 12, 16, 0, 7, 0x0⟩) ∧
    laneWordOf3 0b0_0_00011101_101_1_000000100_000001000
      0b000001100_000010000_000000_00000000 0x0 = .ok (.bsel ⟨false, 5, true, 4, 8, 12, 16, 0, 0, 0x0⟩) ∧
    laneWordOf3 0b0_0_00011110_101_1_000000100_000001000
      0b000001100_000000000_000000_00001111 0x0 = .ok (.lea ⟨false, 5, true, 4, 8, 12, 0, 0, 15, 0x0⟩) :=
  ⟨rfl, rfl, rfl, rfl, rfl, rfl, rfl, rfl, rfl, rfl, rfl, rfl, rfl, rfl, rfl⟩

theorem test_decode_lane_float :
    laneWordOf3 0b0_0_00100000_101_1_000000100_000001000
      0b000001100_000000000_000000_00000011 0x0 = .ok (.fadd ⟨false, 5, true, 4, 8, 12, 0, 0, 3, 0x0⟩) ∧
    laneWordOf3 0b0_0_00100001_101_1_000000100_000001000
      0b000001100_000000000_000000_00000011 0x0 = .ok (.fsub ⟨false, 5, true, 4, 8, 12, 0, 0, 3, 0x0⟩) ∧
    laneWordOf3 0b0_0_00100010_101_1_000000100_000001000
      0b000001100_000000000_000000_00000011 0x0 = .ok (.fmul ⟨false, 5, true, 4, 8, 12, 0, 0, 3, 0x0⟩) ∧
    laneWordOf3 0b0_0_00100011_101_1_000000100_000001000
      0b000001100_000010000_000000_00000011 0x0 = .ok (.ffma ⟨false, 5, true, 4, 8, 12, 16, 0, 3, 0x0⟩) ∧
    laneWordOf3 0b0_0_00100100_101_1_000000100_000001000
      0b000001100_000000000_000000_00000000 0x0 = .ok (.fmin ⟨false, 5, true, 4, 8, 12, 0, 0, 0, 0x0⟩) ∧
    laneWordOf3 0b0_0_00100101_101_1_000000100_000001000
      0b000001100_000000000_000000_00000000 0x0 = .ok (.fmax ⟨false, 5, true, 4, 8, 12, 0, 0, 0, 0x0⟩) ∧
    laneWordOf3 0b0_0_00100110_101_1_000000100_000001000
      0b000001100_000000000_011111_00000000 0x0 = .ok (.fsetp ⟨false, 5, true, 4, 8, 12, 0, 31, 0, 0x0⟩) ∧
    laneWordOf3 0b0_0_00100111_101_1_000000100_000001000
      0b000000000_000000000_000000_00000000 0x0 = .ok (.fclass ⟨false, 5, true, 4, 8, 0, 0, 0, 0, 0x0⟩) ∧
    laneWordOf3 0b0_0_00101000_101_1_000000100_000001000
      0b000000000_000000000_000000_00000011 0x0 = .ok (.frcp ⟨false, 5, true, 4, 8, 0, 0, 0, 3, 0x0⟩) ∧
    laneWordOf3 0b0_0_00101001_101_1_000000100_000001000
      0b000000000_000000000_000000_00000011 0x0 = .ok (.frsq ⟨false, 5, true, 4, 8, 0, 0, 0, 3, 0x0⟩) ∧
    laneWordOf3 0b0_0_00101010_101_1_000000100_000001000
      0b000000000_000000000_000000_00000011 0x0 = .ok (.fsqrt ⟨false, 5, true, 4, 8, 0, 0, 0, 3, 0x0⟩) ∧
    laneWordOf3 0b0_0_00101011_101_1_000000100_000001000
      0b000000000_000000000_000000_00000011 0x0 = .ok (.fexp2 ⟨false, 5, true, 4, 8, 0, 0, 0, 3, 0x0⟩) ∧
    laneWordOf3 0b0_0_00101100_101_1_000000100_000001000
      0b000000000_000000000_000000_00000011 0x0 = .ok (.flog2 ⟨false, 5, true, 4, 8, 0, 0, 0, 3, 0x0⟩) ∧
    laneWordOf3 0b0_0_00101101_101_1_000000100_000001000
      0b000000000_000000000_000000_00000011 0x0 = .ok (.fsin ⟨false, 5, true, 4, 8, 0, 0, 0, 3, 0x0⟩) ∧
    laneWordOf3 0b0_0_00101110_101_1_000000100_000001000
      0b000000000_000000000_000000_00000011 0x0 = .ok (.fcos ⟨false, 5, true, 4, 8, 0, 0, 0, 3, 0x0⟩) ∧
    laneWordOf3 0b0_0_00101111_101_1_000000100_000001000
      0b000001100_000000000_000000_00000011 0x0 = .ok (.fdiv ⟨false, 5, true, 4, 8, 12, 0, 0, 3, 0x0⟩) :=
  ⟨rfl, rfl, rfl, rfl, rfl, rfl, rfl, rfl, rfl, rfl, rfl, rfl, rfl, rfl, rfl, rfl⟩

theorem test_decode_lane_packed :
    laneWordOf3 0b0_0_00110000_101_1_000000100_000001000
      0b000001100_000000000_000000_00001111 0x0 = .ok (.pkadd ⟨false, 5, true, 4, 8, 12, 0, 0, 15, 0x0⟩) ∧
    laneWordOf3 0b0_0_00110001_101_1_000000100_000001000
      0b000001100_000000000_000000_00001111 0x0 = .ok (.pkmul ⟨false, 5, true, 4, 8, 12, 0, 0, 15, 0x0⟩) ∧
    laneWordOf3 0b0_0_00110010_101_1_000000100_000001000
      0b000001100_000010000_000000_00001111 0x0 = .ok (.pkfma ⟨false, 5, true, 4, 8, 12, 16, 0, 15, 0x0⟩) ∧
    laneWordOf3 0b0_0_00110011_101_1_000000100_000001000
      0b000001100_000000000_000001_00001100 0x0 = .ok (.pkmnx ⟨false, 5, true, 4, 8, 12, 0, 1, 12, 0x0⟩) ∧
    laneWordOf3 0b0_0_00110100_101_1_000000100_000001000
      0b000000000_000000000_000001_00000011 0x0 = .ok (.fcvt ⟨false, 5, true, 4, 8, 0, 0, 1, 3, 0x0⟩) ∧
    laneWordOf3 0b0_0_00110101_101_1_000000100_000001000
      0b000000000_000000000_000011_00000011 0x0 = .ok (.f2i ⟨false, 5, true, 4, 8, 0, 0, 3, 3, 0x0⟩) ∧
    laneWordOf3 0b0_0_00110110_101_1_000000100_000001000
      0b000000000_000000000_000011_00000011 0x0 = .ok (.i2f ⟨false, 5, true, 4, 8, 0, 0, 3, 3, 0x0⟩) ∧
    laneWordOf3 0b0_0_00110111_101_1_000000100_000001000
      0b000000000_000000000_000000_00000011 0x0 = .ok (.frnd ⟨false, 5, true, 4, 8, 0, 0, 0, 3, 0x0⟩) ∧
    laneWordOf3 0b0_0_00111000_101_1_000000100_000001000
      0b000001100_000000000_000000_00000011 0x0 = .ok (.fscale ⟨false, 5, true, 4, 8, 12, 0, 0, 3, 0x0⟩) ∧
    laneWordOf3 0b0_0_00111001_101_1_000000100_000001000
      0b000001100_000010000_000011_00000111 0x0 = .ok (.pack ⟨false, 5, true, 4, 8, 12, 16, 3, 7, 0x0⟩) ∧
    laneWordOf3 0b0_0_00111010_101_1_000000100_000001000
      0b000000000_000000000_001000_01110000 0x0 = .ok (.unpack ⟨false, 5, true, 4, 8, 0, 0, 8, 112, 0x0⟩) :=
  ⟨rfl, rfl, rfl, rfl, rfl, rfl, rfl, rfl, rfl, rfl, rfl⟩

theorem test_decode_lane_memory :
    laneWordOf3 0b0_0_01000000_101_1_000000100_000001000
      0b000000000_000000000_001101_00000000 0x80000007 = .ok (.ld ⟨false, 5, true, 4, 8, 0, 0, 13, 0, 0x80000007⟩) ∧
    laneWordOf3 0b0_0_01000001_101_1_000000000_000001000
      0b000001100_000000000_001101_00000100 0x80000007 = .ok (.st ⟨false, 5, true, 0, 8, 12, 0, 13, 4, 0x80000007⟩) ∧
    laneWordOf3 0b0_0_01000010_101_1_000000100_000001000
      0b000001100_000000000_001001_00000010 0x0 = .ok (.atom ⟨false, 5, true, 4, 8, 12, 0, 9, 2, 0x0⟩) ∧
    laneWordOf3 0b0_0_01000011_101_1_000000100_000001000
      0b000001100_000010000_000000_00000011 0x0 = .ok (.atcas ⟨false, 5, true, 4, 8, 12, 16, 0, 3, 0x0⟩) ∧
    laneWordOf3 0b0_0_01000100_101_1_000000000_000001000
      0b000001100_000000000_000111_00000011 0x0 = .ok (.red ⟨false, 5, true, 0, 8, 12, 0, 7, 3, 0x0⟩) ∧
    laneWordOf3 0b0_0_01000101_000_0_000000000_000000000
      0b000000000_000000000_011101_00000000 0x0 = .ok (.fenceL ⟨false, 0, false, 0, 0, 0, 0, 29, 0, 0x0⟩) ∧
    laneWordOf3 0b0_0_01000110_101_1_000000000_000001000
      0b000000000_000000000_011111_00000000 0x0 = .ok (.send ⟨false, 5, true, 0, 8, 0, 0, 31, 0, 0x0⟩) ∧
    laneWordOf3 0b0_0_01000111_101_1_000000100_000000000
      0b000000000_000000000_011111_00000111 0x0 = .ok (.recv ⟨false, 5, true, 4, 0, 0, 0, 31, 7, 0x0⟩) ∧
    laneWordOf3 0b0_0_01001000_101_1_000000100_000001000
      0b000001100_000000000_000000_00000000 0x0 = .ok (.lsmap ⟨false, 5, true, 4, 8, 12, 0, 0, 0, 0x0⟩) :=
  ⟨rfl, rfl, rfl, rfl, rfl, rfl, rfl, rfl, rfl⟩

theorem test_decode_lane_cross :
    laneWordOf3 0b0_0_01010000_101_1_000000100_000001000
      0b000001100_000010000_000011_00000000 0x0 = .ok (.shfl ⟨false, 5, true, 4, 8, 12, 16, 3, 0, 0x0⟩) ∧
    laneWordOf3 0b0_0_01010001_101_1_000000100_000001000
      0b000000000_000000000_000011_00000000 0x0 = .ok (.vote ⟨false, 5, true, 4, 8, 0, 0, 3, 0, 0x0⟩) ∧
    laneWordOf3 0b0_0_01010010_101_1_000000100_000001000
      0b000000000_000000000_000000_00000000 0x0 = .ok (.ballot ⟨false, 5, true, 4, 8, 0, 0, 0, 0, 0x0⟩) ∧
    laneWordOf3 0b0_0_01010011_101_1_000000100_000001000
      0b000000000_000000000_000000_00000001 0x0 = .ok (.lmatch ⟨false, 5, true, 4, 8, 0, 0, 0, 1, 0x0⟩) ∧
    laneWordOf3 0b0_0_01010100_101_1_000000100_000001000
      0b000000000_000000000_001000_00000011 0x0 = .ok (.redux ⟨false, 5, true, 4, 8, 0, 0, 8, 3, 0x0⟩) ∧
    laneWordOf3 0b0_0_01010101_101_1_000000100_000001000
      0b000000000_000000000_001000_00010011 0x0 = .ok (.scan ⟨false, 5, true, 4, 8, 0, 0, 8, 19, 0x0⟩) ∧
    laneWordOf3 0b0_0_01010110_101_1_000000100_000000000
      0b000000000_000000000_000010_00000000 0x0 = .ok (.lid ⟨false, 5, true, 4, 0, 0, 0, 2, 0, 0x0⟩) :=
  ⟨rfl, rfl, rfl, rfl, rfl, rfl, rfl⟩

theorem test_decode_lane_control :
    laneWordOf3 0b0_1_01100000_101_1_000000000_000000000
      0b000000000_000000000_000000_00000000 0x80000007 = .ok (.bra ⟨true, 5, true, 0, 0, 0, 0, 0, 0, 0x80000007⟩) ∧
    laneWordOf3 0b0_1_01100001_000_0_000000000_000000000
      0b000000000_000000000_000000_00000000 0x0 = .ok (.regang ⟨true, 0, false, 0, 0, 0, 0, 0, 0, 0x0⟩) ∧
    laneWordOf3 0b0_0_01100010_000_0_000000000_000000000
      0b000000000_000000000_000000_00000000 0x0 = .ok (.lend ⟨false, 0, false, 0, 0, 0, 0, 0, 0, 0x0⟩) ∧
    laneWordOf3 0b0_0_01100011_000_0_000000000_000000000
      0b000000000_000000000_000000_00000000 0x0 = .ok (.fresume ⟨false, 0, false, 0, 0, 0, 0, 0, 0, 0x0⟩) ∧
    laneWordOf3 0b0_0_01100100_000_0_000000000_000000000
      0b000000000_000000000_000000_00000000 0x0 = .ok (.lnop ⟨false, 0, false, 0, 0, 0, 0, 0, 0, 0x0⟩) ∧
    laneWordOf3 0b0_0_01100101_101_1_000000000_000001000
      0b000000000_000000000_000000_00000000 0xffff = .ok (.evtl ⟨false, 5, true, 0, 8, 0, 0, 0, 0, 0xffff⟩) ∧
    laneWordOf3 0b0_0_01100110_101_1_000000000_000001000
      0b000000000_000000000_000011_00000001 0x0 = .ok (.ckacc ⟨false, 5, true, 0, 8, 0, 0, 3, 1, 0x0⟩) ∧
    laneWordOf3 0b0_0_01100111_000_0_000000000_000000000
      0b000000000_000000000_000000_00000000 0x80000007 = .ok (.ltrap ⟨false, 0, false, 0, 0, 0, 0, 0, 0, 0x80000007⟩) :=
  ⟨rfl, rfl, rfl, rfl, rfl, rfl, rfl, rfl⟩

theorem test_decode_lane_acc :
    laneWordOf3 0b0_0_01110000_101_1_000000100_000001000
      0b000000000_000000000_000000_00000100 0x80000007 = .ok (.accld ⟨false, 5, true, 4, 8, 0, 0, 0, 4, 0x80000007⟩) ∧
    laneWordOf3 0b0_0_01110001_101_1_000000000_000001000
      0b000001100_000000000_000000_00000010 0x0 = .ok (.accst ⟨false, 5, true, 0, 8, 12, 0, 0, 2, 0x0⟩) :=
  ⟨rfl, rfl⟩

/-- Control-core words (R241): `dtlbi` with a1 and a0, and `dtlbf`. -/
theorem test_decode_hart :
    decodeHart 0b0000000_01011_01010_000_00000_0001011 = .ok (.dtlbi 11 10) ∧
    decodeHart 0b0000000_00000_00000_001_00000_0001011 = .ok .dtlbf :=
  ⟨rfl, rfl⟩

/-- Words that decode to none, by the name of what is wrong (R57, R60 to R62). -/
theorem test_decode_errors :
    decodeScalar 0b0_001101_0000000000000000000000000 = .error .reservedOpcode ∧
    decodeScalar 0b0_000000_000011_000101_000110_0001110 = .error .reservedFn ∧
    decodeScalar 0b0_000000_000011_000101_000001_0011000 = .error .nonzeroField ∧
    decodeScalar 0b0_000001_000000_000101_000110_1000_100 = .error .badField ∧
    laneWordOf3 0b0_0_00011111_000_0_000000000_000000000 0 0 = .error .reservedOpcode ∧
    laneWordOf3 0b0_0_01100100_000_1_000000000_000000000 0 0 = .error .badField ∧
    decodeHart 0b0000000_01011_01010_010_00000_0001011 = .error .reservedFn ∧
    decodeHart 0b0000000_01011_01010_000_00000_0110011 = .error .notOurs :=
  ⟨rfl, rfl, rfl, rfl, rfl, rfl, rfl, rfl⟩

-- Terms that the checks refuse.

/-- R63, R64, R113, R327, R421, R340: the checks of scalar fields, each with a term it admits beside one it refuses. -/
theorem test_wf_scalar :
    (Instr.cmp 1 2 7 3).wf = true ∧ (Instr.cmp 1 2 8 3).wf = false ∧
    (Instr.ldqAcq 1 2 5 3).wf = true ∧ (Instr.ldqAcq 1 2 6 3).wf = false ∧ (Instr.ldqRlx 1 2 7 3).wf = false ∧
    (Instr.stqRel 1 2 5 3).wf = true ∧ (Instr.stqRel 1 2 6 3).wf = false ∧ (Instr.stqRlx 1 2 6 0).wf = false ∧
    (Instr.fenceAcq 5).wf = true ∧ (Instr.fenceAcq 6).wf = false ∧ (Instr.fenceRel 6).wf = false ∧
    (Instr.fenceAcqrel 7).wf = false ∧ (Instr.fenceSc 6).wf = false ∧
    (Instr.lmaskWrite 1 1).wf = true ∧ (Instr.lmaskWrite 1 0).wf = false ∧
    (Instr.cpyG2s 1 2 true true true).wf = true ∧ (Instr.cpyS2g 1 2 true false false).wf = false ∧
    (Instr.cpySct 1 2 false true false).wf = false ∧ (Instr.cpyGth 1 2 true false true).wf = true ∧
    (Instr.cpyGth 1 2 false true false).wf = false ∧ (Instr.cpyG2g 1 2 false true false).wf = false ∧
    (Instr.thcopy 1 2).wf = true ∧ (Instr.thcopy 2 2).wf = false ∧ (Instr.thcopy 0 2).wf = false ∧ (Instr.thcopy 1 0).wf = false ∧
    (Instr.collSum 1 2 false 5).wf = true ∧ (Instr.collSum 1 2 false 1).wf = false ∧ (Instr.collMax 1 2 true 6).wf = false ∧
    (Instr.collMin 1 2 true 0).wf = false ∧ (Instr.collGather 1 2 false 7).wf = false ∧
    (Instr.collBcast 1 2 false 1).wf = false := by
  decide +kernel

/-- R68, R69: specifiers that a position of each width does not accept, beside the last that it does. -/
theorem test_wf_specifiers :
    SrcKind.w32.accepts 323 = true ∧ SrcKind.w32.accepts 324 = false ∧ SrcKind.w64.accepts 254 = true ∧
    SrcKind.w64.accepts 255 = false ∧ SrcKind.w64.accepts 257 = true ∧ SrcKind.w64.accepts 324 = false ∧
    SrcKind.w128.accepts 252 = true ∧ SrcKind.w128.accepts 254 = false ∧ SrcKind.w128.accepts 256 = false ∧
    SrcKind.w128.accepts 323 = true ∧ SrcKind.vreg.accepts 255 = true ∧ SrcKind.vreg.accepts 256 = false ∧
    SrcKind.none.accepts 0 = true ∧ SrcKind.none.accepts 1 = false ∧
    DstKind.w32.accepts 255 = true ∧ DstKind.w32.accepts 256 = false ∧ DstKind.w64.accepts 3 = false ∧
    DstKind.w128.accepts 2 = false ∧ DstKind.mask.accepts 7 = true ∧ DstKind.mask.accepts 0 = false ∧
    DstKind.mask.accepts 8 = false ∧ DstKind.none.accepts 0 = true ∧ DstKind.none.accepts 1 = false := by
  decide +kernel

def wfLaneOk0 : List Instr :=
  [ .iadd ⟨false, 5, true, 4, 8, 12, 0, 0, 2, 0x0⟩,
    .isub ⟨false, 5, true, 4, 8, 12, 0, 0, 2, 0x0⟩,
    .imul ⟨false, 5, true, 4, 8, 12, 0, 0, 0, 0x0⟩,
    .imulh ⟨false, 5, true, 4, 8, 12, 0, 0, 1, 0x0⟩,
    .imad ⟨false, 5, true, 4, 8, 12, 16, 0, 0, 0x0⟩,
    .imin ⟨false, 5, true, 4, 8, 12, 0, 0, 1, 0x0⟩,
    .imax ⟨false, 5, true, 4, 8, 12, 0, 0, 1, 0x0⟩,
    .iabs ⟨false, 5, true, 4, 8, 0, 0, 0, 1, 0x0⟩ ]
def wfLaneOk1 : List Instr :=
  [ .laneAnd ⟨false, 5, true, 4, 8, 12, 0, 0, 0, 0x0⟩,
    .laneOr ⟨false, 5, true, 4, 8, 12, 0, 0, 0, 0x0⟩,
    .laneXor ⟨false, 5, true, 4, 8, 12, 0, 0, 0, 0x0⟩,
    .blut ⟨false, 5, true, 4, 8, 12, 16, 0, 202, 0x0⟩,
    .laneShl ⟨false, 5, true, 4, 8, 12, 0, 0, 0, 0x0⟩,
    .laneShr ⟨false, 5, true, 4, 8, 12, 0, 0, 0, 0x0⟩,
    .laneSar ⟨false, 5, true, 4, 8, 12, 0, 0, 0, 0x0⟩,
    .laneRol ⟨false, 5, true, 4, 8, 12, 0, 0, 0, 0x0⟩ ]
def wfLaneOk2 : List Instr :=
  [ .lanePopc ⟨false, 5, true, 4, 8, 0, 0, 0, 0, 0x0⟩,
    .laneClz ⟨false, 5, true, 4, 8, 0, 0, 0, 0, 0x0⟩,
    .laneBrev ⟨false, 5, true, 4, 8, 0, 0, 0, 0, 0x0⟩,
    .bfe ⟨false, 5, true, 4, 8, 12, 0, 0, 1, 0x0⟩,
    .bfi ⟨false, 5, true, 4, 8, 12, 16, 0, 0, 0x0⟩,
    .isetp ⟨false, 5, true, 4, 8, 12, 0, 31, 1, 0x0⟩,
    .laneSel ⟨false, 5, true, 4, 8, 12, 0, 15, 0, 0x0⟩,
    .mov ⟨false, 5, true, 4, 8, 0, 0, 0, 0, 0x0⟩ ]
def wfLaneOk3 : List Instr :=
  [ .iadd64 ⟨false, 5, true, 4, 8, 12, 0, 0, 0, 0x0⟩,
    .imul64 ⟨false, 5, true, 4, 8, 12, 0, 0, 0, 0x0⟩,
    .idiv ⟨false, 5, true, 4, 8, 12, 0, 0, 3, 0x0⟩,
    .irem ⟨false, 5, true, 4, 8, 12, 0, 0, 3, 0x0⟩,
    .dot4 ⟨false, 5, true, 4, 8, 12, 16, 0, 7, 0x0⟩,
    .bsel ⟨false, 5, true, 4, 8, 12, 16, 0, 0, 0x0⟩,
    .lea ⟨false, 5, true, 4, 8, 12, 0, 0, 15, 0x0⟩,
    .fadd ⟨false, 5, true, 4, 8, 12, 0, 0, 3, 0x0⟩ ]
def wfLaneOk4 : List Instr :=
  [ .fsub ⟨false, 5, true, 4, 8, 12, 0, 0, 3, 0x0⟩,
    .fmul ⟨false, 5, true, 4, 8, 12, 0, 0, 3, 0x0⟩,
    .ffma ⟨false, 5, true, 4, 8, 12, 16, 0, 3, 0x0⟩,
    .fmin ⟨false, 5, true, 4, 8, 12, 0, 0, 0, 0x0⟩,
    .fmax ⟨false, 5, true, 4, 8, 12, 0, 0, 0, 0x0⟩,
    .fsetp ⟨false, 5, true, 4, 8, 12, 0, 31, 0, 0x0⟩,
    .fclass ⟨false, 5, true, 4, 8, 0, 0, 0, 0, 0x0⟩,
    .frcp ⟨false, 5, true, 4, 8, 0, 0, 0, 3, 0x0⟩ ]
def wfLaneOk5 : List Instr :=
  [ .frsq ⟨false, 5, true, 4, 8, 0, 0, 0, 3, 0x0⟩,
    .fsqrt ⟨false, 5, true, 4, 8, 0, 0, 0, 3, 0x0⟩,
    .fexp2 ⟨false, 5, true, 4, 8, 0, 0, 0, 3, 0x0⟩,
    .flog2 ⟨false, 5, true, 4, 8, 0, 0, 0, 3, 0x0⟩,
    .fsin ⟨false, 5, true, 4, 8, 0, 0, 0, 3, 0x0⟩,
    .fcos ⟨false, 5, true, 4, 8, 0, 0, 0, 3, 0x0⟩,
    .fdiv ⟨false, 5, true, 4, 8, 12, 0, 0, 3, 0x0⟩,
    .pkadd ⟨false, 5, true, 4, 8, 12, 0, 0, 15, 0x0⟩ ]
def wfLaneOk6 : List Instr :=
  [ .pkmul ⟨false, 5, true, 4, 8, 12, 0, 0, 15, 0x0⟩,
    .pkfma ⟨false, 5, true, 4, 8, 12, 16, 0, 15, 0x0⟩,
    .pkmnx ⟨false, 5, true, 4, 8, 12, 0, 1, 12, 0x0⟩,
    .fcvt ⟨false, 5, true, 4, 8, 0, 0, 1, 3, 0x0⟩,
    .f2i ⟨false, 5, true, 4, 8, 0, 0, 3, 3, 0x0⟩,
    .i2f ⟨false, 5, true, 4, 8, 0, 0, 3, 3, 0x0⟩,
    .frnd ⟨false, 5, true, 4, 8, 0, 0, 0, 3, 0x0⟩,
    .fscale ⟨false, 5, true, 4, 8, 12, 0, 0, 3, 0x0⟩ ]
def wfLaneOk7 : List Instr :=
  [ .pack ⟨false, 5, true, 4, 8, 12, 16, 3, 7, 0x0⟩,
    .unpack ⟨false, 5, true, 4, 8, 0, 0, 8, 112, 0x0⟩,
    .ld ⟨false, 5, true, 4, 8, 0, 0, 13, 0, 0x80000007⟩,
    .st ⟨false, 5, true, 0, 8, 12, 0, 13, 4, 0x80000007⟩,
    .atom ⟨false, 5, true, 4, 8, 12, 0, 9, 2, 0x0⟩,
    .atcas ⟨false, 5, true, 4, 8, 12, 16, 0, 3, 0x0⟩,
    .red ⟨false, 5, true, 0, 8, 12, 0, 7, 3, 0x0⟩,
    .fenceL ⟨false, 0, false, 0, 0, 0, 0, 29, 0, 0x0⟩ ]
def wfLaneOk8 : List Instr :=
  [ .send ⟨false, 5, true, 0, 8, 0, 0, 31, 0, 0x0⟩,
    .recv ⟨false, 5, true, 4, 0, 0, 0, 31, 7, 0x0⟩,
    .lsmap ⟨false, 5, true, 4, 8, 12, 0, 0, 0, 0x0⟩,
    .shfl ⟨false, 5, true, 4, 8, 12, 16, 3, 0, 0x0⟩,
    .vote ⟨false, 5, true, 4, 8, 0, 0, 3, 0, 0x0⟩,
    .ballot ⟨false, 5, true, 4, 8, 0, 0, 0, 0, 0x0⟩,
    .lmatch ⟨false, 5, true, 4, 8, 0, 0, 0, 1, 0x0⟩,
    .redux ⟨false, 5, true, 4, 8, 0, 0, 8, 3, 0x0⟩ ]
def wfLaneOk9 : List Instr :=
  [ .scan ⟨false, 5, true, 4, 8, 0, 0, 8, 19, 0x0⟩,
    .lid ⟨false, 5, true, 4, 0, 0, 0, 2, 0, 0x0⟩,
    .bra ⟨true, 5, true, 0, 0, 0, 0, 0, 0, 0x80000007⟩,
    .regang ⟨true, 0, false, 0, 0, 0, 0, 0, 0, 0x0⟩,
    .lend ⟨false, 0, false, 0, 0, 0, 0, 0, 0, 0x0⟩,
    .fresume ⟨false, 0, false, 0, 0, 0, 0, 0, 0, 0x0⟩,
    .lnop ⟨false, 0, false, 0, 0, 0, 0, 0, 0, 0x0⟩,
    .evtl ⟨false, 5, true, 0, 8, 0, 0, 0, 0, 0xffff⟩ ]
def wfLaneOk10 : List Instr :=
  [ .ckacc ⟨false, 5, true, 0, 8, 0, 0, 3, 1, 0x0⟩,
    .ltrap ⟨false, 0, false, 0, 0, 0, 0, 0, 0, 0x80000007⟩,
    .accld ⟨false, 5, true, 4, 8, 0, 0, 0, 4, 0x80000007⟩,
    .accst ⟨false, 5, true, 0, 8, 12, 0, 0, 2, 0x0⟩ ]

/-- Words that every lane opcode admits. -/
theorem test_wf_lane_ok :
    (wfLaneOk0 ++ wfLaneOk1 ++ wfLaneOk2 ++ wfLaneOk3 ++ wfLaneOk4 ++ wfLaneOk5 ++ wfLaneOk6 ++ wfLaneOk7 ++ wfLaneOk8 ++ wfLaneOk9 ++ wfLaneOk10).all Instr.wf = true := by
  decide +kernel

def wfLaneFn60 : List Instr :=
  [ .iadd ⟨false, 5, true, 4, 8, 12, 0, 1, 2, 0x0⟩,
    .isub ⟨false, 5, true, 4, 8, 12, 0, 1, 2, 0x0⟩,
    .imul ⟨false, 5, true, 4, 8, 12, 0, 1, 0, 0x0⟩,
    .imulh ⟨false, 5, true, 4, 8, 12, 0, 1, 1, 0x0⟩,
    .imad ⟨false, 5, true, 4, 8, 12, 16, 1, 0, 0x0⟩,
    .imin ⟨false, 5, true, 4, 8, 12, 0, 1, 1, 0x0⟩,
    .imax ⟨false, 5, true, 4, 8, 12, 0, 1, 1, 0x0⟩,
    .iabs ⟨false, 5, true, 4, 8, 0, 0, 1, 1, 0x0⟩ ]
def wfLaneFn61 : List Instr :=
  [ .laneAnd ⟨false, 5, true, 4, 8, 12, 0, 1, 0, 0x0⟩,
    .laneOr ⟨false, 5, true, 4, 8, 12, 0, 1, 0, 0x0⟩,
    .laneXor ⟨false, 5, true, 4, 8, 12, 0, 1, 0, 0x0⟩,
    .blut ⟨false, 5, true, 4, 8, 12, 16, 1, 202, 0x0⟩,
    .laneShl ⟨false, 5, true, 4, 8, 12, 0, 1, 0, 0x0⟩,
    .laneShr ⟨false, 5, true, 4, 8, 12, 0, 1, 0, 0x0⟩,
    .laneSar ⟨false, 5, true, 4, 8, 12, 0, 1, 0, 0x0⟩,
    .laneRol ⟨false, 5, true, 4, 8, 12, 0, 1, 0, 0x0⟩ ]
def wfLaneFn62 : List Instr :=
  [ .lanePopc ⟨false, 5, true, 4, 8, 0, 0, 1, 0, 0x0⟩,
    .laneClz ⟨false, 5, true, 4, 8, 0, 0, 1, 0, 0x0⟩,
    .laneBrev ⟨false, 5, true, 4, 8, 0, 0, 1, 0, 0x0⟩,
    .bfe ⟨false, 5, true, 4, 8, 12, 0, 1, 1, 0x0⟩,
    .bfi ⟨false, 5, true, 4, 8, 12, 16, 1, 0, 0x0⟩,
    .isetp ⟨false, 5, true, 4, 8, 12, 0, 32, 1, 0x0⟩,
    .laneSel ⟨false, 5, true, 4, 8, 12, 0, 16, 0, 0x0⟩,
    .mov ⟨false, 5, true, 4, 8, 0, 0, 1, 0, 0x0⟩ ]
def wfLaneFn63 : List Instr :=
  [ .iadd64 ⟨false, 5, true, 4, 8, 12, 0, 1, 0, 0x0⟩,
    .imul64 ⟨false, 5, true, 4, 8, 12, 0, 1, 0, 0x0⟩,
    .idiv ⟨false, 5, true, 4, 8, 12, 0, 1, 3, 0x0⟩,
    .irem ⟨false, 5, true, 4, 8, 12, 0, 1, 3, 0x0⟩,
    .dot4 ⟨false, 5, true, 4, 8, 12, 16, 1, 7, 0x0⟩,
    .bsel ⟨false, 5, true, 4, 8, 12, 16, 1, 0, 0x0⟩,
    .lea ⟨false, 5, true, 4, 8, 12, 0, 1, 15, 0x0⟩,
    .fadd ⟨false, 5, true, 4, 8, 12, 0, 1, 3, 0x0⟩ ]
def wfLaneFn64 : List Instr :=
  [ .fsub ⟨false, 5, true, 4, 8, 12, 0, 1, 3, 0x0⟩,
    .fmul ⟨false, 5, true, 4, 8, 12, 0, 1, 3, 0x0⟩,
    .ffma ⟨false, 5, true, 4, 8, 12, 16, 1, 3, 0x0⟩,
    .fmin ⟨false, 5, true, 4, 8, 12, 0, 1, 0, 0x0⟩,
    .fmax ⟨false, 5, true, 4, 8, 12, 0, 1, 0, 0x0⟩,
    .fsetp ⟨false, 5, true, 4, 8, 12, 0, 32, 0, 0x0⟩,
    .fclass ⟨false, 5, true, 4, 8, 0, 0, 1, 0, 0x0⟩,
    .frcp ⟨false, 5, true, 4, 8, 0, 0, 1, 3, 0x0⟩ ]
def wfLaneFn65 : List Instr :=
  [ .frsq ⟨false, 5, true, 4, 8, 0, 0, 1, 3, 0x0⟩,
    .fsqrt ⟨false, 5, true, 4, 8, 0, 0, 1, 3, 0x0⟩,
    .fexp2 ⟨false, 5, true, 4, 8, 0, 0, 1, 3, 0x0⟩,
    .flog2 ⟨false, 5, true, 4, 8, 0, 0, 1, 3, 0x0⟩,
    .fsin ⟨false, 5, true, 4, 8, 0, 0, 1, 3, 0x0⟩,
    .fcos ⟨false, 5, true, 4, 8, 0, 0, 1, 3, 0x0⟩,
    .fdiv ⟨false, 5, true, 4, 8, 12, 0, 1, 3, 0x0⟩,
    .pkadd ⟨false, 5, true, 4, 8, 12, 0, 1, 15, 0x0⟩ ]
def wfLaneFn66 : List Instr :=
  [ .pkmul ⟨false, 5, true, 4, 8, 12, 0, 1, 15, 0x0⟩,
    .pkfma ⟨false, 5, true, 4, 8, 12, 16, 1, 15, 0x0⟩,
    .pkmnx ⟨false, 5, true, 4, 8, 12, 0, 2, 12, 0x0⟩,
    .fcvt ⟨false, 5, true, 4, 8, 0, 0, 9, 3, 0x0⟩,
    .f2i ⟨false, 5, true, 4, 8, 0, 0, 4, 3, 0x0⟩,
    .i2f ⟨false, 5, true, 4, 8, 0, 0, 4, 3, 0x0⟩,
    .frnd ⟨false, 5, true, 4, 8, 0, 0, 1, 3, 0x0⟩,
    .fscale ⟨false, 5, true, 4, 8, 12, 0, 1, 3, 0x0⟩ ]
def wfLaneFn67 : List Instr :=
  [ .pack ⟨false, 5, true, 4, 8, 12, 16, 0, 7, 0x0⟩,
    .unpack ⟨false, 5, true, 4, 8, 0, 0, 0, 112, 0x0⟩,
    .ld ⟨false, 5, true, 4, 8, 0, 0, 14, 0, 0x80000007⟩,
    .st ⟨false, 5, true, 0, 8, 12, 0, 14, 4, 0x80000007⟩,
    .atom ⟨false, 5, true, 4, 8, 12, 0, 10, 2, 0x0⟩,
    .atcas ⟨false, 5, true, 4, 8, 12, 16, 1, 3, 0x0⟩,
    .red ⟨false, 5, true, 0, 8, 12, 0, 8, 3, 0x0⟩,
    .fenceL ⟨false, 0, false, 0, 0, 0, 0, 30, 0, 0x0⟩ ]
def wfLaneFn68 : List Instr :=
  [ .send ⟨false, 5, true, 0, 8, 0, 0, 32, 0, 0x0⟩,
    .recv ⟨false, 5, true, 4, 0, 0, 0, 32, 7, 0x0⟩,
    .lsmap ⟨false, 5, true, 4, 8, 12, 0, 1, 0, 0x0⟩,
    .shfl ⟨false, 5, true, 4, 8, 12, 16, 4, 0, 0x0⟩,
    .vote ⟨false, 5, true, 4, 8, 0, 0, 4, 0, 0x0⟩,
    .ballot ⟨false, 5, true, 4, 8, 0, 0, 1, 0, 0x0⟩,
    .lmatch ⟨false, 5, true, 4, 8, 0, 0, 1, 1, 0x0⟩,
    .redux ⟨false, 5, true, 4, 8, 0, 0, 11, 3, 0x0⟩ ]
def wfLaneFn69 : List Instr :=
  [ .scan ⟨false, 5, true, 4, 8, 0, 0, 11, 19, 0x0⟩,
    .lid ⟨false, 5, true, 4, 0, 0, 0, 3, 0, 0x0⟩,
    .bra ⟨true, 5, true, 0, 0, 0, 0, 1, 0, 0x80000007⟩,
    .regang ⟨true, 0, false, 0, 0, 0, 0, 1, 0, 0x0⟩,
    .lend ⟨false, 0, false, 0, 0, 0, 0, 1, 0, 0x0⟩,
    .fresume ⟨false, 0, false, 0, 0, 0, 0, 1, 0, 0x0⟩,
    .lnop ⟨false, 0, false, 0, 0, 0, 0, 1, 0, 0x0⟩,
    .evtl ⟨false, 5, true, 0, 8, 0, 0, 1, 0, 0xffff⟩ ]
def wfLaneFn610 : List Instr :=
  [ .ckacc ⟨false, 5, true, 0, 8, 0, 0, 4, 1, 0x0⟩,
    .ltrap ⟨false, 0, false, 0, 0, 0, 0, 1, 0, 0x80000007⟩,
    .accld ⟨false, 5, true, 4, 8, 0, 0, 1, 4, 0x80000007⟩,
    .accst ⟨false, 5, true, 0, 8, 12, 0, 1, 2, 0x0⟩ ]

/-- fn6 values that no entry defines (R70). -/
theorem test_wf_lane_fn6 :
    (wfLaneFn60 ++ wfLaneFn61 ++ wfLaneFn62 ++ wfLaneFn63 ++ wfLaneFn64 ++ wfLaneFn65 ++ wfLaneFn66 ++ wfLaneFn67 ++ wfLaneFn68 ++ wfLaneFn69 ++ wfLaneFn610).any Instr.wf = false := by
  decide +kernel

def wfLaneMd80 : List Instr :=
  [ .iadd ⟨false, 5, true, 4, 8, 12, 0, 0, 3, 0x0⟩,
    .isub ⟨false, 5, true, 4, 8, 12, 0, 0, 3, 0x0⟩,
    .imul ⟨false, 5, true, 4, 8, 12, 0, 0, 1, 0x0⟩,
    .imulh ⟨false, 5, true, 4, 8, 12, 0, 0, 2, 0x0⟩,
    .imad ⟨false, 5, true, 4, 8, 12, 16, 0, 1, 0x0⟩,
    .imin ⟨false, 5, true, 4, 8, 12, 0, 0, 2, 0x0⟩,
    .imax ⟨false, 5, true, 4, 8, 12, 0, 0, 2, 0x0⟩,
    .iabs ⟨false, 5, true, 4, 8, 0, 0, 0, 2, 0x0⟩ ]
def wfLaneMd81 : List Instr :=
  [ .laneAnd ⟨false, 5, true, 4, 8, 12, 0, 0, 1, 0x0⟩,
    .laneOr ⟨false, 5, true, 4, 8, 12, 0, 0, 1, 0x0⟩,
    .laneXor ⟨false, 5, true, 4, 8, 12, 0, 0, 1, 0x0⟩,
    .laneShl ⟨false, 5, true, 4, 8, 12, 0, 0, 1, 0x0⟩,
    .laneShr ⟨false, 5, true, 4, 8, 12, 0, 0, 1, 0x0⟩,
    .laneSar ⟨false, 5, true, 4, 8, 12, 0, 0, 1, 0x0⟩,
    .laneRol ⟨false, 5, true, 4, 8, 12, 0, 0, 1, 0x0⟩,
    .lanePopc ⟨false, 5, true, 4, 8, 0, 0, 0, 1, 0x0⟩ ]
def wfLaneMd82 : List Instr :=
  [ .laneClz ⟨false, 5, true, 4, 8, 0, 0, 0, 1, 0x0⟩,
    .laneBrev ⟨false, 5, true, 4, 8, 0, 0, 0, 1, 0x0⟩,
    .bfe ⟨false, 5, true, 4, 8, 12, 0, 0, 2, 0x0⟩,
    .bfi ⟨false, 5, true, 4, 8, 12, 16, 0, 1, 0x0⟩,
    .isetp ⟨false, 5, true, 4, 8, 12, 0, 31, 2, 0x0⟩,
    .laneSel ⟨false, 5, true, 4, 8, 12, 0, 15, 1, 0x0⟩,
    .mov ⟨false, 5, true, 4, 8, 0, 0, 0, 1, 0x0⟩,
    .iadd64 ⟨false, 5, true, 4, 8, 12, 0, 0, 1, 0x0⟩ ]
def wfLaneMd83 : List Instr :=
  [ .imul64 ⟨false, 5, true, 4, 8, 12, 0, 0, 1, 0x0⟩,
    .idiv ⟨false, 5, true, 4, 8, 12, 0, 0, 4, 0x0⟩,
    .irem ⟨false, 5, true, 4, 8, 12, 0, 0, 4, 0x0⟩,
    .dot4 ⟨false, 5, true, 4, 8, 12, 16, 0, 8, 0x0⟩,
    .bsel ⟨false, 5, true, 4, 8, 12, 16, 0, 1, 0x0⟩,
    .lea ⟨false, 5, true, 4, 8, 12, 0, 0, 16, 0x0⟩,
    .fadd ⟨false, 5, true, 4, 8, 12, 0, 0, 4, 0x0⟩,
    .fsub ⟨false, 5, true, 4, 8, 12, 0, 0, 4, 0x0⟩ ]
def wfLaneMd84 : List Instr :=
  [ .fmul ⟨false, 5, true, 4, 8, 12, 0, 0, 4, 0x0⟩,
    .ffma ⟨false, 5, true, 4, 8, 12, 16, 0, 4, 0x0⟩,
    .fmin ⟨false, 5, true, 4, 8, 12, 0, 0, 1, 0x0⟩,
    .fmax ⟨false, 5, true, 4, 8, 12, 0, 0, 1, 0x0⟩,
    .fsetp ⟨false, 5, true, 4, 8, 12, 0, 31, 1, 0x0⟩,
    .fclass ⟨false, 5, true, 4, 8, 0, 0, 0, 1, 0x0⟩,
    .frcp ⟨false, 5, true, 4, 8, 0, 0, 0, 4, 0x0⟩,
    .frsq ⟨false, 5, true, 4, 8, 0, 0, 0, 4, 0x0⟩ ]
def wfLaneMd85 : List Instr :=
  [ .fsqrt ⟨false, 5, true, 4, 8, 0, 0, 0, 4, 0x0⟩,
    .fexp2 ⟨false, 5, true, 4, 8, 0, 0, 0, 4, 0x0⟩,
    .flog2 ⟨false, 5, true, 4, 8, 0, 0, 0, 4, 0x0⟩,
    .fsin ⟨false, 5, true, 4, 8, 0, 0, 0, 4, 0x0⟩,
    .fcos ⟨false, 5, true, 4, 8, 0, 0, 0, 4, 0x0⟩,
    .fdiv ⟨false, 5, true, 4, 8, 12, 0, 0, 4, 0x0⟩,
    .pkadd ⟨false, 5, true, 4, 8, 12, 0, 0, 16, 0x0⟩,
    .pkmul ⟨false, 5, true, 4, 8, 12, 0, 0, 16, 0x0⟩ ]
def wfLaneMd86 : List Instr :=
  [ .pkfma ⟨false, 5, true, 4, 8, 12, 16, 0, 16, 0x0⟩,
    .pkmnx ⟨false, 5, true, 4, 8, 12, 0, 1, 13, 0x0⟩,
    .fcvt ⟨false, 5, true, 4, 8, 0, 0, 1, 4, 0x0⟩,
    .f2i ⟨false, 5, true, 4, 8, 0, 0, 3, 4, 0x0⟩,
    .i2f ⟨false, 5, true, 4, 8, 0, 0, 3, 4, 0x0⟩,
    .frnd ⟨false, 5, true, 4, 8, 0, 0, 0, 4, 0x0⟩,
    .fscale ⟨false, 5, true, 4, 8, 12, 0, 0, 4, 0x0⟩,
    .pack ⟨false, 5, true, 4, 8, 12, 16, 3, 8, 0x0⟩ ]
def wfLaneMd87 : List Instr :=
  [ .unpack ⟨false, 5, true, 4, 8, 0, 0, 8, 128, 0x0⟩,
    .ld ⟨false, 5, true, 4, 8, 0, 0, 13, 7, 0x80000007⟩,
    .st ⟨false, 5, true, 0, 8, 12, 0, 13, 5, 0x80000007⟩,
    .atom ⟨false, 5, true, 4, 8, 12, 0, 9, 0, 0x0⟩,
    .atcas ⟨false, 5, true, 4, 8, 12, 16, 0, 4, 0x0⟩,
    .red ⟨false, 5, true, 0, 8, 12, 0, 7, 1, 0x0⟩,
    .fenceL ⟨false, 0, false, 0, 0, 0, 0, 29, 1, 0x0⟩,
    .send ⟨false, 5, true, 0, 8, 0, 0, 31, 1, 0x0⟩ ]
def wfLaneMd88 : List Instr :=
  [ .recv ⟨false, 5, true, 4, 0, 0, 0, 31, 8, 0x0⟩,
    .lsmap ⟨false, 5, true, 4, 8, 12, 0, 0, 1, 0x0⟩,
    .shfl ⟨false, 5, true, 4, 8, 12, 16, 3, 1, 0x0⟩,
    .vote ⟨false, 5, true, 4, 8, 0, 0, 3, 1, 0x0⟩,
    .ballot ⟨false, 5, true, 4, 8, 0, 0, 0, 1, 0x0⟩,
    .lmatch ⟨false, 5, true, 4, 8, 0, 0, 0, 2, 0x0⟩,
    .redux ⟨false, 5, true, 4, 8, 0, 0, 8, 4, 0x0⟩,
    .scan ⟨false, 5, true, 4, 8, 0, 0, 8, 32, 0x0⟩ ]
def wfLaneMd89 : List Instr :=
  [ .lid ⟨false, 5, true, 4, 0, 0, 0, 2, 1, 0x0⟩,
    .bra ⟨true, 5, true, 0, 0, 0, 0, 0, 1, 0x80000007⟩,
    .regang ⟨true, 0, false, 0, 0, 0, 0, 0, 1, 0x0⟩,
    .lend ⟨false, 0, false, 0, 0, 0, 0, 0, 1, 0x0⟩,
    .fresume ⟨false, 0, false, 0, 0, 0, 0, 0, 1, 0x0⟩,
    .lnop ⟨false, 0, false, 0, 0, 0, 0, 0, 1, 0x0⟩,
    .evtl ⟨false, 5, true, 0, 8, 0, 0, 0, 1, 0xffff⟩,
    .ckacc ⟨false, 5, true, 0, 8, 0, 0, 3, 2, 0x0⟩ ]
def wfLaneMd810 : List Instr :=
  [ .ltrap ⟨false, 0, false, 0, 0, 0, 0, 0, 1, 0x80000007⟩,
    .accld ⟨false, 5, true, 4, 8, 0, 0, 0, 1, 0x80000007⟩,
    .accst ⟨false, 5, true, 0, 8, 12, 0, 0, 5, 0x0⟩ ]

/-- md8 values that no entry defines (R70). -/
theorem test_wf_lane_md8 :
    (wfLaneMd80 ++ wfLaneMd81 ++ wfLaneMd82 ++ wfLaneMd83 ++ wfLaneMd84 ++ wfLaneMd85 ++ wfLaneMd86 ++ wfLaneMd87 ++ wfLaneMd88 ++ wfLaneMd89 ++ wfLaneMd810).any Instr.wf = false := by
  decide +kernel

def wfLaneU0 : List Instr :=
  [ .iadd ⟨true, 5, true, 4, 8, 12, 0, 0, 2, 0x0⟩,
    .isub ⟨true, 5, true, 4, 8, 12, 0, 0, 2, 0x0⟩,
    .imul ⟨true, 5, true, 4, 8, 12, 0, 0, 0, 0x0⟩,
    .imulh ⟨true, 5, true, 4, 8, 12, 0, 0, 1, 0x0⟩,
    .imad ⟨true, 5, true, 4, 8, 12, 16, 0, 0, 0x0⟩,
    .imin ⟨true, 5, true, 4, 8, 12, 0, 0, 1, 0x0⟩,
    .imax ⟨true, 5, true, 4, 8, 12, 0, 0, 1, 0x0⟩,
    .iabs ⟨true, 5, true, 4, 8, 0, 0, 0, 1, 0x0⟩ ]
def wfLaneU1 : List Instr :=
  [ .laneAnd ⟨true, 5, true, 4, 8, 12, 0, 0, 0, 0x0⟩,
    .laneOr ⟨true, 5, true, 4, 8, 12, 0, 0, 0, 0x0⟩,
    .laneXor ⟨true, 5, true, 4, 8, 12, 0, 0, 0, 0x0⟩,
    .blut ⟨true, 5, true, 4, 8, 12, 16, 0, 202, 0x0⟩,
    .laneShl ⟨true, 5, true, 4, 8, 12, 0, 0, 0, 0x0⟩,
    .laneShr ⟨true, 5, true, 4, 8, 12, 0, 0, 0, 0x0⟩,
    .laneSar ⟨true, 5, true, 4, 8, 12, 0, 0, 0, 0x0⟩,
    .laneRol ⟨true, 5, true, 4, 8, 12, 0, 0, 0, 0x0⟩ ]
def wfLaneU2 : List Instr :=
  [ .lanePopc ⟨true, 5, true, 4, 8, 0, 0, 0, 0, 0x0⟩,
    .laneClz ⟨true, 5, true, 4, 8, 0, 0, 0, 0, 0x0⟩,
    .laneBrev ⟨true, 5, true, 4, 8, 0, 0, 0, 0, 0x0⟩,
    .bfe ⟨true, 5, true, 4, 8, 12, 0, 0, 1, 0x0⟩,
    .bfi ⟨true, 5, true, 4, 8, 12, 16, 0, 0, 0x0⟩,
    .isetp ⟨true, 5, true, 4, 8, 12, 0, 31, 1, 0x0⟩,
    .laneSel ⟨true, 5, true, 4, 8, 12, 0, 15, 0, 0x0⟩,
    .mov ⟨true, 5, true, 4, 8, 0, 0, 0, 0, 0x0⟩ ]
def wfLaneU3 : List Instr :=
  [ .iadd64 ⟨true, 5, true, 4, 8, 12, 0, 0, 0, 0x0⟩,
    .imul64 ⟨true, 5, true, 4, 8, 12, 0, 0, 0, 0x0⟩,
    .idiv ⟨true, 5, true, 4, 8, 12, 0, 0, 3, 0x0⟩,
    .irem ⟨true, 5, true, 4, 8, 12, 0, 0, 3, 0x0⟩,
    .dot4 ⟨true, 5, true, 4, 8, 12, 16, 0, 7, 0x0⟩,
    .bsel ⟨true, 5, true, 4, 8, 12, 16, 0, 0, 0x0⟩,
    .lea ⟨true, 5, true, 4, 8, 12, 0, 0, 15, 0x0⟩,
    .fadd ⟨true, 5, true, 4, 8, 12, 0, 0, 3, 0x0⟩ ]
def wfLaneU4 : List Instr :=
  [ .fsub ⟨true, 5, true, 4, 8, 12, 0, 0, 3, 0x0⟩,
    .fmul ⟨true, 5, true, 4, 8, 12, 0, 0, 3, 0x0⟩,
    .ffma ⟨true, 5, true, 4, 8, 12, 16, 0, 3, 0x0⟩,
    .fmin ⟨true, 5, true, 4, 8, 12, 0, 0, 0, 0x0⟩,
    .fmax ⟨true, 5, true, 4, 8, 12, 0, 0, 0, 0x0⟩,
    .fsetp ⟨true, 5, true, 4, 8, 12, 0, 31, 0, 0x0⟩,
    .fclass ⟨true, 5, true, 4, 8, 0, 0, 0, 0, 0x0⟩,
    .frcp ⟨true, 5, true, 4, 8, 0, 0, 0, 3, 0x0⟩ ]
def wfLaneU5 : List Instr :=
  [ .frsq ⟨true, 5, true, 4, 8, 0, 0, 0, 3, 0x0⟩,
    .fsqrt ⟨true, 5, true, 4, 8, 0, 0, 0, 3, 0x0⟩,
    .fexp2 ⟨true, 5, true, 4, 8, 0, 0, 0, 3, 0x0⟩,
    .flog2 ⟨true, 5, true, 4, 8, 0, 0, 0, 3, 0x0⟩,
    .fsin ⟨true, 5, true, 4, 8, 0, 0, 0, 3, 0x0⟩,
    .fcos ⟨true, 5, true, 4, 8, 0, 0, 0, 3, 0x0⟩,
    .fdiv ⟨true, 5, true, 4, 8, 12, 0, 0, 3, 0x0⟩,
    .pkadd ⟨true, 5, true, 4, 8, 12, 0, 0, 15, 0x0⟩ ]
def wfLaneU6 : List Instr :=
  [ .pkmul ⟨true, 5, true, 4, 8, 12, 0, 0, 15, 0x0⟩,
    .pkfma ⟨true, 5, true, 4, 8, 12, 16, 0, 15, 0x0⟩,
    .pkmnx ⟨true, 5, true, 4, 8, 12, 0, 1, 12, 0x0⟩,
    .fcvt ⟨true, 5, true, 4, 8, 0, 0, 1, 3, 0x0⟩,
    .f2i ⟨true, 5, true, 4, 8, 0, 0, 3, 3, 0x0⟩,
    .i2f ⟨true, 5, true, 4, 8, 0, 0, 3, 3, 0x0⟩,
    .frnd ⟨true, 5, true, 4, 8, 0, 0, 0, 3, 0x0⟩,
    .fscale ⟨true, 5, true, 4, 8, 12, 0, 0, 3, 0x0⟩ ]
def wfLaneU7 : List Instr :=
  [ .pack ⟨true, 5, true, 4, 8, 12, 16, 3, 7, 0x0⟩,
    .unpack ⟨true, 5, true, 4, 8, 0, 0, 8, 112, 0x0⟩,
    .ld ⟨true, 5, true, 4, 8, 0, 0, 13, 0, 0x80000007⟩,
    .st ⟨true, 5, true, 0, 8, 12, 0, 13, 4, 0x80000007⟩,
    .atom ⟨true, 5, true, 4, 8, 12, 0, 9, 2, 0x0⟩,
    .atcas ⟨true, 5, true, 4, 8, 12, 16, 0, 3, 0x0⟩,
    .red ⟨true, 5, true, 0, 8, 12, 0, 7, 3, 0x0⟩,
    .fenceL ⟨true, 0, false, 0, 0, 0, 0, 29, 0, 0x0⟩ ]
def wfLaneU8 : List Instr :=
  [ .send ⟨true, 5, true, 0, 8, 0, 0, 31, 0, 0x0⟩,
    .recv ⟨true, 5, true, 4, 0, 0, 0, 31, 7, 0x0⟩,
    .lsmap ⟨true, 5, true, 4, 8, 12, 0, 0, 0, 0x0⟩,
    .shfl ⟨true, 5, true, 4, 8, 12, 16, 3, 0, 0x0⟩,
    .vote ⟨true, 5, true, 4, 8, 0, 0, 3, 0, 0x0⟩,
    .ballot ⟨true, 5, true, 4, 8, 0, 0, 0, 0, 0x0⟩,
    .lmatch ⟨true, 5, true, 4, 8, 0, 0, 0, 1, 0x0⟩,
    .redux ⟨true, 5, true, 4, 8, 0, 0, 8, 3, 0x0⟩ ]
def wfLaneU9 : List Instr :=
  [ .scan ⟨true, 5, true, 4, 8, 0, 0, 8, 19, 0x0⟩,
    .lid ⟨true, 5, true, 4, 0, 0, 0, 2, 0, 0x0⟩,
    .lend ⟨true, 0, false, 0, 0, 0, 0, 0, 0, 0x0⟩,
    .fresume ⟨true, 0, false, 0, 0, 0, 0, 0, 0, 0x0⟩,
    .lnop ⟨true, 0, false, 0, 0, 0, 0, 0, 0, 0x0⟩,
    .evtl ⟨true, 5, true, 0, 8, 0, 0, 0, 0, 0xffff⟩,
    .ckacc ⟨true, 5, true, 0, 8, 0, 0, 3, 1, 0x0⟩,
    .ltrap ⟨true, 0, false, 0, 0, 0, 0, 0, 0, 0x80000007⟩ ]
def wfLaneU10 : List Instr :=
  [ .accld ⟨true, 5, true, 4, 8, 0, 0, 0, 4, 0x80000007⟩,
    .accst ⟨true, 5, true, 0, 8, 12, 0, 0, 2, 0x0⟩ ]

/-- U = 1 outside `bra` and `regang` (R67). -/
theorem test_wf_lane_u :
    (wfLaneU0 ++ wfLaneU1 ++ wfLaneU2 ++ wfLaneU3 ++ wfLaneU4 ++ wfLaneU5 ++ wfLaneU6 ++ wfLaneU7 ++ wfLaneU8 ++ wfLaneU9 ++ wfLaneU10).any Instr.wf = false := by
  decide +kernel

def wfLaneUnused0 : List Instr :=
  [ .iadd ⟨false, 5, true, 4, 8, 12, 2, 0, 2, 0x0⟩,
    .isub ⟨false, 5, true, 4, 8, 12, 2, 0, 2, 0x0⟩,
    .imul ⟨false, 5, true, 4, 8, 12, 2, 0, 0, 0x0⟩,
    .imulh ⟨false, 5, true, 4, 8, 12, 2, 0, 1, 0x0⟩,
    .imin ⟨false, 5, true, 4, 8, 12, 2, 0, 1, 0x0⟩,
    .imax ⟨false, 5, true, 4, 8, 12, 2, 0, 1, 0x0⟩,
    .iabs ⟨false, 5, true, 4, 8, 2, 0, 0, 1, 0x0⟩,
    .laneAnd ⟨false, 5, true, 4, 8, 12, 2, 0, 0, 0x0⟩ ]
def wfLaneUnused1 : List Instr :=
  [ .laneOr ⟨false, 5, true, 4, 8, 12, 2, 0, 0, 0x0⟩,
    .laneXor ⟨false, 5, true, 4, 8, 12, 2, 0, 0, 0x0⟩,
    .laneShl ⟨false, 5, true, 4, 8, 12, 2, 0, 0, 0x0⟩,
    .laneShr ⟨false, 5, true, 4, 8, 12, 2, 0, 0, 0x0⟩,
    .laneSar ⟨false, 5, true, 4, 8, 12, 2, 0, 0, 0x0⟩,
    .laneRol ⟨false, 5, true, 4, 8, 12, 2, 0, 0, 0x0⟩,
    .lanePopc ⟨false, 5, true, 4, 8, 2, 0, 0, 0, 0x0⟩,
    .laneClz ⟨false, 5, true, 4, 8, 2, 0, 0, 0, 0x0⟩ ]
def wfLaneUnused2 : List Instr :=
  [ .laneBrev ⟨false, 5, true, 4, 8, 2, 0, 0, 0, 0x0⟩,
    .bfe ⟨false, 5, true, 4, 8, 12, 2, 0, 1, 0x0⟩,
    .isetp ⟨false, 5, true, 4, 8, 12, 2, 31, 1, 0x0⟩,
    .laneSel ⟨false, 5, true, 4, 8, 12, 2, 15, 0, 0x0⟩,
    .mov ⟨false, 5, true, 4, 8, 2, 0, 0, 0, 0x0⟩,
    .iadd64 ⟨false, 5, true, 4, 8, 12, 2, 0, 0, 0x0⟩,
    .imul64 ⟨false, 5, true, 4, 8, 12, 2, 0, 0, 0x0⟩,
    .idiv ⟨false, 5, true, 4, 8, 12, 2, 0, 3, 0x0⟩ ]
def wfLaneUnused3 : List Instr :=
  [ .irem ⟨false, 5, true, 4, 8, 12, 2, 0, 3, 0x0⟩,
    .lea ⟨false, 5, true, 4, 8, 12, 2, 0, 15, 0x0⟩,
    .fadd ⟨false, 5, true, 4, 8, 12, 2, 0, 3, 0x0⟩,
    .fsub ⟨false, 5, true, 4, 8, 12, 2, 0, 3, 0x0⟩,
    .fmul ⟨false, 5, true, 4, 8, 12, 2, 0, 3, 0x0⟩,
    .fmin ⟨false, 5, true, 4, 8, 12, 2, 0, 0, 0x0⟩,
    .fmax ⟨false, 5, true, 4, 8, 12, 2, 0, 0, 0x0⟩,
    .fsetp ⟨false, 5, true, 4, 8, 12, 2, 31, 0, 0x0⟩ ]
def wfLaneUnused4 : List Instr :=
  [ .fclass ⟨false, 5, true, 4, 8, 2, 0, 0, 0, 0x0⟩,
    .frcp ⟨false, 5, true, 4, 8, 2, 0, 0, 3, 0x0⟩,
    .frsq ⟨false, 5, true, 4, 8, 2, 0, 0, 3, 0x0⟩,
    .fsqrt ⟨false, 5, true, 4, 8, 2, 0, 0, 3, 0x0⟩,
    .fexp2 ⟨false, 5, true, 4, 8, 2, 0, 0, 3, 0x0⟩,
    .flog2 ⟨false, 5, true, 4, 8, 2, 0, 0, 3, 0x0⟩,
    .fsin ⟨false, 5, true, 4, 8, 2, 0, 0, 3, 0x0⟩,
    .fcos ⟨false, 5, true, 4, 8, 2, 0, 0, 3, 0x0⟩ ]
def wfLaneUnused5 : List Instr :=
  [ .fdiv ⟨false, 5, true, 4, 8, 12, 2, 0, 3, 0x0⟩,
    .pkadd ⟨false, 5, true, 4, 8, 12, 2, 0, 15, 0x0⟩,
    .pkmul ⟨false, 5, true, 4, 8, 12, 2, 0, 15, 0x0⟩,
    .pkmnx ⟨false, 5, true, 4, 8, 12, 2, 1, 12, 0x0⟩,
    .fcvt ⟨false, 5, true, 4, 8, 2, 0, 1, 3, 0x0⟩,
    .f2i ⟨false, 5, true, 4, 8, 2, 0, 3, 3, 0x0⟩,
    .i2f ⟨false, 5, true, 4, 8, 2, 0, 3, 3, 0x0⟩,
    .frnd ⟨false, 5, true, 4, 8, 2, 0, 0, 3, 0x0⟩ ]
def wfLaneUnused6 : List Instr :=
  [ .fscale ⟨false, 5, true, 4, 8, 12, 2, 0, 3, 0x0⟩,
    .unpack ⟨false, 5, true, 4, 8, 2, 0, 8, 112, 0x0⟩,
    .ld ⟨false, 5, true, 4, 8, 2, 0, 13, 0, 0x80000007⟩,
    .st ⟨false, 5, true, 2, 8, 12, 0, 13, 4, 0x80000007⟩,
    .atom ⟨false, 5, true, 4, 8, 12, 2, 9, 2, 0x0⟩,
    .red ⟨false, 5, true, 2, 8, 12, 0, 7, 3, 0x0⟩,
    .fenceL ⟨false, 0, false, 2, 0, 0, 0, 29, 0, 0x0⟩,
    .send ⟨false, 5, true, 2, 8, 0, 0, 31, 0, 0x0⟩ ]
def wfLaneUnused7 : List Instr :=
  [ .recv ⟨false, 5, true, 4, 2, 0, 0, 31, 7, 0x0⟩,
    .lsmap ⟨false, 5, true, 4, 8, 12, 2, 0, 0, 0x0⟩,
    .vote ⟨false, 5, true, 4, 8, 2, 0, 3, 0, 0x0⟩,
    .ballot ⟨false, 5, true, 4, 8, 2, 0, 0, 0, 0x0⟩,
    .lmatch ⟨false, 5, true, 4, 8, 2, 0, 0, 1, 0x0⟩,
    .redux ⟨false, 5, true, 4, 8, 2, 0, 8, 3, 0x0⟩,
    .scan ⟨false, 5, true, 4, 8, 2, 0, 8, 19, 0x0⟩,
    .lid ⟨false, 5, true, 4, 2, 0, 0, 2, 0, 0x0⟩ ]
def wfLaneUnused8 : List Instr :=
  [ .bra ⟨true, 5, true, 2, 0, 0, 0, 0, 0, 0x80000007⟩,
    .regang ⟨true, 0, false, 2, 0, 0, 0, 0, 0, 0x0⟩,
    .lend ⟨false, 0, false, 2, 0, 0, 0, 0, 0, 0x0⟩,
    .fresume ⟨false, 0, false, 2, 0, 0, 0, 0, 0, 0x0⟩,
    .lnop ⟨false, 0, false, 2, 0, 0, 0, 0, 0, 0x0⟩,
    .evtl ⟨false, 5, true, 2, 8, 0, 0, 0, 0, 0xffff⟩,
    .ckacc ⟨false, 5, true, 2, 8, 0, 0, 3, 1, 0x0⟩,
    .ltrap ⟨false, 0, false, 2, 0, 0, 0, 0, 0, 0x80000007⟩ ]
def wfLaneUnused9 : List Instr :=
  [ .accld ⟨false, 5, true, 4, 8, 2, 0, 0, 4, 0x80000007⟩,
    .accst ⟨false, 5, true, 2, 8, 12, 0, 0, 2, 0x0⟩ ]

/-- A field that the entry does not use is not zero (R70). -/
theorem test_wf_lane_unused :
    (wfLaneUnused0 ++ wfLaneUnused1 ++ wfLaneUnused2 ++ wfLaneUnused3 ++ wfLaneUnused4 ++ wfLaneUnused5 ++ wfLaneUnused6 ++ wfLaneUnused7 ++ wfLaneUnused8 ++ wfLaneUnused9).any Instr.wf = false := by
  decide +kernel

/-- The mask fields of words that take none (R67). -/
theorem test_wf_lane_mask :
    ([ .fenceL ⟨false, 1, false, 0, 0, 0, 0, 29, 0, 0x0⟩,
       .fenceL ⟨false, 0, true, 0, 0, 0, 0, 29, 0, 0x0⟩,
       .regang ⟨true, 1, false, 0, 0, 0, 0, 0, 0, 0x0⟩,
       .regang ⟨true, 0, true, 0, 0, 0, 0, 0, 0, 0x0⟩,
       .lend ⟨false, 1, false, 0, 0, 0, 0, 0, 0, 0x0⟩,
       .lend ⟨false, 0, true, 0, 0, 0, 0, 0, 0, 0x0⟩,
       .fresume ⟨false, 1, false, 0, 0, 0, 0, 0, 0, 0x0⟩,
       .fresume ⟨false, 0, true, 0, 0, 0, 0, 0, 0, 0x0⟩,
       .lnop ⟨false, 1, false, 0, 0, 0, 0, 0, 0, 0x0⟩,
       .lnop ⟨false, 0, true, 0, 0, 0, 0, 0, 0, 0x0⟩,
       .ltrap ⟨false, 1, false, 0, 0, 0, 0, 0, 0, 0x80000007⟩,
       .ltrap ⟨false, 0, true, 0, 0, 0, 0, 0, 0, 0x80000007⟩ ] : List Instr).any Instr.wf = false := by
  decide +kernel

def wfLaneImm0 : List Instr :=
  [ .iadd ⟨false, 5, true, 4, 8, 12, 0, 0, 2, 0x1⟩,
    .isub ⟨false, 5, true, 4, 8, 12, 0, 0, 2, 0x1⟩,
    .imul ⟨false, 5, true, 4, 8, 12, 0, 0, 0, 0x1⟩,
    .imulh ⟨false, 5, true, 4, 8, 12, 0, 0, 1, 0x1⟩,
    .imad ⟨false, 5, true, 4, 8, 12, 16, 0, 0, 0x1⟩,
    .imin ⟨false, 5, true, 4, 8, 12, 0, 0, 1, 0x1⟩,
    .imax ⟨false, 5, true, 4, 8, 12, 0, 0, 1, 0x1⟩,
    .iabs ⟨false, 5, true, 4, 8, 0, 0, 0, 1, 0x1⟩ ]
def wfLaneImm1 : List Instr :=
  [ .laneAnd ⟨false, 5, true, 4, 8, 12, 0, 0, 0, 0x1⟩,
    .laneOr ⟨false, 5, true, 4, 8, 12, 0, 0, 0, 0x1⟩,
    .laneXor ⟨false, 5, true, 4, 8, 12, 0, 0, 0, 0x1⟩,
    .blut ⟨false, 5, true, 4, 8, 12, 16, 0, 202, 0x1⟩,
    .laneShl ⟨false, 5, true, 4, 8, 12, 0, 0, 0, 0x1⟩,
    .laneShr ⟨false, 5, true, 4, 8, 12, 0, 0, 0, 0x1⟩,
    .laneSar ⟨false, 5, true, 4, 8, 12, 0, 0, 0, 0x1⟩,
    .laneRol ⟨false, 5, true, 4, 8, 12, 0, 0, 0, 0x1⟩ ]
def wfLaneImm2 : List Instr :=
  [ .lanePopc ⟨false, 5, true, 4, 8, 0, 0, 0, 0, 0x1⟩,
    .laneClz ⟨false, 5, true, 4, 8, 0, 0, 0, 0, 0x1⟩,
    .laneBrev ⟨false, 5, true, 4, 8, 0, 0, 0, 0, 0x1⟩,
    .bfe ⟨false, 5, true, 4, 8, 12, 0, 0, 1, 0x1⟩,
    .bfi ⟨false, 5, true, 4, 8, 12, 16, 0, 0, 0x1⟩,
    .isetp ⟨false, 5, true, 4, 8, 12, 0, 31, 1, 0x1⟩,
    .laneSel ⟨false, 5, true, 4, 8, 12, 0, 15, 0, 0x1⟩,
    .mov ⟨false, 5, true, 4, 8, 0, 0, 0, 0, 0x1⟩ ]
def wfLaneImm3 : List Instr :=
  [ .iadd64 ⟨false, 5, true, 4, 8, 12, 0, 0, 0, 0x1⟩,
    .imul64 ⟨false, 5, true, 4, 8, 12, 0, 0, 0, 0x1⟩,
    .idiv ⟨false, 5, true, 4, 8, 12, 0, 0, 3, 0x1⟩,
    .irem ⟨false, 5, true, 4, 8, 12, 0, 0, 3, 0x1⟩,
    .dot4 ⟨false, 5, true, 4, 8, 12, 16, 0, 7, 0x1⟩,
    .bsel ⟨false, 5, true, 4, 8, 12, 16, 0, 0, 0x1⟩,
    .lea ⟨false, 5, true, 4, 8, 12, 0, 0, 15, 0x1⟩,
    .fadd ⟨false, 5, true, 4, 8, 12, 0, 0, 3, 0x1⟩ ]
def wfLaneImm4 : List Instr :=
  [ .fsub ⟨false, 5, true, 4, 8, 12, 0, 0, 3, 0x1⟩,
    .fmul ⟨false, 5, true, 4, 8, 12, 0, 0, 3, 0x1⟩,
    .ffma ⟨false, 5, true, 4, 8, 12, 16, 0, 3, 0x1⟩,
    .fmin ⟨false, 5, true, 4, 8, 12, 0, 0, 0, 0x1⟩,
    .fmax ⟨false, 5, true, 4, 8, 12, 0, 0, 0, 0x1⟩,
    .fsetp ⟨false, 5, true, 4, 8, 12, 0, 31, 0, 0x1⟩,
    .fclass ⟨false, 5, true, 4, 8, 0, 0, 0, 0, 0x1⟩,
    .frcp ⟨false, 5, true, 4, 8, 0, 0, 0, 3, 0x1⟩ ]
def wfLaneImm5 : List Instr :=
  [ .frsq ⟨false, 5, true, 4, 8, 0, 0, 0, 3, 0x1⟩,
    .fsqrt ⟨false, 5, true, 4, 8, 0, 0, 0, 3, 0x1⟩,
    .fexp2 ⟨false, 5, true, 4, 8, 0, 0, 0, 3, 0x1⟩,
    .flog2 ⟨false, 5, true, 4, 8, 0, 0, 0, 3, 0x1⟩,
    .fsin ⟨false, 5, true, 4, 8, 0, 0, 0, 3, 0x1⟩,
    .fcos ⟨false, 5, true, 4, 8, 0, 0, 0, 3, 0x1⟩,
    .fdiv ⟨false, 5, true, 4, 8, 12, 0, 0, 3, 0x1⟩,
    .pkadd ⟨false, 5, true, 4, 8, 12, 0, 0, 15, 0x1⟩ ]
def wfLaneImm6 : List Instr :=
  [ .pkmul ⟨false, 5, true, 4, 8, 12, 0, 0, 15, 0x1⟩,
    .pkfma ⟨false, 5, true, 4, 8, 12, 16, 0, 15, 0x1⟩,
    .pkmnx ⟨false, 5, true, 4, 8, 12, 0, 1, 12, 0x1⟩,
    .fcvt ⟨false, 5, true, 4, 8, 0, 0, 1, 3, 0x1⟩,
    .f2i ⟨false, 5, true, 4, 8, 0, 0, 3, 3, 0x1⟩,
    .i2f ⟨false, 5, true, 4, 8, 0, 0, 3, 3, 0x1⟩,
    .frnd ⟨false, 5, true, 4, 8, 0, 0, 0, 3, 0x1⟩,
    .fscale ⟨false, 5, true, 4, 8, 12, 0, 0, 3, 0x1⟩ ]
def wfLaneImm7 : List Instr :=
  [ .pack ⟨false, 5, true, 4, 8, 12, 16, 3, 7, 0x1⟩,
    .unpack ⟨false, 5, true, 4, 8, 0, 0, 8, 112, 0x1⟩,
    .fenceL ⟨false, 0, false, 0, 0, 0, 0, 29, 0, 0x1⟩,
    .send ⟨false, 5, true, 0, 8, 0, 0, 31, 0, 0x1⟩,
    .recv ⟨false, 5, true, 4, 0, 0, 0, 31, 7, 0x1⟩,
    .lsmap ⟨false, 5, true, 4, 8, 12, 0, 0, 0, 0x1⟩,
    .shfl ⟨false, 5, true, 4, 8, 12, 16, 3, 0, 0x1⟩,
    .vote ⟨false, 5, true, 4, 8, 0, 0, 3, 0, 0x1⟩ ]
def wfLaneImm8 : List Instr :=
  [ .ballot ⟨false, 5, true, 4, 8, 0, 0, 0, 0, 0x1⟩,
    .lmatch ⟨false, 5, true, 4, 8, 0, 0, 0, 1, 0x1⟩,
    .redux ⟨false, 5, true, 4, 8, 0, 0, 8, 3, 0x1⟩,
    .scan ⟨false, 5, true, 4, 8, 0, 0, 8, 19, 0x1⟩,
    .lid ⟨false, 5, true, 4, 0, 0, 0, 2, 0, 0x1⟩,
    .regang ⟨true, 0, false, 0, 0, 0, 0, 0, 0, 0x1⟩,
    .lend ⟨false, 0, false, 0, 0, 0, 0, 0, 0, 0x1⟩,
    .fresume ⟨false, 0, false, 0, 0, 0, 0, 0, 0, 0x1⟩ ]
def wfLaneImm9 : List Instr :=
  [ .lnop ⟨false, 0, false, 0, 0, 0, 0, 0, 0, 0x1⟩,
    .ckacc ⟨false, 5, true, 0, 8, 0, 0, 3, 1, 0x1⟩ ]

/-- imm32 without a specifier of 320 (R70). -/
theorem test_wf_lane_imm :
    (wfLaneImm0 ++ wfLaneImm1 ++ wfLaneImm2 ++ wfLaneImm3 ++ wfLaneImm4 ++ wfLaneImm5 ++ wfLaneImm6 ++ wfLaneImm7 ++ wfLaneImm8 ++ wfLaneImm9).any Instr.wf = false := by
  decide +kernel

-- Witnesses. A small state: group 1 on core 0, whose page at 0x4000000000 may be read, written and executed, with its vector table
-- at 0x4000001000.

/-- The word being executed is one of group 1. -/
def cur : Cur := ⟨1, false, 0, 0, false⟩
/-- Group 1 with a vector table, s1 = 5, s2 = 7 and s3 an address. -/
def grp : Group :=
  (({ fetchGroup with sr := { fetchGroup.sr with tvb := 0x4000001000 } }.withS 1 5).withS 2 7).withS 3 0x4000000100
/-- The state with that group as the issuer. -/
def inGroup (g : Group) : State :=
  let s := State.reset.withFetchWord 32 0x26000000
  { s with sched := { s.sched with cur := some cur }, groups := [g] }
/-- The group at a point of its life with a stop of clock 0 on its way. -/
def coming (l : Life) (halts : Bool) : Group := { grp with life := l, coming := some ⟨⟨halts, .clock 0, false⟩, 24⟩ }
/-- The same group in its handler. -/
def sup : Group := { grp with sc := { grp.sc with sup := true } }

theorem test_witness_ScalarWordsGiveTheirResult :
    (Runs (inGroup grp) cur grp (.add 4 1 2) ∧ sWrite (.add 4 1 2) grp = some (4, 12)) ∧
    (Runs (inGroup grp) cur grp (.sub 0 1 2) ∧ sWrite (.sub 0 1 2) grp = some (0, 0xFFFFFFFFFFFFFFFE)) ∧
    (Runs (inGroup grp) cur grp (.cmp 1 2 4 6) ∧ cWrite (.cmp 1 2 4 6) grp = some (6, true)) ∧
    (Runs (inGroup grp) cur grp (.cset 7 0) ∧ cWrite (.cset 7 0) grp = some (7, false)) ∧
    (Runs (inGroup grp) cur grp (.mul 63 1 2) ∧ sLater (.mul 63 1 2) grp = some (63, 35)) ∧
    (Runs (inGroup grp) cur grp (.div 0 1 0) ∧ sLater (.div 0 1 0) grp = some (0, 0xFFFFFFFFFFFFFFFF)) := by
  repeat' first | decide +kernel | apply And.intro

theorem test_witness_RegisterWordsKeepTheRest :
    (Runs (inGroup grp) cur grp (.lui 5 0x40000) ∧ (sWrite (.lui 5 0x40000) grp).isSome) ∧
    (Runs (inGroup grp) cur grp (.cnot 1 7) ∧ (cWrite (.cnot 1 7) grp).isSome) ∧
    (Runs (inGroup grp) cur grp (.muli 5 2 0x1FFF) ∧ (sLater (.muli 5 2 0x1FFF) grp).isSome) := by
  decide +kernel

theorem test_witness_JumpsGoToTheirTarget :
    Runs (inGroup grp) cur grp (.jmp 0 0x40000) ∧ Runs (inGroup grp) cur grp (.jmp 63 0x3FFFF) ∧
    Runs (inGroup grp) cur grp (.br 7 true 1) ∧
    (Runs (inGroup grp) cur grp (.jr 5 3 0x1000) ∧ (grp.getS 3).toNat % 4 = 0) := by
  decide +kernel

theorem test_witness_MisalignedTargetTraps :
    (Runs (inGroup grp) cur grp (.jr 5 1 0) ∧ (grp.getS 1).toNat % 4 ≠ 0 ∧ TrapReady (inGroup grp) grp causeMisalign) ∧
    (let g : Group := { grp with sr := { grp.sr with tpc := 0x4000000003 } }
     Runs (inGroup g) cur g .tret ∧ g.sr.tpc.toNat % 4 ≠ 0 ∧ TrapReady (inGroup g) g causeMisalign) := by
  decide +kernel

theorem test_witness_TrapsEnterAndReturn :
    (let g : Group := { sup with sr := { sup.sr with tpc := 0x4000000124, tcause := 0x009 } }
     Runs (inGroup g) cur g .tret ∧ g.sr.tpc.toNat % 4 = 0) ∧
    (Runs (inGroup grp) cur grp (.trap 1) ∧ TrapReady (inGroup grp) grp causeSwtrap) ∧
    (Runs (inGroup grp) cur grp .bkpt ∧ TrapReady (inGroup grp) grp causeBkpt) := by
  decide +kernel

/-- Group 1 with one pending register. -/
def pends (r : Nat) : Group := { grp with sc := { grp.sc with pend := 1#72 <<< r } }

theorem test_witness_PendingRegisterRaisesHoldv :
    (let g := pends 70
     isScalarWord (.movc 4 6) = true ∧ (inGroup g).issuer = some (cur, g) ∧ (inGroup g).legal (.movc 4 6) = true ∧
       (namedRegs (.movc 4 6)).find? (fun r => g.pending r) = some 70 ∧ TrapReady (inGroup g) g causeHoldv) ∧
    (let g := pends 1
     isScalarWord (.getsr 1 0) = true ∧ (inGroup g).issuer = some (cur, g) ∧ (inGroup g).legal (.getsr 1 0) = true ∧
       g.mayReadSr 0 = true ∧ (namedRegs (.getsr 1 0)).find? (fun r => g.pending r) = some 1 ∧
       TrapReady (inGroup g) g causeHoldv) := by
  decide +kernel

/-- A page of the witnesses' group. -/
def page : Leaf := fetchLeaf 0

theorem test_witness_IllegalScalarWordTraps :
    ((inGroup grp).issuer = some (cur, grp) ∧ TrapReady (inGroup grp) grp causeIllegal) ∧
    (isScalarWord (.fenceSc 6) = true ∧ (inGroup grp).legal (.fenceSc 6) = false) ∧
    (isScalarWord .halt = true ∧ supervisorOnly .halt = true ∧ grp.sc.sup = false) ∧
    (isScalarWord (.getsr 1 0x19) = true ∧ grp.mayReadSr 0x19 = false) ∧
    (isScalarWord (.setsr 1 0x11) = true ∧ grp.mayWriteSr 0x11 = false) ∧
    (let s : State := (State.reset.withFetchWord 32 0x1C).setGroup grp
     let h := grp.issuing s.clk.clock
     Chosen s 0 0 false grp ∧ FetchesAt s grp grp.sc.walked grp.sc.spc 0x1C ∧
       decodeScalar 0x1C = .error .reservedFn ∧ TrapReady (s.choiceMade 0 0 h) h causeIllegal) := by
  refine ⟨by decide +kernel, by decide +kernel, by decide +kernel, by decide +kernel, by decide +kernel,
    by decide +kernel, ⟨page, by decide +kernel⟩, rfl, by decide +kernel⟩

theorem test_witness_TrapWithoutVectorIsFatal :
    let g : Group := { grp with sr := { grp.sr with tvb := 0xFFF } }
    let s := inGroup g
    Runs s cur g (.trap 1) ∧ s.group? g.uid = some g ∧ g.life = .resident ∧ g.sc.wait = .ready ∧ g.sr.tvb.toNat < 4096 ∧
      (s.team? g.place.team).map (fun t => t.halted) = some none := by
  decide +kernel

theorem test_witness_GetsrReadsTheRegister :
    ((0x000, true, false, false, grp.place.gid) ∈ srTable (inGroup grp) grp ∧ Runs (inGroup grp) cur grp (.getsr 5 0x000)) ∧
    ((0x1003, true, false, true, grp.cnt.stallc) ∈ srTable (inGroup grp) grp ∧ Runs (inGroup grp) cur grp (.getsr 5 0x1003)) ∧
    ((0x01C, false, false, true, sup.sr.tsave[3]) ∈ srTable (inGroup sup) sup ∧ sup.sc.sup = true ∧
      Runs (inGroup sup) cur sup (.getsr 0 0x01C)) := by
  decide +kernel

theorem test_witness_SetsrWritesTheRegister :
    ((0x018, true, true, true, word grp.fflags.toNat) ∈ srTable (inGroup grp) grp ∧ Runs (inGroup grp) cur grp (.setsr 1 0x018)) ∧
    ((0x014, true, false, true, sup.sr.tcause) ∈ srTable (inGroup sup) sup ∧ sup.sc.sup = true ∧
      Runs (inGroup sup) cur sup (.setsr 1 0x014)) := by
  decide +kernel

/-- A result of the scalar stream under way. -/
def waitsFor (g : Group) : Group := g.awaiting 40 9

theorem test_witness_SystemWordsAct :
    Runs (inGroup grp) cur grp .nop ∧ Runs (inGroup grp) cur grp .exit ∧ Runs (inGroup grp) cur grp .yield ∧
    Runs (inGroup grp) cur grp .sleep ∧ Runs (inGroup grp) cur grp .idemb ∧ Runs (inGroup grp) cur grp .ideme ∧
    (Runs (inGroup (waitsFor sup)) cur (waitsFor sup) .halt ∧ (waitsFor sup).sc.outst ≠ []) ∧
    (Runs (inGroup sup) cur sup .halt ∧ sup.sc.outst = []) := by
  repeat' first | decide +kernel | apply And.intro

/-- Group 1 with `n` blocks queued. -/
def blocks (n : Nat) : Group :=
  { grp with ln := { grp.ln with queue := (List.range n).map fun k => ⟨half k, grp.sc.s, grp.dm, k⟩ } }

theorem test_witness_LaneUnitAndDatumWordsAct :
    (Runs (inGroup (blocks 7)) cur (blocks 7) (.lrun 1 0x1FFF) ∧ (blocks 7).blocksOut < 8) ∧
    (Runs (inGroup (blocks 8)) cur (blocks 8) (.lrun 1 0) ∧ (blocks 8).blocksOut = 8) ∧
    Runs (inGroup (blocks 8)) cur (blocks 8) (.lwait 1) ∧ Runs (inGroup grp) cur grp (.lwait 0) ∧
    (Runs (inGroup grp) cur grp (.lget 4 255 31) ∧ grp.laneQuiet ∧ (255 : BitVec 8).toNat < grp.role.vregs ∧
      32 * 255 + 31 ∉ grp.ln.bad) ∧
    (Runs (inGroup (blocks 1)) cur (blocks 1) (.lget 4 0 0) ∧ ¬ (blocks 1).laneQuiet) ∧
    (let g : Group := { grp with role := ⟨0, 64, 0⟩ }
     Runs (inGroup g) cur g (.lget 4 64 0) ∧ g.laneQuiet ∧ g.role.vregs ≤ (64 : BitVec 8).toNat ∧ TrapReady (inGroup g) g 0x04) ∧
    Runs (inGroup grp) cur grp (.lset 1 255 31) ∧ Runs (inGroup grp) cur grp (.lmaskRead 4 0) ∧
    Runs (inGroup grp) cur grp (.lmaskWrite 1 7) ∧
    (grp.dm.length = 8 ∧ Runs (inGroup grp) cur grp (.datumSet 3 7) ∧
      (inGroup grp).xlate grp.place.core grp.place.ctx grp.sc.walked (grp.getS 3) = some (.leaf page)) ∧
    (let g := grp.withS 3 0x8000000000000000
     Runs (inGroup g) cur g (.datumSet 3 0) ∧
       (inGroup g).xlate g.place.core g.place.ctx g.sc.walked (g.getS 3) = some (.fault false) ∧
       TrapReady (inGroup g) g 0x10) ∧
    Runs (inGroup grp) cur grp (.datumClear 7) ∧ Runs (inGroup grp) cur grp (.datumQuery 4 0) := by
  repeat' first | decide +kernel | apply And.intro

theorem test_witness_ScalarLoadsSendARequest :
    (Runs (inGroup grp) cur grp (.ldd 5 3 0x1FF) ∧
      loadForm (.ldd 5 3 0x1FF) grp = some ⟨5, 0x40000010F8, false, 8, false, false, 0⟩ ∧
      Reaches (inGroup grp) grp 0x40000010F8 8 .load page) ∧
    (Runs (inGroup grp) cur grp (.ldspBs 5 0 0x1FF) ∧
      loadForm (.ldspBs 5 0 0x1FF) grp = some ⟨5, 0x1FF, true, 1, true, false, 0⟩ ∧ InWindow (inGroup grp) grp 0x1FF 1 false) := by
  decide +kernel

theorem test_witness_ScalarStoresQueueARequest :
    (Runs (inGroup grp) cur grp (.std 1 3 0x200) ∧ grp.sqUsed < 64 ∧
      storeForm (.std 1 3 0x200) (grp.withS 3 0x4000001000) = some ⟨0x4000000000, false, 8, 5, none⟩ ∧
      (inGroup grp).storeLocked grp 0x4000000000 8 = false ∧ Reaches (inGroup grp) grp 0x4000000000 8 .store page) ∧
    (Runs (inGroup grp) cur grp (.stspD 1 0 0x1FF) ∧ storeForm (.stspD 1 0 0x1FF) grp = some ⟨0xFF8, true, 8, 5, none⟩ ∧
      InWindow (inGroup grp) grp 0xFF8 8 true) ∧
    (let g : Group := { grp with sq := [⟨9, grp.origin 0 false 0, 0, 0, 0, 64, false, 0, 0, false, none, 0, .store []⟩] }
     Runs (inGroup g) cur g (.stqRel 3 1 5 3) ∧ 64 ≤ g.sqUsed ∧
       storeForm (.stqRel 3 1 5 3) g = some ⟨0x4000000100, false, 8, 5, some 5⟩ ∧
       (inGroup g).storeLocked g 0x4000000100 8 = false ∧ Reaches (inGroup g) g 0x4000000100 8 .store page) := by
  decide +kernel

theorem test_witness_AtomicsQueueARequest :
    (Runs (inGroup grp) cur grp (.amoAdd 4 3 1 true) ∧
      amoForm (.amoAdd 4 3 1 true) grp = some (4, 0x4000000100, 8, .rmw 0 8 5) ∧
      Reaches (inGroup grp) grp 0x4000000100 8 .atomic page ∧ grp.idem = false ∧
      (inGroup grp).storeLocked grp 0x4000000100 8 = false) ∧
    (let g : Group := { grp with idem := true }
     Runs (inGroup g) cur g (.cas 1 3 2 false) ∧ amoForm (.cas 1 3 2 false) g = some (1, 0x4000000100, 4, .cas 4 [(5, 7)]) ∧
       Reaches (inGroup g) g 0x4000000100 4 .atomic page ∧ g.idem = true ∧ TrapReady (inGroup g) g 0x0B) := by
  repeat' first | decide +kernel | apply And.intro

theorem test_witness_ScalarAccessFaults :
    (let g := grp.withS 3 0x4000000101
     Runs (inGroup g) cur g (.ldh 4 3 0) ∧ loadForm (.ldh 4 3 0) g = some ⟨4, 0x4000000101, false, 2, false, false, 0⟩ ∧
       (0x4000000101 : Word).toNat % 2 ≠ 0 ∧ TrapReady (inGroup g) g causeMisalign) ∧
    (let g := grp.withS 3 0x8000000000000000
     Runs (inGroup g) cur g (.stb 1 3 0) ∧ storeForm (.stb 1 3 0) g = some ⟨0x8000000000000000, false, 1, 5, none⟩ ∧
       (inGroup g).xlate g.place.core g.place.ctx g.sc.walked 0x8000000000000000 = some (.fault false) ∧
       TrapReady (inGroup g) g 0x10) ∧
    (let s := (inGroup grp).setCore 0 { (inGroup grp).core 0 with
       tlb := [⟨1, page⟩, ⟨1, { page with vbase := 0x4000002000, w := false }⟩] }
     let g := grp.withS 3 0x4000002000
     let s := s.setGroup g
     Runs s cur g (.std 1 3 0) ∧ storeForm (.std 1 3 0) g = some ⟨0x4000002000, false, 8, 5, none⟩ ∧
       s.xlate g.place.core g.place.ctx g.sc.walked 0x4000002000 =
         some (.leaf { page with vbase := 0x4000002000, w := false }) ∧
       Leaf.check { page with vbase := 0x4000002000, w := false } .store (s.worldOf g) = some 0x11 ∧ TrapReady s g 0x11) ∧
    (let g := grp.withS 3 0x7000000000
     Runs (inGroup g) cur g (.ldb 4 3 0) ∧
       (inGroup g).xlate g.place.core g.place.ctx g.sc.walked 0x7000000000 = none) := by
  repeat' first | decide +kernel | apply And.intro

/-- Group 1 with a load in its store queue. -/
def reading : Group := { grp with seq := 1, sq := [⟨9, grp.origin 0 false 0, 0, 0, 0, 0, false, 0, 0, false, none, 0, .load 8 false 0⟩] }

theorem test_witness_FencesOrder :
    (Runs (inGroup grp) cur grp (.fenceAcq 5) ∧ (inGroup grp).readBefore grp false grp.seq grp.sc.laneSeq = false) ∧
    (Runs (inGroup reading) cur reading (.fenceAcq 2) ∧
      (inGroup reading).readBefore reading false reading.seq reading.sc.laneSeq = true) ∧
    Runs (inGroup grp) cur grp (.fenceRel 0) ∧ Runs (inGroup grp) cur grp (.fenceAcqrel 0) ∧
    Runs (inGroup grp) cur grp (.fenceSc 0) ∧ Runs (inGroup reading) cur reading (.fenceRel 1) ∧
    Runs (inGroup grp) cur grp (.fenceAcqrel 5) ∧ Runs (inGroup grp) cur grp (.fenceSc 5) := by
  repeat' first | decide +kernel | apply And.intro

/-- A gang of lane 0 at LPC 0, in user mode and in the handler. -/
def laneCur : Cur := ⟨1, false, 1, 0, false⟩
def handlerCur : Cur := { laneCur with sup := true }
/-- Group 1 with that gang; v2 and v3 of lane 0 hold the address 0x4000000100. -/
def laneGrp : Group :=
  { grp with ln := { fetchLanes with
    frags := [⟨0, 1, 0, false, .ready, 0, 0, []⟩], v := [(64, 0x100), (96, 0x40), (256, 9), (384, 5)] } }
def handlerGrp : Group := { laneGrp with ln := { laneGrp.ln with frags := [⟨0, 1, 0, true, .ready, 0, 0, []⟩], hv := laneGrp.ln.v } }
def inLane (g : Group) : State := { inGroup g with sched := { (inGroup g).sched with cur := some laneCur } }
def inHandlerLane (g : Group) : State := { inGroup g with sched := { (inGroup g).sched with cur := some handlerCur } }

/-- A lane word without mask fields. -/
def lw (d a b c : BitVec 9) (fn : BitVec 6) (md : BitVec 8) (imm : W32) : LaneW := ⟨false, 0, false, d, a, b, c, fn, md, imm⟩

theorem test_witness_LaneFencesOrder :
    (LaneRuns (inLane laneGrp) laneCur laneGrp (.fenceL (lw 0 0 0 0 5 0 0)) (lw 0 0 0 0 5 0 0)
        { fn6 := true, md8 := true, noMask := true } ∧
      (inLane laneGrp).readBefore laneGrp true laneGrp.seq laneGrp.blockSeq = false) ∧
    (let g : Group := { laneGrp with seq := 1, sq := [⟨9, grp.origin 0 true 0, 0, 0, 0, 0, false, 0, 0, false, none, 0, .load 8 false 0⟩] }
     LaneRuns (inLane g) laneCur g (.fenceL (lw 0 0 0 0 24 0 0)) (lw 0 0 0 0 24 0 0) { fn6 := true, md8 := true, noMask := true } ∧
       (inLane g).readBefore g true g.seq g.blockSeq = true) ∧
    (∀ fn ∈ [8, 9, 17, 25, 29], LaneRuns (inLane laneGrp) laneCur laneGrp (.fenceL (lw 0 0 0 0 fn 0 0)) (lw 0 0 0 0 fn 0 0)
        { fn6 := true, md8 := true, noMask := true }) := by
  decide +kernel

theorem test_witness_LaneWordsWriteTheirResult :
    (∃ p, ∃ f : Nat → Nat × Nat × Flags, LaneRuns (inLane laneGrp) laneCur laneGrp (.iadd (lw 4 8 12 0 0 1 0)) (lw 4 8 12 0 0 1 0) p ∧
      cellsWf laneGrp.ln.v = true ∧ cellsWf laneGrp.ln.hv = true ∧
      ∀ k, laneNowValue (.iadd (lw 4 8 12 0 0 1 0)) (laneOpOf laneCur laneGrp (lw 4 8 12 0 0 1 0)) k = some (f k)) ∧
    (∃ p, ∃ f : Nat → Nat × Nat × Flags, LaneRuns (inLane laneGrp) laneCur laneGrp (.iadd64 (lw 254 256 320 0 0 0 0xFFFFFFFF)) (lw 254 256 320 0 0 0 0xFFFFFFFF) p ∧
      ∀ k, laneNowValue (.iadd64 (lw 254 256 320 0 0 0 0xFFFFFFFF)) (laneOpOf laneCur laneGrp (lw 254 256 320 0 0 0 0xFFFFFFFF)) k =
        some (f k)) ∧
    (∃ p, ∃ f : Nat → Bool × Flags, LaneRuns (inHandlerLane handlerGrp) handlerCur handlerGrp (.isetp (lw 7 2 3 0 31 0 0)) (lw 7 2 3 0 31 0 0) p ∧
      ∀ k, laneMaskValue (.isetp (lw 7 2 3 0 31 0 0)) (laneOpOf handlerCur handlerGrp (lw 7 2 3 0 31 0 0)) k = some (f k)) := by
  refine ⟨⟨spec2 (lw 4 8 12 0 0 1 0) true, _, ?_, ?_, ?_, fun _ => rfl⟩, ⟨_, _, ⟨?_, rfl, ?_⟩, fun _ => rfl⟩,
    ⟨_, _, ⟨?_, rfl, ?_⟩, fun _ => rfl⟩⟩
  all_goals decide +kernel

theorem test_witness_LaneWordsSendTheirResult :
    (∃ p, ∃ f : Nat → Nat × Flags, LaneRuns (inLane laneGrp) laneCur laneGrp (.imul64 (lw 4 8 12 0 0 0 0)) (lw 4 8 12 0 0 0 0) p ∧
      ∀ k, laneLaterValue (.imul64 (lw 4 8 12 0 0 0 0)) (laneOpOf laneCur laneGrp (lw 4 8 12 0 0 0 0)) k = some (2, f k)) ∧
    (∃ p, ∃ f : Nat → Nat × Flags, LaneRuns (inLane laneGrp) laneCur laneGrp (.redux (lw 4 8 0 0 10 0 0)) (lw 4 8 0 0 10 0 0) p ∧
      ∀ k, laneLaterValue (.redux (lw 4 8 0 0 10 0 0)) (laneOpOf laneCur laneGrp (lw 4 8 0 0 10 0 0)) k = some (1, f k)) := by
  refine ⟨⟨_, _, ⟨?_, rfl, ?_⟩, fun _ => rfl⟩, ⟨_, _, ⟨?_, rfl, ?_⟩, fun _ => rfl⟩⟩
  all_goals decide +kernel

theorem test_witness_LaneChecksTrapInOrder :
    (let w := lw 5 8 12 0 0 0 0
     (inLane laneGrp).issuer = some (laneCur, laneGrp) ∧ (laneSpec (.iadd64 w)).isSome ∧ (inLane laneGrp).legal (.iadd64 w) = false ∧
       TrapReady (inLane laneGrp) laneGrp causeIllegal) ∧
    (let w := lw 4 8 12 0 0 0 0
     let g : Group := { laneGrp with role := ⟨0, 13, 0⟩ }
     (inLane g).issuer = some (laneCur, g) ∧ (laneNowValue (.iadd64 w) (laneOpOf laneCur g w) 0).isSome ∧
       (inLane g).legal (.iadd64 w) = true ∧
       beyondAllotment g.role.vregs (positions { d := .w64, a := .w64, b := .w64 } w) = some 12 ∧ TrapReady (inLane g) g 0x04) ∧
    (let w := lw 4 8 12 0 0 0 0
     let g : Group := { laneGrp with ln := { laneGrp.ln with pend := 1#264 <<< 9 } }
     (inLane g).issuer = some (laneCur, g) ∧ (inLane g).legal (.iadd64 w) = true ∧
       beyondAllotment g.role.vregs (positions { d := .w64, a := .w64, b := .w64 } w) = none ∧
       g.ln.firstPending laneCur.sup (positions { d := .w64, a := .w64, b := .w64 } w) = some 8 ∧
       TrapReady (inLane g) g causeHoldv) := by
  decide +kernel

theorem test_witness_LaneControlWordsMoveTheGang :
    (∃ p, LaneRuns (inLane laneGrp) laneCur laneGrp (.bra (lw 0 0 0 0 0 0 0xFFFFFFFF)) (lw 0 0 0 0 0 0 0xFFFFFFFF) p) ∧
    (let c : Cur := { laneCur with lanes := 3 }
     let g : Group := { laneGrp with ln := { laneGrp.ln with m := laneGrp.ln.m.set 1 1, frags := [⟨0, 3, 0, false, .ready, 0, 0, []⟩] } }
     let s : State := { inGroup g with sched := { (inGroup g).sched with cur := some c } }
     let w : LaneW := { lw 0 0 0 0 0 0 7 with u := true, msel := 1 }
     (∃ p, LaneRuns s c g (.bra w) w p) ∧ w.u = true ∧ selected c g.ln w ≠ 0 ∧ selected c g.ln w ≠ c.lanes ∧ TrapReady s g 0x03) ∧
    (∃ p, LaneRuns (inLane laneGrp) laneCur laneGrp (.regang { lw 0 0 0 0 0 0 0 with u := true }) { lw 0 0 0 0 0 0 0 with u := true } p) ∧
    (∃ p, LaneRuns (inLane laneGrp) laneCur laneGrp (.lend (lw 0 0 0 0 0 0 0)) (lw 0 0 0 0 0 0 0) p) ∧
    (∃ p, LaneRuns (inLane laneGrp) laneCur laneGrp (.lnop (lw 0 0 0 0 0 0 0)) (lw 0 0 0 0 0 0 0) p) ∧
    (∃ p, LaneRuns (inLane laneGrp) laneCur laneGrp (.evtl (lw 0 8 0 0 0 0 0xFFFF)) (lw 0 8 0 0 0 0 0xFFFF) p) ∧
    (∃ p, LaneRuns (inLane laneGrp) laneCur laneGrp (.ckacc (lw 0 8 0 0 3 1 0)) (lw 0 8 0 0 3 1 0) p) ∧
    ((∃ p, LaneRuns (inLane laneGrp) laneCur laneGrp (.ltrap (lw 0 0 0 0 0 0 5)) (lw 0 0 0 0 0 0 5) p) ∧ laneCur.sup = false ∧
      TrapReady (inLane laneGrp) laneGrp causeSwtrap) ∧
    ((∃ p, LaneRuns (inHandlerLane handlerGrp) handlerCur handlerGrp (.fresume (lw 0 0 0 0 0 0 0)) (lw 0 0 0 0 0 0 0) p) ∧
      handlerCur.sup = true) := by
  refine ⟨⟨_, ?_, rfl, ?_⟩, ⟨⟨_, ?_, rfl, ?_⟩, ?_⟩, ⟨_, ?_, rfl, ?_⟩, ⟨_, ?_, rfl, ?_⟩, ⟨_, ?_, rfl, ?_⟩, ⟨_, ?_, rfl, ?_⟩,
    ⟨_, ?_, rfl, ?_⟩, ⟨⟨_, ?_, rfl, ?_⟩, ?_⟩, ⟨⟨_, ?_, rfl, ?_⟩, ?_⟩⟩
  all_goals decide +kernel

theorem test_witness_LaneSystemWordsAct :
    (∃ p, LaneRuns (inLane laneGrp) laneCur laneGrp (.evtl (lw 0 8 0 0 0 0 0xFFFF)) (lw 0 8 0 0 0 0 0xFFFF) p) ∧
    (∃ p, LaneRuns (inLane laneGrp) laneCur laneGrp (.ckacc (lw 0 8 0 0 3 1 0)) (lw 0 8 0 0 3 1 0) p) ∧
    (∃ p, LaneRuns (inLane laneGrp) laneCur laneGrp (.ltrap (lw 0 0 0 0 0 0 5)) (lw 0 0 0 0 0 0 5) p) ∧
    (laneCur.sup = false ∧ TrapReady (inLane laneGrp) laneGrp causeSwtrap) ∧
    (∃ p, LaneRuns (inHandlerLane handlerGrp) handlerCur handlerGrp (.fresume (lw 0 0 0 0 0 0 0)) (lw 0 0 0 0 0 0 0) p) ∧
    (∃ p, LaneRuns (inLane laneGrp) laneCur laneGrp (.fresume (lw 0 0 0 0 0 0 0)) (lw 0 0 0 0 0 0 0) p) ∧
    TrapReady (inLane laneGrp) laneGrp causeIllegal := by
  refine ⟨⟨_, ?_, rfl, ?_⟩, ⟨_, ?_, rfl, ?_⟩, ⟨_, ?_, rfl, ?_⟩, ?_, ⟨_, ?_, rfl, ?_⟩, ⟨_, ?_, rfl, ?_⟩, ?_⟩
  all_goals decide +kernel

/-- Lane 0 alone is active in a word without mask fields, and its access to the page is good. -/
theorem laneAt_page (w : LaneW) (acc : Acc) (h0 : w.md8.toNat / 8 % 4 = 0)
    (ha : (laneVa (laneOpOf laneCur laneGrp w) 0).toNat % laneBytes w = 0)
    (hf : acc = .load ∨ (inLane laneGrp).storeLocked laneGrp (laneVa (laneOpOf laneCur laneGrp w) 0) (laneBytes w) = false)
    (hx : (inLane laneGrp).xlate 0 1 [] (laneVa (laneOpOf laneCur laneGrp w) 0) = some (.leaf page))
    (hc : page.check acc 0 = none) :
    LaneAt (inLane laneGrp) (laneOpOf laneCur laneGrp w) acc 0
      (page.phys (laneVa (laneOpOf laneCur laneGrp w) 0)) page.sc := by
  refine ⟨ha, ?_⟩
  have h1 : (laneOpOf laneCur laneGrp w).w.md8.toNat / 8 % 4 = 0 := h0
  simp only [h1]
  exact ⟨hf, page, hx, hc, rfl, rfl⟩

theorem test_witness_LaneLoadsSendRequests :
    (let w := lw 4 2 0 0 13 4 0
     (∃ p, LaneRuns (inLane laneGrp) laneCur laneGrp (.ld w) w p) ∧ (laneOpOf laneCur laneGrp w).act = [0] ∧
       LaneAt (inLane laneGrp) (laneOpOf laneCur laneGrp w) .load 0 (page.phys 0x4000000100) page.sc) ∧
    (let w := lw 4 323 0 0 10 27 0xFFFF8
     let s := (inLane laneGrp).setStack 0 { (inLane laneGrp).stack 0 with pg := List.replicate 16 (word (2 ^ 63 + 2 ^ 32)) }
     (∃ p, LaneRuns s laneCur laneGrp (.ld w) w p) ∧ w.md8.toNat / 8 % 4 = 3 ∧ (s.die laneGrp.die).stale = false ∧
       s.acquirePending laneGrp = false ∧ (laneVa (laneOpOf laneCur laneGrp w) 0).toNat % laneBytes w = 0 ∧
       laneOff (laneOpOf laneCur laneGrp w) 0 + laneBytes w = 0x100000 ∧ s.holdsPage 0 1 15 = true) := by
  refine ⟨⟨⟨_, ?_, rfl, ?_⟩, ?_, ?_⟩, ⟨_, ?_, rfl, ?_⟩, ?_⟩
  case refine_4 => exact laneAt_page _ _ rfl (by decide +kernel) (.inl rfl) (by decide +kernel) (by decide +kernel)
  all_goals decide +kernel

theorem test_witness_LaneStoresQueueRequests :
    (let w := lw 0 2 8 0 13 4 0
     (∃ p, LaneRuns (inLane laneGrp) laneCur laneGrp (.st w) w p) ∧ (laneOpOf laneCur laneGrp w).act = [0] ∧
       LaneAt (inLane laneGrp) (laneOpOf laneCur laneGrp w) .store 0 (page.phys 0x4000000100) page.sc ∧
       laneGrp.sqUsed + 2 ≤ 64) ∧
    (let g : Group := { laneGrp with sq := [⟨9, grp.origin 0 true 0, 0, 0, 0, 63, false, 0, 0, false, none, 0, .store []⟩] }
     64 < g.sqUsed + 2) := by
  refine ⟨⟨⟨_, ?_, rfl, ?_⟩, ?_, ?_, ?_⟩, ?_⟩
  case refine_4 =>
    exact laneAt_page _ _ rfl (by decide +kernel) (.inr (by decide +kernel)) (by decide +kernel) (by decide +kernel)
  all_goals decide +kernel

theorem test_witness_LaneAtomicsSendOneRequestPerClass :
    let at_ (w : LaneW) : Prop := (laneOpOf laneCur laneGrp w).act = [0] ∧
      LaneAt (inLane laneGrp) (laneOpOf laneCur laneGrp w) .atomic 0 (page.phys 0x4000000100) page.sc
    (∃ p, LaneRuns (inLane laneGrp) laneCur laneGrp (.atom (lw 4 2 8 0 9 2 0)) (lw 4 2 8 0 9 2 0) p) ∧
    (∃ p, LaneRuns (inLane laneGrp) laneCur laneGrp (.atcas (lw 4 2 8 12 0 3 0)) (lw 4 2 8 12 0 3 0) p) ∧
    (∃ p, LaneRuns (inLane laneGrp) laneCur laneGrp (.red (lw 0 2 8 0 0 3 0)) (lw 0 2 8 0 0 3 0) p) ∧
    laneGrp.idem = false ∧ at_ (lw 4 2 8 0 9 2 0) ∧ at_ (lw 4 2 8 12 0 3 0) ∧ at_ (lw 0 2 8 0 0 3 0) := by
  refine ⟨⟨_, ?_, rfl, ?_⟩, ⟨_, ?_, rfl, ?_⟩, ⟨_, ?_, rfl, ?_⟩, ?_, ⟨?_, laneAt_page _ _ rfl ?_ (.inr ?_) ?_ ?_⟩,
    ⟨?_, laneAt_page _ _ rfl ?_ (.inr ?_) ?_ ?_⟩, ⟨?_, laneAt_page _ _ rfl ?_ (.inr ?_) ?_ ?_⟩⟩
  all_goals decide +kernel

theorem test_witness_ScalarDecodeAndEncodeAgree :
    (isScalarWord (.yieldc 63 0x1000) = true ∧ (Instr.yieldc 63 0x1000).wf = true) ∧
    (isScalarWord (.fenceSc 5) = true ∧ (Instr.fenceSc 5).wf = true) ∧ decodeScalar 0x26000000 = .ok .nop ∧
    decodeHart 0x0000100B = .ok .dtlbf := by
  repeat' first | decide | rfl | apply And.intro

theorem test_witness_LaneDecodeAndEncodeAgree :
    let w := lw 255 320 319 264 0 0 0xFFFFFFFF
    ((laneSpec (.imad w)).isSome = true ∧ (Instr.imad w).wf = true) ∧ decodeLane (encodeLane true (.imad w)) = .ok (.imad w) := by
  refine ⟨?_, rfl⟩
  decide

theorem test_witness_StepKeepsCanonical : State.reset.wf = true ∧ ∃ t, step State.reset = .next t := ⟨by decide, _, rfl⟩

theorem test_witness_StepRunsTheDecodedWord :
    (let s := State.reset.withFetchWord 32 0x26000000
     Chosen s 0 0 false fetchGroup ∧ FetchesAt s fetchGroup fetchGroup.sc.walked fetchGroup.sc.spc 0x26000000 ∧
       decodeScalar 0x26000000 = .ok .nop) ∧
    (let w := encodeLane true (.lnop (lw 0 0 0 0 0 0 0))
     let g : Group := { fetchGroup with ln := fetchLanes }
     let s := State.reset.withFetchWord 96 w.toNat
     Chosen s 0 0 true g ∧ chooseLpc (mergeFrags g.ln.frags) = some (false, 0) ∧
       (∀ k : Nat, k < 3 → FetchesAt s g g.ln.walked (g.place.lcb + wordOf (4 * k)) (w.toNat / 2 ^ (32 * k) % 2 ^ 32)) ∧
       decodeLane w = .ok (.lnop (lw 0 0 0 0 0 0 0))) ∧
    (let g : Group := { fetchGroup with ln := fetchLanes }
     let s := State.reset.withFetchWord 96 (2 ^ 96 - 1)
     Chosen s 0 0 true g ∧ decodeLane (BitVec.allOnes 96) = .error .reservedOpcode ∧
       TrapReady (s.choiceMade 0 1 (g.laneIssuing (mergeFrags g.ln.frags) false 0 s.clk.clock))
         (g.laneIssuing (mergeFrags g.ln.frags) false 0 s.clk.clock) causeIllegal) ∧
    (let s := State.reset.withFetchWord 32 0x0000100B
     s.sched.turn = .hart ∧ BytesHold s 0 s.hart.pc.toNat 4 0x0000100B ∧ decodeHart 0x0000100B = .ok .dtlbf) ∧
    (let s : State := { State.reset with sched := { State.reset.sched with turn := .event (.rendezvous 0 0) } }
     s.sched.turn = .event (.rendezvous 0 0) ∧ encode false (.rendezvous 0 0) = [] ∧ s.clk.fenced = false) := by
  refine ⟨⟨?_, ⟨page, ?_⟩, ?_⟩, ⟨?_, ?_, ?_, ?_⟩, ?_, ?_, ?_⟩
  case refine_6 =>
    intro k hk
    match k, hk with
    | 0, _ => exact ⟨page, by decide +kernel⟩
    | 1, _ => exact ⟨page, by decide +kernel⟩
    | 2, _ => exact ⟨page, by decide +kernel⟩
  all_goals repeat' first | decide +kernel | rfl | apply And.intro | apply Or.inl

/-- The group of the lane witnesses whose address is on a page without a translation, with a handler. -/
def faultGrp : Group :=
  { laneGrp with
    sr := { laneGrp.sr with lsv := 0x6000 }
    ln := { laneGrp.ln with v := [(64, 0x2000)], hv := [(64, 0x2000)], walked := [(1, .fault true)] } }
def faultHandlerGrp : Group := { faultGrp with ln := { faultGrp.ln with frags := [⟨0, 1, 0, true, .ready, 0, 0, []⟩] } }

theorem test_witness_LaneFaultsEnterTheHandler :
    (let w := lw 4 2 0 0 13 4 0
     let o := laneOpOf laneCur faultGrp w
     (∃ p, LaneRuns (inLane faultGrp) laneCur faultGrp (.ld w) w p) ∧ cellsWf faultGrp.ln.hv = true ∧ o.act = [0] ∧
       LaneFaultsAt (inLane faultGrp) o .load 0 0x10 true ∧ laneCur.sup = false ∧ faultGrp.sr.lsv ≠ 0) ∧
    (let w := lw 0 2 8 0 0 0 0
     let o := laneOpOf handlerCur faultHandlerGrp w
     (∃ p, LaneRuns (inHandlerLane faultHandlerGrp) handlerCur faultHandlerGrp (.st w) w p) ∧ faultHandlerGrp.sqUsed = 0 ∧
       o.act = [0] ∧ LaneFaultsAt (inHandlerLane faultHandlerGrp) o .store 0 0x10 true ∧ handlerCur.sup = true ∧
       TrapReady (inHandlerLane faultHandlerGrp) faultHandlerGrp 0x10) := by
  refine ⟨⟨⟨_, ?_, rfl, ?_⟩, ?_, ?_, ?_, ?_⟩, ⟨_, ?_, rfl, ?_⟩, ?_, ?_, ?_, ?_⟩
  all_goals repeat' first | decide +kernel | rfl | apply And.intro | apply Or.inl
/-- Context 1, with its tables at 0x100000 and, on the way to 0x4000000000, the level-0 entry `e`. -/
def ctx1 : Context :=
  { spec := ⟨1, 0x100000, 0, 0x5123, 0x6000, 0, 0, 0, 0, 0, 0, 0, false, false, []⟩
    start := none
    cond := none
    logw := 0
    logr := 0
    serial := 5
    gser := 7
    ending := false }
def tabled (s : State) (e : Nat) : State :=
  let b := memWrite (memWrite s.mem.bytes 0x100000 (leBytes 8 0x102001)) 0x102100 (leBytes 8 0x104001)
  { s with ctxs := [ctx1], mem := { s.mem with bytes := memWrite (memWrite b 0x104000 (leBytes 8 0x106001)) 0x106000 (leBytes 8 e) } }

/-- The handler's lane with that level-0 entry and the reserve pool `r`. -/
def mapping (e : Nat) (r : List Nat) : State :=
  let s := tabled (inHandlerLane handlerGrp) e
  s.setDie 0 { s.die 0 with ft := { (s.die 0).ft with reserve := r } }

theorem test_witness_AccumulatorAndMapWordsAct :
    (let w := lw 4 2 0 0 0 4 0xEF0
     let o := laneOpOf laneCur laneGrp w
     (∃ p, LaneRuns (inLane laneGrp) laneCur laneGrp (.accld w) w p) ∧ o.act = [0] ∧ laneOff o 0 + 16 = 4096 ∧
       AccAt (inLane laneGrp) o 16 0 false) ∧
    (let w := lw 0 2 8 0 0 2 0
     let o := laneOpOf laneCur laneGrp w
     (∃ p, LaneRuns (inLane laneGrp) laneCur laneGrp (.accst w) w p) ∧ o.act = [0] ∧
       AccAt (inLane laneGrp) o 4 0 true ∧ memWf ((inLane laneGrp).core 0).acc = true) ∧
    (let w := lw 4 2 5 0 0 0 0
     let o := laneOpOf handlerCur handlerGrp w
     (∃ p, LaneRuns (mapping 0 []) handlerCur handlerGrp (.lsmap w) w p) ∧ handlerCur.sup = true ∧ o.act.head? = some 0 ∧
       (mapping 0 []).ctx? 1 = some ctx1 ∧ canonical (o.src2 w.a 0) = true ∧ o.src2 w.a 0 = 0x4000000100 ∧
       (mapping 0 []).levelZero 0x4000000100 3 ctx1.spec.root.toNat = some (0x106000, 0) ∧
       ((mapping 0 []).die 0).ft.reserve = [] ∧ ((mapping 5 [0x200000]).die 0).ft.reserve = [0x200000] ∧
       (mapping 5 [0x200000]).levelZero 0x4000000100 3 ctx1.spec.root.toNat = some (0x106000, 5) ∧
       (mapping 2 []).levelZero 0x4000000100 3 ctx1.spec.root.toNat = some (0x106000, 2) ∧
       (mapping 0x30003 []).levelZero 0x4000000100 3 ctx1.spec.root.toNat = some (0x106000, 0x30003) ∧
       (∃ l, leafOf 0x4000000100 0x30003 0 = .leaf l) ∧
       ({ mapping 0 [] with mem := State.reset.mem }).levelZero 0x4000000100 3 ctx1.spec.root.toNat = none ∧
       (∃ p, LaneRuns (inLane laneGrp) laneCur laneGrp (.lsmap w) w p) ∧ laneCur.sup = false ∧
       TrapReady (inLane laneGrp) laneGrp causeIllegal) := by
  refine ⟨⟨⟨_, ?_, rfl, ?_⟩, ?_, ?_, ?_⟩, ⟨⟨_, ?_, rfl, ?_⟩, ?_, ?_, ?_⟩,
    ⟨⟨_, ?_, rfl, ?_⟩, ?_, ?_, ?_, ?_, ?_, ?_, ?_, ?_, ?_, ?_, ?_, ⟨_, rfl⟩, ?_, ⟨_, ?_, rfl, ?_⟩, ?_⟩⟩
  all_goals decide +kernel

/-- Team 1 with two channels of two slots, a narrow one from role 0 to role 1 and a wide one back, with `n` slots full. -/
def chan0 (n : Nat) : Channel := ⟨0, 0, 1, 0, 2, false, 0x100, n, 0, false, false, List.replicate n (List.replicate 128 0, [])⟩
def chan1 (n : Nat) : Channel := ⟨1, 0, 0, 0, 2, true, 0x800, n, 0, false, false, List.replicate n (List.replicate 512 0, [])⟩
def teamOf (n : Nat) : Team := ⟨1, 1, 0, 0, [1], 0, 4096, 0, 4096, 0, none, [chan0 n, chan1 n], [], 0, none, false⟩
def inTeam (g : Group) (n : Nat) : State := { inLane g with teams := [teamOf n] }

theorem test_witness_ChannelWordsMoveSlots :
    let ws := lw 0 12 0 0 16 0 0
    let wr := lw 8 0 0 0 1 7 0
    let gi : Group := { laneGrp with idem := true }
    let gs : Group := { laneGrp with ln := { laneGrp.ln with wait := .send laneCur ws } }
    let gr : Group := { laneGrp with ln := { laneGrp.ln with wait := .recv laneCur wr } }
    (ChannelRuns (inTeam laneGrp 1) laneCur laneGrp (.send ws) ws (teamOf 1) (chan0 1) ∧ laneGrp.idem = false ∧
      (inTeam laneGrp 1).sendReady laneGrp (chan0 1) true = true) ∧
    (ChannelRuns (inTeam laneGrp 2) laneCur laneGrp (.send ws) ws (teamOf 2) (chan0 2) ∧
      (inTeam laneGrp 2).sendReady laneGrp (chan0 2) true = false) ∧
    (ChannelRuns (inTeam gi 1) laneCur gi (.send ws) ws (teamOf 1) (chan0 1) ∧ gi.idem = true ∧
      TrapReady (inTeam gi 1) gi 0x0B) ∧
    (ChannelRuns (inTeam laneGrp 1) laneCur laneGrp (.recv wr) wr (teamOf 1) (chan1 1) ∧
      ((inTeam laneGrp 1).core 0).poisonS = [] ∧ (inTeam laneGrp 1).recvReady laneGrp (chan1 1) = true) ∧
    (ChannelRuns (inTeam laneGrp 0) laneCur laneGrp (.recv wr) wr (teamOf 0) (chan1 0) ∧
      (inTeam laneGrp 0).recvReady laneGrp (chan1 0) = false) ∧
    ((inTeam gs 1).group? 1 = some gs ∧ (inTeam gs 1).team? 1 = some (teamOf 1) ∧ (teamOf 1).channels[ws.fn6.toNat % 16]? = some (chan0 1) ∧
      gs.life = .resident ∧ gs.ln.frozen = false ∧ memWf ((inTeam gs 1).core 0).scratch = true ∧
      (inTeam gs 1).sendReady gs (chan0 1) true = true) ∧
    ((teamOf 1).channels[wr.fn6.toNat % 16]? = some (chan1 1) ∧ (inTeam gr 1).group? 1 = some gr ∧
      (inTeam gr 1).recvReady gr (chan1 1) = true) := by
  refine ⟨⟨⟨?_, ?_, ?_, ?_, ⟨_, rfl, ?_⟩⟩, ?_⟩, ⟨⟨?_, ?_, ?_, ?_, ⟨_, rfl, ?_⟩⟩, ?_⟩, ⟨⟨?_, ?_, ?_, ?_, ⟨_, rfl, ?_⟩⟩, ?_⟩,
    ⟨⟨?_, ?_, ?_, ?_, ⟨_, rfl, ?_⟩⟩, ?_⟩, ⟨⟨?_, ?_, ?_, ?_, ⟨_, rfl, ?_⟩⟩, ?_⟩, ?_, ?_⟩
  all_goals repeat' first | decide +kernel | rfl | apply And.intro

/-- Group 1 at its barrier at window offset 0xFF8, to which s3 points, and the team of a grid of its context. -/
def barGrp : Group := grp.withS 3 0xFF8
def grid1 : Grid :=
  { uid := 1, handle := 0x300000001, ctx := 1, reading := none, lrec := launchRec (List.replicate 128 0), chans := [], conductor := false,
    finaliser := none, release := none, placed := 1, dropped := false, since := none, expired := false, fatal := none,
    killed := false, deferred := false, nlog := 0, status := none }
def atBar (g : Group) : State :=
  let s := inGroup g
  { s.setCore 0 { s.core 0 with scratch := memWrite [] 0xFF8 (leBytes 8 2) } with grids := [grid1], teams := [teamOf 0] }

theorem test_witness_BarriersCountArrivals :
    (BarAt (atBar barGrp) barGrp 0xFF8 (teamOf 0) ∧ (∀ i, (i = .barInit 3 1 ∨ i = .barArvRlx 4 3 ∨ i = .barArvRel 4 3 ∨ i = .barArw 4 3 ∨
        i = .barWait 4 3 0 ∨ i = .barQuery 4 3) → Runs (atBar barGrp) cur barGrp i) ∧ barGrp.idem = false ∧
      (atBar barGrp).rlxReady barGrp = true ∧ (atBar barGrp).relReady barGrp = true) ∧
    (let g : Group := { barGrp with sc := { barGrp.sc with wait := .barDone 4 0 2 true } }
     (atBar g).group? 1 = some g ∧ g.life = .resident ∧ g.sc.entry = none ∧ g.stop = none) ∧
    (Runs (atBar barGrp) cur barGrp (.barArvx 3) ∧ (barGrp.getS 3).toNat < 2 ^ 35 ∧ (barGrp.getS 3).toNat % 8 = 0 ∧
      ((atBar barGrp).die 0).world = (atBar barGrp).worldOf barGrp ∧ (atBar barGrp).windowTeam 0 0xFF8 = some (teamOf 0) ∧
      (atBar barGrp).grid? 1 = some grid1 ∧ grid1.ctx = barGrp.place.ctx) ∧
    (let g : Group := { barGrp with place := { barGrp.place with team := 2 }, sc := { barGrp.sc with wait := .barArvx } }
     let tm : Team := { teamOf 0 with members := [2] }
     let r : Arrival := ⟨g.origin 0 false 0, 1, 0, 0xFF8, 2, none⟩
     let s : State := { atBar g with teams := [tm], arrivals := [r] }
     s.arrivals = [r] ∧ r.who.g = g.uid ∧ s.releasedOpt r.marker = true ∧ s.windowTeam r.core r.offset = some tm ∧
       tm.core = r.core ∧ tm.uid ≠ g.place.team ∧ g.uid ∉ tm.members ∧ memWf (s.core r.core).scratch = true ∧
       s.group? g.uid = some g ∧ g.sc.wait = .barArvx ∧ g.sc.entry = none ∧ g.stop = none) := by
  refine ⟨⟨?_, ?_, ?_⟩, ?_, ?_, ?_⟩
  case refine_2 =>
    intro i hi
    rcases hi with rfl | rfl | rfl | rfl | rfl | rfl <;> repeat' first | decide +kernel | rfl | apply And.intro
  all_goals repeat' first | decide +kernel | rfl | apply And.intro
/-- Group 1 as member 0 of a gang of two on cores 0 and 1, with the words of an int8 `mma` of 1 by 32 by 16 in s4 and s5, an
accumulator region in s6 and s7, and a conversion's words in s8 and s9. -/
def matGrp : Group :=
  { (((((grp.withS 4 0x10055).withS 5 0x201001).withS 6 0x10).withS 7 0xF00).withS 8 0x8400000).withS 9 0x10000000 with gang := 0x2002 }
def convGrp : Group := ((matGrp.withS 4 0x8010000).withS 5 1).withS 6 0x20000008
def inMat (g : Group) (ls : List (Nat × Latch)) (ms : List MatOp) : State := { inGroup g with latches := ls, mats := ms }
/-- The arrivals of member 0 and of member 1. -/
def arrived0 : Arrived := ⟨1, 0, 1, 0x2002, 0x10055, 0x201001, 0⟩
def arrived1 : Arrived := ⟨9, 16, 1, 0x2002, 0x10055, 0x201001, 0⟩
/-- An `accz` of the group that has been accepted. -/
def zeroing : MatOp := { matOpOf (inGroup grp) grp (.zero 0x100 0xF00) with uid := 40 }

theorem test_witness_MatrixAndChecksumWordsAct :
    (let g := grp.withS 4 1
     Runs (inGroup g) cur g (.mgang 4) ∧ GangWord g (g.getS 4).toNat) ∧
    (let g := grp.withS 4 2
     Runs (inGroup g) cur g (.mgang 4) ∧ ¬ GangWord g (g.getS 4).toNat ∧ TrapReady (inGroup g) g causeIllegal) ∧
    (Runs (inMat matGrp [] []) cur matGrp (.mma 0 4 5) ∧ MmaWordsOk matGrp 0x10055 0x201001 0 (mmaWords 2 0x10055 0x201001 0) ∧
      matCount (inMat matGrp [] []) 1 < 8 ∧ (∀ l ∈ (inMat matGrp [] []).latches, l.1 ≠ 0)) ∧
    (let l : Latch := ⟨0x2002, 0, [arrived1]⟩
     (inMat matGrp [(0, l)] []).latches = [] ++ (0, l) :: [] ∧ Runs (inMat matGrp [(0, l)] []) cur matGrp (.mma 0 4 5) ∧
       l.gang = matGrp.gang ∧ 0 ∉ l.members.map fun m => m.me) ∧
    (Runs (inGroup matGrp) cur matGrp (.accz 6 7) ∧ (matGrp.getS 6).toNat < 2 ^ 16 ∧ (matGrp.getS 7).toNat % 16 = 0 ∧
      16 * (matGrp.getS 6).toNat + (matGrp.getS 7).toNat = 4096 ∧ (matGrp.getS 7).toNat ≠ 0 ∧
      (inGroup matGrp).mayAccept (matOpOf (inGroup matGrp) matGrp (.zero 0x100 0xF00)) = true) ∧
    (Runs (inGroup matGrp) cur matGrp (.accz 6 0) ∧ (matGrp.getS 0).toNat = 0) ∧
    (Runs (inGroup convGrp) cur convGrp (.accv 6 4 5) ∧ convLegal 0x8010000 0x20000008 1 = true ∧
      16 * (0x8010000 % 2 ^ 16) + 4 * 1 * 16 ≤ convGrp.place.accsize.toNat ∧
      8 + 0 * 0x20 + 16 * formatWidth 1 / 8 ≤ convGrp.place.sxsize.toNat ∧
      (inGroup convGrp).mayAccept (matOpOf (inGroup convGrp) convGrp (.conv 0x8010000 0x20000008 1)) = true) ∧
    (Runs (inGroup grp) cur grp (.mwait 0) ∧ matCount (inGroup grp) 1 ≤ (grp.getS 0).toNat) ∧
    (Runs (inMat grp [] [zeroing]) cur grp (.mwait 0) ∧ (grp.getS 0).toNat < matCount (inMat grp [] [zeroing]) 1) ∧
    Runs (inGroup grp) cur grp (.ckclr 3) ∧ Runs (inGroup grp) cur grp (.ckrd 4 0) ∧ Runs (inGroup grp) cur grp (.ckadd 3 1) ∧
    (∀ t ∈ [1, 3, 5, 7], let g := grp.withS 4 (word t)
      Runs (inGroup g) cur g (.ckchk 4) ∧ g.k[0] = g.k[1] ∧ g.k[2] = g.k[3]) ∧
    (∀ t ∈ [1, 3, 5, 7], let g : Group := { grp.withS 4 (word t) with k := #v[1, 2, 1, 2] }
      Runs (inGroup g) cur g (.ckchk 4) ∧ TrapReady (inGroup g) g 0x08 ∧ g.k[0].toNat % 2 ^ 32 ≠ g.k[1].toNat % 2 ^ 32 ∧
        g.k[2].toNat % 2 ^ 32 ≠ g.k[3].toNat % 2 ^ 32) ∧
    (let g := grp.withS 4 0x3C00
     Runs (inGroup g) cur g (.ckchk 4) ∧ toleranceLegal (g.getS 4) = true ∧ checkReason (g.getS 4) 0 0 = none) ∧
    (let g : Group := { grp.withS 4 2 with k := #v[0x7FF0000000000000, 0, 0, 0] }
     Runs (inGroup g) cur g (.ckchk 4) ∧ toleranceLegal (g.getS 4) = true ∧ checkReason (g.getS 4) g.k[0] g.k[1] = some 2 ∧
       TrapReady (inGroup g) g 0x08) := by
  repeat' first | decide +kernel | rfl | apply And.intro

/-- Members 0 and 1 at their latch; member 1 is a group of core 1. -/
def latched (u slot core : Nat) : Group :=
  { matGrp with uid := u, place := { matGrp.place with core := core, slot := slot }, sc := { matGrp.sc with wait := .latch } }
def meeting : State :=
  { inMat (latched 1 0 0) [(0, ⟨0x2002, 0, [arrived1, arrived0]⟩)] [] with groups := [latched 1 0 0, latched 9 0 1] }

theorem test_witness_MatrixStepsAct :
    (let l : Latch := ⟨0x2002, 0, [arrived1, arrived0]⟩
     (meeting.entriesOf 0)[0]? = some l ∧ l.full = true ∧ meeting.latchReason l = none ∧
       (∀ m ∈ l.members, ∃ g, meeting.group? m.g = some g ∧ g.life = .resident) ∧ (l.inOrder.map fun m => m.g).Nodup) ∧
    (let l : Latch := ⟨0x2002, 0, [arrived0]⟩
     let g := latched 1 0 0
     let s : State := { inMat g [(0, l)] [] with clk := { State.reset.clk with clock := 2 ^ 20 } }
     (s.entriesOf 0)[0]? = some l ∧ l.members = [arrived0] ∧ l.first + 2 ^ 20 ≤ s.clk.clock ∧ l.full = false ∧
       s.group? 1 = some g ∧ g.sc.wait = .latch ∧ g.life = .resident ∧ g.stop = none ∧ g.sc.outst = [] ∧ g.ln.outst = [] ∧
       g.ln.wait.binding = false ∧ 4096 ≤ g.sr.tvb.toNat ∧ s.fetchFails g (handlerOf g.sr.tvb 0x07) = false) ∧
    (let o : MatOp := { zeroing with accepted := false }
     let g : Group := { grp with sc := { grp.sc with wait := .accept 40 } }
     let s := inMat g [] [o]
     s.mats.find? (fun x => x.uid == 40) = some o ∧ o.accepted = false ∧ s.group? 1 = some g ∧ g.sc.wait = .accept 40 ∧
       s.mayAccept o = true ∧ g.sc.entry = none ∧ g.stop = none) ∧
    (∀ k ∈ [MatKind.zero 0x100 0xF00, .conv 0x8010000 0x20000008 1,
        .part 0 2 0x10055 0x201001 0 [List.replicate 256 1, List.replicate 256 2] [[], []] none none],
      let o : MatOp := { zeroing with kind := k }
      let s := inMat grp [] [o]
      s.mats.find? (fun x => x.uid == 40) = some o ∧ o.accepted = true ∧
        s.mats.find? (fun x => x.who.g == 1 && x.accepted) = some o ∧ s.earlierPending 1 o.seq = false ∧
        (s.core 0).poisonS = [] ∧ (s.core 0).poisonA = [] ∧ memWf (s.core 0).acc = true ∧ memWf (s.core 0).scratch = true) ∧
    (let g : Group := { grp with sc := { grp.sc with wait := .mwait 1 } }
     let s := inMat g [] [zeroing]
     s.group? 1 = some g ∧ g.life = .resident ∧ g.sc.wait = .mwait 1 ∧ matCount s 1 ≤ 1 ∧ g.sc.entry = none ∧ g.stop = none) := by
  refine ⟨⟨?_, ?_, ?_, ?_, ?_⟩, ?_, ?_, ?_, ?_⟩
  case refine_4 =>
    intro m hm
    rcases List.mem_cons.mp hm with rfl | hm
    · exact ⟨latched 9 0 1, by decide +kernel⟩
    · rw [List.mem_singleton.mp hm]; exact ⟨latched 1 0 0, by decide +kernel⟩
  all_goals repeat' first | decide +kernel | rfl | apply And.intro
/-- A copy record at 0x4000000100, whose shape record follows it: one row of 16 bytes at 0x4000000200; and a collective record of
one member over one element there. -/
def copyBytes : List Byte := leBytes 8 0x4000000180 ++ List.replicate 120 0
def shapeBytes : List Byte := leBytes 16 0x4000000200 ++ [1, 5, 0, 0] ++ leBytes 4 16 ++ List.replicate 104 0
def collBytes : List Byte :=
  leBytes 8 0x4000000200 ++ leBytes 8 0x4000000204 ++ leBytes 4 1 ++ leBytes 4 1 ++ leBytes 8 7 ++ List.replicate 32 0
def withRecord (s : State) (bs : List Byte) : State :=
  { s with mem := { s.mem with bytes := memWrite s.mem.bytes 0x10100 bs } }

/-- What a read of `n` bytes of the group's page gives. -/
def readAt (s : State) (g : Group) (va : Word) (n : Nat) : State × List Byte :=
  (s.nextFree).2.recordBytes g (s.scPage g.place.ctx va) [(page.phys va, n)]

/-- A record on the group's page. -/
theorem recordAt_page (s : State) (g : Group) (va : Word) (n : Nat) (h : 0 < n ∧ va.toNat % 8192 + n ≤ 8192 ∧
    s.xlate g.place.core g.place.ctx g.sc.walked va = some (.leaf page) ∧ page.check .load (s.worldOf g) = none ∧
    s.recordReady g [(page.phys va, n)] = true ∧ s.asleepAt (page.phys va) = false ∧
    s.portRefuses g.die (s.worldOf g) (page.phys va) = false ∧ s.badIn (page.phys va) n = none) :
    RecordAt s g va n (readAt s g va n).1 (readAt s g va n).2 :=
  ⟨h.1, h.2.1, page, h.2.2.1, h.2.2.2.1, h.2.2.2.2.1, h.2.2.2.2.2.1, h.2.2.2.2.2.2.1, h.2.2.2.2.2.2.2, rfl⟩

/-- An access on the group's page that no stream makes. -/
theorem pageAt_page (s : State) (die ctx : Nat) (world : BitVec 4) (acc : Acc) (va : Word) (n pa : Nat)
    (h : va.toNat % 8192 + n ≤ 8192 ∧ s.tablesAsleep ctx va = false ∧ s.walk ctx va = .leaf page ∧ page.check acc world = none ∧
      pa = page.phys va ∧ s.asleepAt pa = false ∧ s.portRefuses die world pa = false ∧ s.tramir.ranges = [] ∧
      pa + n ≤ 0x3FE00000000) : PageAt s die ctx world acc va n pa :=
  ⟨h.1, h.2.1, page, h.2.2⟩

/-- The copy engine's witnesses: the state with the records, and with a lock that meets the copy's. -/
def copying (g : Group) : State := withRecord (inGroup g) (copyBytes ++ shapeBytes)
def lockedOut : State :=
  (copying grp).setCore 0 { (copying grp).core 0 with locks := [⟨99, 1, 0, 0, 4096, true⟩] }
/-- The state once the word has read its records. -/
def recordsRead (s : State) (g : Group) : State := (readAt (readAt s g 0x4000000100 64).1 g 0x4000000180 128).1

theorem engineWord_copy (s : State) (g : Group) (h : g = grp ∨ g = { grp with tokens := List.replicate 16 ⟨some 9, [], none⟩ })
    (hs : s = copying g ∨ s = lockedOut) :
    ∃ kind, EngineWord s g (.cpyG2s 4 3 false false true) 4 kind (recordsRead s g) 0x4000000200 := by
  refine ⟨_, .inl ⟨0, 3, false, false, true, (readAt s g 0x4000000100 64).1, (readAt s g 0x4000000100 64).2,
    (readAt (readAt s g 0x4000000100 64).1 g 0x4000000180 128).2, rfl, ?_, ?_, ?_, ?_, ?_, .inr ?_, rfl, ?_⟩⟩
  case refine_2 =>
    rcases h with rfl | rfl <;> rcases hs with rfl | rfl <;> exact recordAt_page _ _ 0x4000000100 64 (by decide +kernel)
  case refine_4 =>
    have e : (copyRec (readAt s g 0x4000000100 64).2).shapep = 0x4000000180 := by
      rcases h with rfl | rfl <;> rcases hs with rfl | rfl <;> decide +kernel
    rw [e]
    rcases h with rfl | rfl <;> rcases hs with rfl | rfl <;> exact recordAt_page _ _ _ 128 (by decide +kernel)
  all_goals (rcases h with rfl | rfl <;> rcases hs with rfl | rfl <;> decide +kernel)

/-- A collective word of the group. -/
theorem engineWord_coll (s : State) (g : Group) (i : Instr) (op sc : Nat) (hi : collForm i = some (op, 4, 3, false, sc))
    (h : g = grp ∨ g = { grp with idem := true }) (hs : s = withRecord (inGroup g) collBytes)
    (hv : collValid op (readAt s g 0x4000000100 64).2 = true) :
    ∃ kind, EngineWord s g i 4 kind (readAt s g 0x4000000100 64).1 0 := by
  refine ⟨_, .inr ⟨op, 3, false, sc, (readAt s g 0x4000000100 64).2, hi, ?_, ?_, hv, rfl, rfl⟩⟩
  all_goals rcases h with rfl | rfl <;> subst hs
  · decide +kernel
  · decide +kernel
  · exact recordAt_page _ _ 0x4000000100 64 (by decide +kernel)
  · exact recordAt_page _ _ 0x4000000100 64 (by decide +kernel)

theorem test_witness_EngineWordsStartAnOperation :
    (∀ g ∈ [grp, { grp with tokens := List.replicate 16 ⟨some 9, [], none⟩ }],
      Runs (copying g) cur g (.cpyG2s 4 3 false false true) ∧
        ∃ kind, EngineWord (copying g) g (.cpyG2s 4 3 false false true) 4 kind (recordsRead (copying g) g) 0x4000000200) ∧
    TokenFor grp 0 ∧ (∃ kind, EngineWord lockedOut grp (.cpyG2s 4 3 false false true) 4 kind (recordsRead lockedOut grp) 0x4000000200) ∧
    (let o : EngOp := { engOpOf (recordsRead (copying grp) grp) grp 4 (.copy 0 false false true (copyRec copyBytes) (shapeRec shapeBytes)) with
       base := 0x4000000200 }
     ((copying grp).core 0).mayLock o.locks [] = true ∧ (copying grp).lockTurn 0 0 1 = true ∧ (lockedOut.core 0).mayLock o.locks [] = false) ∧
    (let s := withRecord (inGroup grp) collBytes
     Runs s cur grp (.collSum 4 3 false 5) ∧
       (∃ kind, EngineWord s grp (.collSum 4 3 false 5) 4 kind (readAt s grp 0x4000000100 64).1 0) ∧ grp.idem = false) ∧
    (let g : Group := { grp with idem := true }
     let s := withRecord (inGroup g) collBytes
     Runs s cur g (.collBcast 4 3 false 2) ∧
       (∃ kind, EngineWord s g (.collBcast 4 3 false 2) 4 kind (readAt s g 0x4000000100 64).1 0) ∧ g.idem = true ∧
       TrapReady (readAt s g 0x4000000100 64).1 g 0x0B) := by
  refine ⟨?_, ?_, engineWord_copy _ _ (.inl rfl) (.inr rfl), ?_, ⟨?_, engineWord_coll _ _ _ 0 5 rfl (.inl rfl) rfl ?_, ?_⟩,
    ⟨?_, engineWord_coll _ _ _ 4 2 rfl (.inr rfl) rfl ?_, ?_⟩⟩
  case refine_1 =>
    intro g hg
    rcases List.mem_cons.mp hg with rfl | hg
    · exact ⟨by decide +kernel, engineWord_copy _ _ (.inl rfl) (.inl rfl)⟩
    · rw [List.mem_singleton.mp hg]; exact ⟨by decide +kernel, engineWord_copy _ _ (.inr rfl) (.inl rfl)⟩
  case refine_2 => exact ⟨by decide, by decide, by decide, 0, by decide, by decide, fun _ h => absurd h (Nat.not_lt_zero _)⟩
  all_goals repeat' first | decide +kernel | rfl | apply And.intro

/-- Group 1 with the mask of tokens 0 and 15 in s4, of which token 15 is outstanding or not, and one that holds a fault record. -/
def tokenGrp (t15 : Token) : Group :=
  { grp.withS 4 0x8001 with tokens := (List.replicate 16 (⟨none, [], none⟩ : Token)).set 15 t15 }
def tokenWaits (w : ScalarWait) : Group :=
  { tokenGrp ⟨none, [514], none⟩ with sc := { (tokenGrp ⟨none, [514], none⟩).sc with wait := w } }

/-- An accepted copy of one row to the scratchpad, one that waits for a token, and a collective of `n` members. -/
def copyOp : EngOp :=
  { engOpOf (inGroup grp) grp 4 (.copy 0 false false true (copyRec copyBytes) (shapeRec shapeBytes)) with
    uid := 40
    base := 0x4000000200
    started := some 0 }
def collOp (n : Nat) : EngOp :=
  { copyOp with kind := .coll 0 5 false { collRec collBytes with nmem := n } }
def inEngine (g : Group) (os : List EngOp) : State := { tabled (copying g) 0x1007B with engs := os }
/-- The group at a word that waits for a token. -/
def starting : Group := { tokenGrp ⟨none, [], none⟩ with sc := { grp.sc with wait := .copyToken 40 } }
theorem starting_token : TokenFor starting 0 :=
  ⟨by decide, by decide, by decide, 0, by decide, by decide, fun _ h => absurd h (Nat.not_lt_zero _)⟩

theorem test_witness_TokenWordsAct :
    (let g := tokenGrp ⟨none, [514], none⟩
     g.tokens.length = 16 ∧ g.unhindered ∧ Runs (inGroup g) cur g (.cpyw 5 4) ∧ Runs (inGroup g) cur g (.cpywPoll 5 4) ∧
       Runs (inGroup g) cur g (.yieldc 4 0x1000) ∧ g.sc.outst = [] ∧ (g.getS 4).toNat < 2 ^ 16 ∧
       ∀ t < 16, (g.getS 4).getLsbD t = true → (g.token t).op = none ∧ (g.token t).fault = none) ∧
    (let g := tokenGrp ⟨some 9, [], none⟩
     Runs (inGroup g) cur g (.cpyw 5 4) ∧ Runs (inGroup g) cur g (.cpywPoll 5 4) ∧ Runs (inGroup g) cur g (.yieldc 4 1) ∧
       (g.getS 4).getLsbD 15 = true ∧ (g.token 15).op = some 9) ∧
    (let f : TokenFault := ⟨0x10, 0x4000000000, 0⟩
     let g := tokenGrp ⟨none, [], some f⟩
     Runs (inGroup g) cur g (.cpyw 5 4) ∧ (g.getS 4).getLsbD 15 = true ∧ (g.token 15).op = none ∧ (g.token 15).fault = some f ∧
       f.cause ≠ 9 ∧ f.cause ≠ 10 ∧ (∀ k < 15, (g.token k).fault = none) ∧ TrapReady (inGroup g) g 0x10) ∧
    (∀ w ∈ [ScalarWait.cpyw 5 0x8001, .yieldc 0x8001 0x4000000010], let g := tokenWaits w
      (inGroup g).group? 1 = some g ∧ g.life = .resident ∧ g.sc.wait = w ∧ g.unhindered ∧ g.sc.outst = [] ∧
        ∀ t < 16, (g.token t).op = none ∧ (g.token t).fault = none) ∧
    (∀ o ∈ [copyOp, collOp 1], let g := tokenGrp ⟨some 40, [], none⟩
      let p : EngOp := { o with token := 15, acks := some [] }
      let s := inEngine g [p]
      s.engs.find? (fun x => x.uid == p.uid) = some p ∧ p.who.g = g.uid ∧ s.group? 1 = some g ∧ p.acks = some [] ∧
        p.kind.isColl = (o.kind != copyOp.kind) ∧ s.engineReady p = true) ∧
    (let g := starting
     let p : EngOp := { copyOp with started := none }
     let s := inEngine g [p]
     g.tokens.length = 16 ∧ g.unhindered ∧ s.engs.find? (fun x => x.uid == p.uid) = some p ∧ p.who.g = g.uid ∧ s.group? 1 = some g ∧
       g.place.core = p.who.core ∧ p.started = none ∧ g.sc.wait = .copyToken 40 ∧ g.life = .resident ∧ TokenFor g 0 ∧
       (s.core 0).mayLock copyOp.locks [] = true ∧
       ({ s with engs := s.engs.filter fun x => x.uid != p.uid } : State).lockTurn 0 0 1 = true) ∧
    (let g := tokenGrp ⟨some 40, [], none⟩
     let p : EngOp := { collOp 2 with token := 15 }
     let s : State := { inEngine g [p] with clk := { State.reset.clk with clock := 2 ^ 24 } }
     ∃ m, s.engs.find? (fun x => x.uid == p.uid) = some p ∧ p.member = some m ∧ s.collMembers m = [m] ∧ m.r.nmem = 2 ∧
       m.o.started = some 0 ∧ 0 + 2 ^ 24 ≤ s.clk.clock ∧ s.group? m.o.who.g = some g ∧ m.o.token < g.tokens.length) := by
  refine ⟨?_, ?_, ?_, ?_, ?_, ?_, ⟨_, ?_, rfl, ?_⟩⟩
  all_goals repeat' first | decide +kernel | rfl | exact starting_token | apply And.intro

theorem test_witness_EngineStepsAct :
    (let g : Group := { grp with sc := { grp.sc with wait := .copyToken 40 } }
     let o : EngOp := { copyOp with started := none }
     let s := inEngine g [o]
     s.engs.find? (fun x => x.uid == o.uid) = some o ∧ s.group? o.who.g = some g ∧ g.place.core = o.who.core ∧ o.started = none ∧
       g.sc.wait = .copyToken 40 ∧ g.life = .resident ∧ g.unhindered ∧ (s.core 0).mayLock copyOp.locks [] = true ∧
       ({ s with engs := s.engs.filter fun x => x.uid != o.uid } : State).lockTurn 0 0 1 = true) ∧
    (let s := inEngine grp [copyOp]
     s.group? copyOp.who.g = some grp ∧ s.engineReady copyOp = true ∧ copyOp.acks = none ∧ copyOp.fault = none ∧
       memWf (s.core 0).scratch = true ∧
       let p := s.copyPlan copyOp 0 false (copyRec copyBytes) (shapeRec shapeBytes) 1 0
       copyRows 0 (copyRec copyBytes) (shapeRec shapeBytes) = 1 ∧ p.1 = s ∧ p.2.2.isNone = true ∧ copyOp.sent = [] ∧
         s.copyLive copyOp false (shapeRec shapeBytes) = true ∧ plainCells s []) ∧
    (∀ x ∈ [collOp 1, collOp 2], ∃ m, x.member = some m ∧
      (inEngine grp [x]).collMembers m = [m] ∧ (inEngine grp [x]).group? x.who.g ≠ none) ∧
    (let s : State := { inEngine grp [collOp 2] with clk := { State.reset.clk with clock := 2 ^ 24 } }
     s.engs.find? (fun x => x.uid == 40) = some (collOp 2) ∧ (collOp 2).started = some 0 ∧ 0 + 2 ^ 24 ≤ s.clk.clock) ∧
    (let o := collOp 1
     let s := inEngine grp [o]
     let s1 := s.counted 5 0
     s.engineReady o = true ∧ (s.engineLoad o 0x4000000200 4).1 = s ∧ (s.engineLoad o 0x4000000200 4).2.toOption.isSome = true ∧
       (s1.engineDest o 0x4000000204 4).1 = s1 ∧ (s1.engineDest o 0x4000000204 4).2.toOption = some [0x10204, 0x10205, 0x10206, 0x10207] ∧
       plainCells s ([0x10204, 0x10205, 0x10206, 0x10207].zip [0, 0, 0, 0]) ∧ o.fault = none ∧ o.sent = []) := by
  refine ⟨?_, ?_, ?_, ?_⟩
  case refine_3 =>
    intro x hx
    rcases List.mem_cons.mp hx with rfl | hx
    · exact ⟨_, rfl, rfl, by decide +kernel⟩
    · rw [List.mem_singleton.mp hx]; exact ⟨_, rfl, rfl, by decide +kernel⟩
  all_goals repeat' first | decide +kernel | rfl | apply And.intro
/-- A state whose context holds every Plumb page of stack 0, and with the replica of die 0 stale or current. -/
def plumbing (g : Group) (stale : Bool) : State :=
  let s := (inGroup g).setStack 0 { (inGroup g).stack 0 with pg := List.replicate 16 (word (2 ^ 63 + 2 ^ 32)) }
  s.setDie 0 { s.die 0 with stale := stale }
def plGrp (o : Word) (idem : Bool) : Group := { grp.withS 4 o with idem := idem }
/-- A Plumb operation of the group at offset 0xFFFF8, in the queue of its die's port. -/
def plumbOp (fn : Nat) : PlumbReq := ⟨some (grp.origin 0 false 0), 30, 0, 0, 0, 0xFFFF8, fn, 7, 0, 0, none⟩
def queued (fn : Nat) : State :=
  (plumbing grp false).setDie 0 { (plumbing grp false).die 0 with port := [plumbOp fn] }

theorem test_witness_PlumbWordsAct :
    (∀ i ∈ [Instr.plst 5 4 1, .plamoAdd 5 4 1, .plamoMax 0 4 1, .plamoCas 5 4 1], let g := plGrp 0xFFFF8 false
      Runs (plumbing g false) cur g i ∧ (plumbForm i).isSome ∧ (plumbing g false).holdsPage 0 1 15 = true ∧ g.idem = false ∧
        (plumbing g false).plumbOut g < 16 ∧ ((plumbing g false).die 0).port.length < 64 ∧ ((plumbing g false).die 0).stale = false ∧
        ((plumbing g false).die 0).portWait = [] ∧ (plumbing g false).releasedOpt g.plFence = true) ∧
    (let g := plGrp 0xFFFFC false
     Runs (plumbing g false) cur g (.plst 5 4 1) ∧ (g.getS 4).toNat % 8 ≠ 0 ∧ TrapReady (plumbing g false) g 0x05) ∧
    (let g := plGrp 0x100000 false
     Runs (plumbing g false) cur g (.plst 5 4 1) ∧ 2 ^ 20 ≤ (g.getS 4).toNat ∧ TrapReady (plumbing g false) g 0x10) ∧
    (let g := plGrp 0xFFFF8 false
     Runs (inGroup g) cur g (.plst 5 4 1) ∧ (inGroup g).holdsPage 0 1 15 = false ∧ TrapReady (inGroup g) g 0x11) ∧
    (let g := plGrp 0xFFFF8 true
     Runs (plumbing g false) cur g (.plst 5 4 1) ∧ g.idem = true ∧ TrapReady (plumbing g false) g 0x0B) ∧
    (let g := plGrp 0xFFFF8 false
     Runs (plumbing g true) cur g (.plst 5 4 1) ∧ ((plumbing g true).die 0).stale = true ∧ Runs (plumbing g true) cur g (.plsync 4)) ∧
    Runs (inGroup grp) cur grp .plfence ∧ (Runs (inGroup grp) cur grp .plwait ∧ (inGroup grp).plumbDone grp = true) ∧
    (Runs (queued 0) cur grp .plwait ∧ (queued 0).plumbDone grp = false) ∧ Runs (inGroup grp) cur grp (.plsync 4) ∧
    (∀ w ∈ [ScalarWait.plwait, .plsync 4], let g : Group := { grp with sc := { grp.sc with wait := w } }
      (inGroup g).group? 1 = some g ∧ g.life = .resident ∧ g.unhindered ∧ g.sc.wait = w ∧ (inGroup g).plumbDone g = true ∧
        ((inGroup g).die 0).stale = false) := by
  repeat' first | decide +kernel | rfl | apply And.intro

/-- Dies 1 to 7 of a state that lists no die but die 0 are as after reset. -/
theorem die_other (s : State) (d : Die) (h : s.dies = [(0, d)]) (e : Nat) (he : e ≠ 0) : s.die e = Die.empty := by
  simp [State.die, look, h, he, eq_comm]

theorem test_witness_PlumbSlotsApplyInOrder :
    (∀ fn ∈ [0, 1, 2, 3],
      ((queued fn).stack 0).slot ≤ (queued fn).clk.tick ∧ ((queued fn).stack 0).boundary = false ∧
        (queued fn).slotOwner 0 0 = some 0 ∧ ((queued fn).die 0).port = plumbOp fn :: [] ∧
        (plumbOp fn).who = some (grp.origin 0 false 0) ∧ (queued fn).group? 1 = some grp ∧ ((queued fn).die 0).resync = none) ∧
    (∀ e, ((queued 0).die e).portWait = [] ∧ memWf ((queued 0).die e).replica = true) ∧
    (let s := (inGroup grp).setStack 1 { (inGroup grp).stack 1 with slot := 63 }
     let s : State := { s with clk := { s.clk with tick := 63 } }
     (s.stack 1).slot ≤ s.clk.tick ∧ (s.stack 1).boundary = false ∧ s.slotOwner 1 63 = none) ∧
    (let k := { Stack.empty with pgNew := [(15, word (2 ^ 63 + 2 ^ 32))] }
     let s := (inGroup grp).setStack 0 k
     (s.stack 0).slot ≤ s.clk.tick ∧ (s.stack 0).boundary = true) ∧
    (let s := (inGroup grp).setStack 0 { (inGroup grp).stack 0 with slot := 9 }
     let s := s.setDie 7 { s.die 7 with stale := true, resync := some ⟨8, [], 0⟩ }
     (s.die 7).awake = true ∧ (s.die 7).resync = some ⟨8, [], 0⟩ ∧ 8 < (s.stack 0).slot) := by
  refine ⟨?_, ?_, ?_, ?_, ?_⟩
  case refine_2 =>
    intro e
    by_cases he : e = 0
    · rw [he]; decide +kernel
    · rw [die_other (queued 0) _ rfl e he]; decide
  all_goals repeat' first | decide +kernel | rfl | apply And.intro

/-- A handle of die 0, index 1, generation 1 and exponent `e`; and a creation record, with ENC `enc`. -/
def handle (e : Nat) : Word := handleWith 1 false e 0 1
def creation (enc : Nat) : List Byte := List.replicate 32 0 ++ [BitVec.ofNat 8 enc] ++ List.replicate 31 0
def thGrp (x y : Word) (idem : Bool) : Group := { (grp.withS 4 x).withS 5 y with idem := idem }

theorem test_witness_TensorWordsAct :
    (∀ i ∈ [Instr.thcopy 6 4, .thdrop 4], let g := thGrp (handle 5) 0 true
      Runs (inGroup g) cur g i ∧ g.idem = true ∧ TrapReady (inGroup g) g 0x0B) ∧
    (∀ i ∈ [Instr.thcopy 6 4, .thdrop 4, .tver 6 4, .thbind 4 5, .thinfo 6 4 5], let g := thGrp (handle 63) 0 false
      Runs (inGroup g) cur g i ∧ Malformed (g.getS 4) ∧ (g.getS 5).toNat % 128 = 0 ∧ (g.getS 5).toNat ≤ 10 ∧
        TrapReady (inGroup g) g 0x15) ∧
    (∀ e ∈ [0, 62], let g := thGrp (handle e) 0 false
      Runs (inGroup g) cur g (.thcopy 6 4) ∧ Runs (inGroup g) cur g (.thdrop 4) ∧ ¬ Malformed (g.getS 4) ∧ expOf (g.getS 4) = e ∧
        Runs (inGroup g) cur g (.thbind 4 5) ∧ Runs (inGroup g) cur g (.tver 6 4) ∧ Runs (inGroup g) cur g (.thinfo 6 4 5)) ∧
    (let g := thGrp (handle 0) 10 false
     Runs (inGroup g) cur g (.thinfo 6 4 5) ∧ (g.getS 5).toNat ≤ 10 ∧ Runs (inGroup g) cur g (.thbind 4 5) ∧
       (g.getS 5).toNat % 128 ≠ 0 ∧ TrapReady (inGroup g) g 0x05) ∧
    (let g := thGrp (handle 0) 11 false
     Runs (inGroup g) cur g (.thinfo 6 4 5) ∧ 10 < (g.getS 5).toNat ∧ TrapReady (inGroup g) g causeIllegal) ∧
    (∀ x ∈ [(1, 0, false), (62, 0, false), (63, 0, false), (1, 3, false), (1, 0, true)],
      let g := thGrp 0x4000000100 (word x.1) x.2.2
      let s := withRecord (inGroup g) (creation x.2.1)
      let r := readAt s g 0x4000000100 64
      Runs s cur g (.thnew 6 4 5) ∧ (g.getS 4).toNat % 64 = 0 ∧ RecordAt s g 0x4000000100 64 r.1 r.2 ∧
        (CreationOk (s.worldOf g) r.2 ↔ x.2.1 = 0) ∧ TrapReady r.1 g 0x15 ∧ TrapReady r.1 g 0x0B) := by
  refine ⟨?_, ?_, ?_, ?_, ?_, ?_⟩
  case refine_6 =>
    intro x hx
    simp only [List.mem_cons, List.not_mem_nil, or_false] at hx
    rcases hx with rfl | rfl | rfl | rfl | rfl <;>
      exact ⟨by decide +kernel, by decide +kernel, recordAt_page _ _ _ 64 (by decide +kernel), by decide +kernel, by decide +kernel,
        by decide +kernel⟩
  all_goals repeat' first | decide +kernel | rfl | apply And.intro

/-- Tensor 1 of die 0, in a state, and a return of weight `2^e` to it. -/
def tensor1 (state : Nat) (parent : Word) : Tensor := ⟨1, state, 0, 0, 1, 0, 0, 0, 1, 0, 0, 32, 0, parent, 0⟩
def inTensor (w : ScalarWait) (t : List Tensor) (r : List Return) : State :=
  let s := inGroup { grp with sc := { grp.sc with wait := w } }
  { s.setDie 0 { s.die 0 with tensors := t } with returns := r }
def return5 (e : Nat) : Return := ⟨handle e, grp.origin 0 false 0, none, false⟩

theorem test_witness_TensorStepsAct :
    (∀ op ∈ [TensorOp.create 6 62 0 0 0 0 0, .split 6 4 (handle 0)], let s := inTensor (.tensor op) [] []
      let g : Group := { grp with sc := { grp.sc with wait := .tensor op } }
      s.group? 1 = some g ∧ g.life = .resident ∧ g.unhindered ∧ (s.die 0).awake = true ∧ g.sc.wait = .tensor op ∧
        (s.die 0).tensors = []) ∧
    LowestFree ((inTensor .ready [] []).die 0) 1 ∧
    (∀ op ∈ [TensorOp.bind (handle 5) 0x4000000100, .version 6 (handle 5) 77, .info 6 (handle 5) 10],
      let s := inTensor (.tensor op) [tensor1 1 0] []
      let g : Group := { grp with sc := { grp.sc with wait := .tensor op } }
      s.group? 1 = some g ∧ g.unhindered ∧ (s.die (homeOf (handle 5))).awake = true ∧
        (s.liveTensor 1 0 (handle 5)).toOption = some (0, tensor1 1 0) ∧ s.released 77 = true ∧
        (tensor1 1 0).version.toNat < 2 ^ 32 - 1) ∧
    (let s := inTensor (.tensor (.info 6 (handle 5) 0)) [] []
     (s.entryOfHandle 1 0 (handle 5)).toOption = none ∧ (s.die (homeOf (handle 5))).awake = true) ∧
    (let op : TensorOp := .bind (handle 5) 0
     let s := inTensor (.tensor op) [] []
     let g : Group := { grp with sc := { grp.sc with wait := .tensor op } }
     s.mayAnswer g op = true ∧ (s.tensorAnswer g op).toOption.isNone = true ∧ g.sc.outst = [] ∧ g.ln.outst = [] ∧
       g.ln.wait.binding = false ∧ 4096 ≤ g.sr.tvb.toNat ∧ s.fetchFails g (handlerOf g.sr.tvb 0x15) = false) ∧
    (∀ x ∈ [(4, 1, 0), (5, 1, 0), (5, 4, handle 7), (6, 1, 0)],
      let t := tensor1 x.2.1 x.2.2
      let s := inTensor .ready [t] [return5 x.1]
      s.returns[0]? = some (return5 x.1) ∧ s.releasedOpt none = true ∧ (s.die (homeOf (return5 x.1).handle)).awake = true ∧
        s.tensor? 0 1 = some t ∧ ((s.die 0).gen 1).toNat = (return5 x.1).handle.toNat / 2 ^ 47 % 2 ^ 16 ∧ t.ctx = (return5 x.1).who.ctx ∧
        t.world = (return5 x.1).who.world ∧ (t.state = 1 ∨ t.state = 4) ∧ t.returned.toNat + 2 ^ expOf (return5 x.1).handle < 2 ^ 64) := by
  refine ⟨?_, ⟨by decide, by decide, by decide, fun j h1 h2 => absurd h1 (Nat.not_le.mpr h2)⟩, ?_, ?_, ?_, ?_⟩
  all_goals repeat' first | decide +kernel | rfl | apply And.intro
/-- A launch record of one role of one group with 8 registers and 512 bytes of scratch, whose channels, if it has any, stand at
0x4000000180; and a channel from role 0 to itself. -/
def launchBytes (nchan : Nat) : List Byte :=
  leBytes 8 0x4000000000 ++ leBytes 8 0x4000000000 ++ leBytes 2 1 ++ leBytes 2 1 ++ leBytes 2 1 ++ leBytes 2 0
    ++ leBytes 8 (2 ^ 32 + 2 ^ 40 * 8) ++ leBytes 24 0 ++ leBytes 4 512 ++ leBytes 4 0 ++ leBytes 1 1 ++ leBytes 4 0 ++ leBytes 1 nchan ++ leBytes 2 0
    ++ leBytes 8 7 ++ leBytes 8 0x4000000180 ++ leBytes 40 0
def channelBytes : List Byte := leBytes 4 0 ++ leBytes 1 2 ++ leBytes 11 0
/-- The grid of the group, which may launch, with two roles; and a second grid, with or without a status. -/
def gridHere (conductor : Bool) : Grid :=
  { grid1 with
    conductor := conductor
    lrec := { grid1.lrec with entry := 0x4000000000, roles := [⟨0, 1, 256, 0, false⟩, ⟨0x200, 2, 255, 1, false⟩] } }
def grid2 (status : Option Word) : Grid := { grid1 with uid := 2, handle := 0x200000001, status := status }
def inGrid (g : Group) (gs : List Grid) (nchan : Nat) : State :=
  { withRecord (inGroup g) (launchBytes nchan ++ channelBytes) with grids := gs, ctxs := [ctx1] }

theorem gridOf_one (s : State) (x : Word) (y z : Grid) (h : s.gridOf 1 x = some y) (hz : s.gridOf 1 x = some z) : y = z :=
  Option.some.inj (h.symm.trans hz)

theorem openGrids_replicate (s : State) (c n : Nat) (x y : Grid) (h : s.grids = x :: List.replicate n y)
    (hx : (x.ctx == c && x.status.isNone) = true) (hy : (y.ctx == c && y.status.isNone) = true) : s.openGrids c = n + 1 := by
  have e : (List.filter (fun t : Grid => t.ctx == c && t.status.isNone) (x :: List.replicate n y)).length = n + 1 := by
    rw [List.filter_cons_of_pos (by exact hx), List.filter_replicate_of_pos (by exact hy), List.length_cons, List.length_replicate]
  rw [State.openGrids, h, e]

/-- The channel declarations of the launch record that names one. -/
theorem channels_page : let s := inGrid grp [gridHere true] 1
    let r := readAt s grp 0x4000000100 128
    ∃ t cb, ChannelsOf r.1 grp r.2 t cb := by
  refine ⟨(readAt (readAt (inGrid grp [gridHere true] 1) grp 0x4000000100 128).1 grp 0x4000000180 16).1,
    (readAt (readAt (inGrid grp [gridHere true] 1) grp 0x4000000100 128).1 grp 0x4000000180 16).2,
    .inr ⟨by decide +kernel, by decide +kernel, ?_⟩⟩
  rw [show (field (readAt (inGrid grp [gridHere true] 1) grp 0x4000000100 128).2 0x50 8) = 0x4000000180 by decide +kernel,
    show (field (readAt (inGrid grp [gridHere true] 1) grp 0x4000000100 128).2 0x45 1) = 1 by decide +kernel]
  exact recordAt_page _ _ _ 16 (by decide +kernel)

theorem test_witness_GridWordsAct :
    (∀ nchan ∈ [0, 1], let s := inGrid grp [gridHere true] nchan
      let r := readAt s grp 0x4000000100 128
      Runs s cur grp (.launch 4 3) ∧ RecordAt s grp 0x4000000100 128 r.1 r.2 ∧ grp.getS 3 = 0x4000000100 ∧ grp.idem = false ∧
        MayLaunch s grp ∧ (∃ t cb, ChannelsOf r.1 grp r.2 t cb) ∧ s.ctx? 1 = some ctx1 ∧
        s.openGrids 1 < 4096 ∧ ctx1.ending = false ∧ ∀ y ∈ s.grids, y.uid ≠ s.sched.uid + 1) ∧
    (let g : Group := { grp with idem := true }
     let s := inGrid g [gridHere true] 0
     let r := readAt s g 0x4000000100 128
     Runs s cur g (.launch 4 3) ∧ RecordAt s g 0x4000000100 128 r.1 r.2 ∧ TrapReady r.1 g 0x0B) ∧
    (let s := inGrid grp [gridHere false] 0
     let r := readAt s grp 0x4000000100 128
     Runs s cur grp (.launch 4 3) ∧ RecordAt s grp 0x4000000100 128 r.1 r.2 ∧ ¬ MayLaunch s grp ∧ TrapReady r.1 grp 0x11) ∧
    (let s := inGrid grp (gridHere true :: List.replicate 4095 (grid2 none)) 0
     4096 ≤ s.openGrids 1) ∧
    (∀ h ∈ [0x300000001, 0], let g := grp.withS 4 h
      let s := inGrid g [gridHere true] 0
      Runs s cur g (.gwait 5 4) ∧ Runs s cur g (.gquery 5 4) ∧ ∀ y, s.gridOf 1 h = some y → y.uid = g.place.grid) ∧
    (∀ st ∈ [none, some 0x205], let g := grp.withS 4 0x200000001
      let s := inGrid g [gridHere true, grid2 st] 0
      Runs s cur g (.gwait 5 4) ∧ Runs s cur g (.gquery 5 4) ∧ s.gridOf 1 0x200000001 = some (grid2 st) ∧
        (grid2 st).uid ≠ g.place.grid) ∧
    (∀ n ∈ [1, 2, 4], let g := grp.withS 4 (word n)
      let s := inGrid g [gridHere true] 0
      s.grid? 1 = some (gridHere true) ∧ Runs s cur g (.rolesw 4) ∧ TrapReady s g causeIllegal ∧ Runs s cur g (.roleq 5 4) ∧
        (((gridHere true).lrec.role n).count = if n = 1 then 2 else 0) ∧ (n = 1 → RoleFits s g ((gridHere true).lrec.role n)) ∧
        g.unhindered) ∧
    (let g := (blocks 1).withS 4 1
     let s := inGrid g [gridHere true] 0
     Runs s cur g (.rolesw 4) ∧ ¬ RoleFits s g ((gridHere true).lrec.role 1)) := by
  refine ⟨?_, ?_, ?_, ?_, ?_, ?_, ?_, ?_⟩
  · intro n hn
    rcases List.mem_cons.mp hn with rfl | hn
    · exact ⟨by decide +kernel, recordAt_page _ _ _ 128 (by decide +kernel), rfl, rfl, ⟨gridHere true, by decide +kernel, .inl rfl⟩,
        ⟨_, [], .inl ⟨by decide +kernel, rfl, rfl⟩⟩, by decide +kernel, by decide +kernel, rfl, by decide +kernel⟩
    · rw [List.mem_singleton.mp hn]
      exact ⟨by decide +kernel, recordAt_page _ _ _ 128 (by decide +kernel), rfl, rfl, ⟨gridHere true, by decide +kernel, .inl rfl⟩,
        channels_page, by decide +kernel, by decide +kernel, rfl, by decide +kernel⟩
  · exact ⟨by decide +kernel, recordAt_page _ _ _ 128 (by decide +kernel), by decide +kernel⟩
  · refine ⟨by decide +kernel, recordAt_page _ _ _ 128 (by decide +kernel), ?_, by decide +kernel⟩
    rintro ⟨t, ht, h⟩
    obtain rfl := Option.some.inj (ht.symm.trans (by decide +kernel : _ = some (gridHere false)))
    revert h; decide +kernel
  · exact Nat.le_of_eq (openGrids_replicate _ 1 4095 _ _ rfl (by decide +kernel) (by decide +kernel)).symm
  · intro h hh
    rcases List.mem_cons.mp hh with rfl | hh
    · refine ⟨by decide +kernel, by decide +kernel, fun y hy => ?_⟩
      rw [gridOf_one _ _ y (gridHere true) hy (by decide +kernel)]; rfl
    · rw [List.mem_singleton.mp hh]
      refine ⟨by decide +kernel, by decide +kernel, fun y hy => ?_⟩
      exact absurd (hy.symm.trans (by decide +kernel : _ = none)) (by simp)
  · intro st hst
    rcases List.mem_cons.mp hst with rfl | hst
    · decide +kernel
    · rw [List.mem_singleton.mp hst]; decide +kernel
  · decide +kernel
  · decide +kernel

/-- A grid of one team, and the state in which it is the only one. -/
def waitingGrid (since : Option Nat) : Grid := { grid1 with lrec := launchRec (launchBytes 0), placed := 0, since := since }
def scanning : State := { State.reset with ctxs := [ctx1], grids := [waitingGrid (some 0)] }

theorem test_scan_places_the_grid : scanning.scanned.nextPlacement = some (waitingGrid (some 0), 0) := by decide +kernel

theorem test_witness_GridStepsAct :
    (scanning.scanned.nextPlacement = some (waitingGrid (some 0), 0) ∧ (scanning.scanned.die 0).awake = true ∧
      scanning.scanned.ctx? (waitingGrid (some 0)).ctx = some ctx1 ∧
      scanning.scanned.admits (waitingGrid (some 0)) 0 = some ([0], 0, 0)) ∧
    (let x := waitingGrid (some 0)
     let s : State := { State.reset with ctxs := [ctx1], grids := [x], clk := { State.reset.clk with tick := 1125001 } }
     s.grid? 1 = some x ∧ x.since = some 0 ∧ s.waitRuns x = true ∧ 0 + 1125000 < s.clk.tick) ∧
    (let x : Grid := { grid1 with lrec := { launchRec (launchBytes 0) with deps := [0x200000001] }, placed := 0 }
     let s : State := { State.reset with ctxs := [ctx1], grids := [x, grid2 (some 2)] }
     s.grid? 1 = some x ∧ x.status = none ∧ x.reading = none ∧ x.finaliser = none ∧ x.placed = 0 ∧
       s.gridOf 1 0x200000001 = some (grid2 (some 2)) ∧ (2 : Word).toNat % 256 ≠ 0) ∧
    (let x : Grid := { grid1 with lrec := launchRec (launchBytes 0), placed := 1 }
     let s : State := { State.reset with ctxs := [ctx1], grids := [x] }
     s.grid? 1 = some x ∧ x.placed ≠ 0 ∧ x.placed = x.lrec.teams ∧ GridGone s x) ∧
    (let g : Group := { grp with sc := { grp.sc with wait := .gwait 4 2 } }
     let s := inGrid g [gridHere true, grid2 (some 0)] 0
     s.group? 1 = some g ∧ g.life = .resident ∧ g.unhindered ∧ s.grid? 2 = some (grid2 (some 0))) ∧
    (let g : Group := { grp with sc := { grp.sc with wait := .rolesw 1 } }
     let s := inGrid g [gridHere true] 0
     s.group? 1 = some g ∧ g.unhindered ∧ s.grid? 1 = some (gridHere true) ∧ RoleFits s g ((gridHere true).lrec.role 1)) := by
  refine ⟨⟨test_scan_places_the_grid, by decide +kernel⟩, by decide +kernel, by decide +kernel, ⟨by decide +kernel, by decide,
    by decide +kernel, by decide +kernel, by decide +kernel, by decide +kernel, by decide +kernel, by decide +kernel,
    by decide +kernel, by decide +kernel, by decide +kernel, fun _ h => absurd h List.not_mem_nil,
    fun _ h => absurd h List.not_mem_nil⟩, by decide +kernel, by decide +kernel⟩
/-- A trigger table of two states and two rows from state 0: an EVT event leads to state 1 and counts, TIMER 0 to state 1; state 1
accepts where `acc` is 2, and samples. Its watch entry loads comparator 7, where it has one. -/
def table (acc watches : Nat) : List Byte :=
  [1, 2, 2, 1, BitVec.ofNat 8 watches, 0] ++ leBytes 2 acc ++ leBytes 8 8 ++ leBytes 48 0 ++ (leBytes 16 0x10 ++ leBytes 16 0)
    ++ leBytes 224 0 ++ leBytes 16 (0x10 + 2 ^ 50) ++ leBytes 16 (0x10 + 2 ^ 11) ++ leBytes 992 0
    ++ (if watches = 0 then leBytes 128 0 else leBytes 8 0x4000000000 ++ leBytes 4 16 ++ [7, 3, 0, 0] ++ leBytes 112 0)
def armed (acc : Nat) (timer : Option Nat) : Automaton :=
  ⟨table acc 0, some 1, 0, 0, List.replicate 4 0, List.replicate 4 0, [timer, none], 0, false, none⟩
/-- The group in its handler with a control word in s4, a record's address in s3 and a seal's number in s5. -/
def trigGrp (x y : Word) (idem : Bool) : Group := { (sup.withS 4 x).withS 5 y with idem := idem }
def trigUnit (x : Option Automaton) (q : List TEvent) : TrigUnit :=
  { TrigUnit.empty with autos := [x, none, none, none], queue := q, marks := [(0, 200)] }
def inTrigger (g : Group) (u : TrigUnit) : State := (withRecord (inGroup g) (table 0 1)).setUnit 0 u
/-- A seal of the group, and the state with it. -/
def seal0 : Seal := ⟨0, 1, 1, 0, 0, 0, 0, 0x4000000000, [], none⟩
def inSeal (g : Group) (l : List Seal) : State :=
  let s := tabled (inGroup g) 0x1007B
  { s with tramir := { s.tramir with seals := l } }

theorem test_witness_TriggerWordsAct :
    Runs (inGroup grp) cur grp (.evt 1 2) ∧
    (∀ x ∈ [7, 8], let g := trigGrp x 0 false
      let s := inTrigger g TrigUnit.empty
      Runs s cur g (.tarm 6 3 4) ∧ Runs s cur g (.tdisarm 6 4) ∧ TrapReady s g causeIllegal ∧
        RecordAt s g 0x4000000100 1472 (readAt s g 0x4000000100 1472).1 (readAt s g 0x4000000100 1472).2) ∧
    (let g := trigGrp 0 0 false
     let s := inTrigger g (trigUnit (some (armed 0 none)) [])
     Runs s cur g (.tdisarm 6 4) ∧ (s.unit (unitNamed g 0)).autos.getD (autoNamed 0) none = some (armed 0 none) ∧
       (armed 0 none).owner = some g.place.ctx ∧ (armed 0 none).ending = none) ∧
    (let g := trigGrp 1 0 false
     let s := inTrigger g (trigUnit (some (armed 0 none)) [])
     Runs s cur g (.tdisarm 6 4) ∧ (s.unit (unitNamed g 1)).autos.getD (autoNamed 1) none = none) ∧
    (∀ x ∈ [0x100, 4, 2], let g := trigGrp x 0 false
      Runs (inGroup g) cur g (.sopen 6 4 5) ∧ (2 ^ 8 ≤ x.toNat ∨ x.toNat / 4 % 4 ≠ 0 ∨ 1 < x.toNat % 4) ∧
        TrapReady (inGroup g) g causeIllegal) ∧
    (∀ idem ∈ [true, false], let g := trigGrp 0xF1 0x4000000000 idem
      Runs (inSeal g []) cur g (.sopen 6 4 5) ∧ (∃ l, Reaches (inSeal g []) g (g.getS 5) 4096 .store l) ∧ g.idem = idem ∧
        TrapReady (inSeal g []) g 0x0B) ∧
    LowestSeal (inSeal sup []) 0 ∧
    (let g := trigGrp 0xF1 0x4000000000 false
     4 ≤ ((inSeal g (List.replicate 4 seal0)).tramir.seals.filter fun l => l.g == g.uid).length ∧
       Runs (inSeal g (List.replicate 4 seal0)) cur g (.sopen 6 4 5)) ∧
    (let g := trigGrp 0 1 false
     Runs (inSeal g [seal0]) cur g (.sadd 5 3 1) ∧ Runs (inSeal g [seal0]) cur g (.sclose 6 5) ∧
       TrapReady (inSeal g [seal0]) g 0x11 ∧ (inSeal g [seal0]).tramir.seals.find? (fun l => l.n == 1 && l.g == 1) = none) ∧
    (∀ idem ∈ [true, false], ∀ x ∈ [0x100000000, 0x100000001], let g := trigGrp x 0 idem
      Runs (inSeal g [seal0]) cur g (.sadd 5 3 4) ∧ Holds (inSeal g [seal0]) g (g.getS 5) seal0 ∧
        Runs (inSeal g [seal0]) cur g (.sclose 6 5) ∧ TrapReady (inSeal g [seal0]) g 0x0B ∧ TrapReady (inSeal g [seal0]) g causeIllegal) := by
  refine ⟨?_, ?_, ?_, ?_, ?_, ?_, ⟨by decide, by decide +kernel, fun m h => absurd h (Nat.not_lt_zero _)⟩, ?_, ?_, ?_⟩
  · decide +kernel
  · intro x hx
    rcases List.mem_cons.mp hx with rfl | hx
    · exact ⟨by decide +kernel, by decide +kernel, by decide +kernel, recordAt_page _ _ _ 1472 (by decide +kernel)⟩
    · rw [List.mem_singleton.mp hx]
      exact ⟨by decide +kernel, by decide +kernel, by decide +kernel, recordAt_page _ _ _ 1472 (by decide +kernel)⟩
  · decide +kernel
  · decide +kernel
  · intro x hx
    simp only [List.mem_cons, List.not_mem_nil, or_false] at hx
    rcases hx with rfl | rfl | rfl <;> refine ⟨?_, by decide, ?_⟩ <;> decide +kernel
  · intro i hi
    simp only [List.mem_cons, List.not_mem_nil, or_false] at hi
    rcases hi with rfl | rfl <;> refine ⟨?_, ⟨page, ?_⟩, rfl, ?_⟩ <;> decide +kernel
  · refine ⟨?_, ?_⟩ <;> decide +kernel
  · refine ⟨?_, ?_, ?_, ?_⟩ <;> decide +kernel
  · intro i hi x hx
    simp only [List.mem_cons, List.not_mem_nil, or_false] at hi hx
    rcases hi with rfl | rfl <;> rcases hx with rfl | rfl <;> refine ⟨?_, ?_, ?_, ?_, ?_⟩ <;> decide +kernel

/-- An EVT event at stamp 150 that the automaton takes. -/
def evt150 : TEvent := ⟨0x10, 0, 0, 3, 150, none, [1]⟩
theorem calm (x : Automaton) (q : List TEvent) (h : x.ending = none ∧ x.cn.length = 4 ∧ x.cap.length = 4 ∧ x.tm.length = 2) :
    UnitCalm (trigUnit (some x) q) := by
  refine ⟨rfl, fun y hy => ?_⟩
  simp [trigUnit] at hy
  rw [hy]; exact h

theorem test_witness_TriggerStepsAct :
    (∀ acc ∈ [0, 2], let u := trigUnit (some (armed acc none)) [evt150]
      let s := inTrigger grp u
      UnitCalm (s.unit 0) ∧ s.firstEvent 0 = some (0, 150, evt150) ∧ s.markedPast 0 150 = true ∧ s.firstTimer 0 = none ∧
        (armed acc none).receives evt150 150 = true ∧ (rowFor (armed acc none) evt150 none).isSome = true ∧
        (tabAccMask (table acc 0)).testBit (rowAt ((rowFor (armed acc none) evt150 none).getD 0) 7 4) = (acc == 2) ∧
        (tabAction (table acc 0)).toNat % 8 = 0 ∧ (tabAction (table acc 0)).toNat / 16 % 16 = 0) ∧
    (let u := trigUnit (some (armed 0 (some 120))) [evt150]
     let s := inTrigger grp u
     UnitCalm (s.unit 0) ∧ s.firstTimer 0 = some (120, 0, 0) ∧ s.firstEvent 0 = some (0, 150, evt150) ∧ s.markedPast 0 120 = true ∧
       (s.unit 0).autos.getD 0 none = some (armed 0 (some 120))) ∧
    ((inTrigger grp (trigUnit none [])).unit 0).lost = [] ∧
    (let f : TEvent := { evt150 with src := 5 }
     let u : TrigUnit := { trigUnit none [] with lost := [(f, 70000)] }
     u.lost.find? (fun l => l.1.src.toNat == 5) = some (f, 70000) ∧ (u.queue.filter fun x => x.src == f.src).length < 64) ∧
    (∀ w ∈ [0, 1], let g : Group := { sup with sc := { sup.sc with wait := .tarm 6 0 0 (table 2 w) } }
      let s := inTrigger g TrigUnit.empty
      s.group? 1 = some g ∧ g.life = .resident ∧ g.unhindered ∧ (s.unit 0).autos.getD 0 none = none ∧
        tableReason (table 2 w) = none ∧ s.compsTaken 0 (table 2 w) = false ∧ tableReason (0 :: (table 2 w).drop 1) = some 1 ∧
        (s.setUnit 0 (trigUnit (some { armed 0 none with table := table 0 1 }) [])).compsTaken 0 (table 2 w) = (w == 1)) ∧
    (let g : Group := { sup with sc := { sup.sc with wait := .sclose 6 0 0 } }
     let s := inSeal g [seal0]
     s.group? 1 = some g ∧ g.life = .resident ∧ g.unhindered ∧ s.earlierPending 1 0 = false ∧
       s.tramir.seals.find? (fun y => y.n == 0) = some seal0 ∧ seal0.ranges = [] ∧ s.ctx? 1 = some ctx1 ∧
       PageAt s g.die 1 (s.worldOf g) .store seal0.record 4096 0x10000 ∧ goodData s 0x10000 4096) := by
  refine ⟨?_, ⟨calm _ _ (by decide), by decide +kernel⟩, ?_, ?_, ?_,
    ⟨by decide +kernel, by decide +kernel, by decide +kernel, by decide +kernel, by decide +kernel, by decide +kernel,
      by decide +kernel, ⟨by decide +kernel, by decide +kernel, page, by decide +kernel⟩, fun _ _ => List.not_mem_nil⟩⟩
  · intro a ha
    rcases List.mem_cons.mp ha with rfl | ha
    · exact ⟨calm _ _ (by decide), by decide +kernel⟩
    · rw [List.mem_singleton.mp ha]; exact ⟨calm _ _ (by decide), by decide +kernel⟩
  all_goals decide +kernel
/-- Group 1 with a scalar result for register `r`, and with a lane result of four registers from v8 in two pieces of lane 31. -/
def scalarOut (r : Nat) (x : ScalarResult) : Group := { grp with sc := { grp.sc with outst := [{ x with reg := r }] } }
def loaded : ScalarResult := ⟨0, 30, .ext 2 true, 0x4000000000, some 0xFFFF8000, none, none⟩
def laneOut (poison : Option BadData) (integ : Option Word) : Group :=
  { laneGrp with ln := { laneGrp.ln with
    outst := [⟨8, 4, false, 3, [⟨31, 30, 0, .ext 8 false, some 5, none, none⟩, ⟨31, 31, 64, .ext 8 false, some 6, none, none⟩]⟩,
      ⟨8, 1, false, 3, [⟨31, 32, 0, .ext 4 false, some 5, poison, integ⟩]⟩] } }
def waiting (w : ScalarWait) : Group := { grp with sc := { grp.sc with wait := w } }

theorem test_witness_ResultsAndTrapsArrive :
    (∀ r ∈ [0, 63, 64, 71], let g := scalarOut r loaded
      (inGroup g).group? 1 = some g ∧ g.sc.outst[0]? = some { loaded with reg := r } ∧ loaded.value = some 0xFFFF8000 ∧
        loaded.poison = none ∧ loaded.integ = none ∧ loaded.post = .ext 2 true) ∧
    (∀ x ∈ [{ loaded with integ := some 0x4000000100 }, { loaded with poison := some ⟨false, 0, 0⟩ }], let g := scalarOut 5 x
      (inGroup g).group? 1 = some g ∧ g.sc.outst[0]? = some { x with reg := 5 }) ∧
    (∀ x ∈ [(none, none), (some ⟨false, 0, 0⟩, none), (none, some 0x4000000100)], let g := laneOut x.1 x.2
      (inGroup g).group? 1 = some g ∧ g.ln.outst[0]?.isSome = true ∧ g.ln.outst[1]?.isSome = true ∧
        (∀ r ∈ g.ln.outst, ∀ p ∈ r.pieces, p.value ≠ none ∧ p.lane < 32) ∧ cellsWf g.ln.v = true ∧ cellsWf g.ln.hv = true) ∧
    (let g : Group := { waiting .hold with ln := { laneGrp.ln with wait := .hold } }
     (inGroup g).group? 1 = some g ∧ g.life = .resident ∧ g.sc.wait = .hold ∧ g.sc.outst = [] ∧ g.ln.frozen = false ∧
       g.ln.wait = .hold ∧ g.ln.outst = []) ∧
    (∀ lane ∈ [false, true], let g : Group := { grp with sc := { grp.sc with entry := some ⟨0x13, lane, 0x4000000100, 1, 0, false⟩ } }
      EntryReady (inGroup g) g 0x13) ∧
    (let g : Group := { coming .resident false with sc := { grp.sc with async := [⟨0x0A, false, 0, 0, 0, false⟩] } }
     g.sc.async = ⟨0x0A, false, 0, 0, 0, false⟩ :: [] ∧ (inGroup g).group? 1 = some g ∧ g.coming ≠ none) ∧
    (let g : Group := { grp with sc := { grp.sc with async := [⟨0x19, false, 0, 0, 0, false⟩] } }
     grp.coming = none ∧
     g.sc.async = ⟨0x19, false, 0, 0, 0, false⟩ :: [] ∧ g.sc.sup = false ∧ g.sc.entry = none ∧ TrapReady (inGroup g) g 0x19) := by
  repeat' first | decide +kernel | apply And.intro

/-- Group 1 with a fragment parked at each of some LPCs. -/
def parkedAt (u : Bool) (ps : List (BitVec 32)) : Group :=
  { laneGrp with ln := { laneGrp.ln with frags := ps.zipIdx.map fun p => ⟨p.2, BitVec.ofNat 32 (16 ^ p.2), p.1, false, .regang u, 0, 0, []⟩ } }

theorem test_witness_BlocksRunAndEnd :
    (let g : Group := { blocks 7 with sc := { grp.sc with wait := .lrun 5 } }
     Waits (inGroup g) g (.lrun 5) ∧ g.blocksOut < 8) ∧
    (let g : Group := blocks 1
     ∃ b, (inGroup g).group? 1 = some g ∧ g.life = .resident ∧ g.ln.frozen = false ∧ g.ln.cur = none ∧ g.ln.queue = b :: []) ∧
    (let g : Group := { laneGrp with ln := { laneGrp.ln with frags := [] } }
     (inGroup g).group? 1 = some g ∧ g.ln.cur.isSome = true ∧ g.ln.frags = [] ∧ g.ln.outst = []) ∧
    (let g := waiting (.lwait 0)
     Waits (inGroup g) g (.lwait 0) ∧ g.blocksOut ≤ 0) ∧
    (∀ op ∈ [LaneStateOp.get 4 255 31, .set 255 31 7, .readMask 4 0, .writeMask 7 5], let g := waiting (.laneState op)
      Waits (inGroup g) g (.laneState op) ∧ g.laneQuiet ∧ 255 < g.role.vregs ∧ 32 * 255 + 31 ∉ g.ln.bad ∧
        32 * 255 + 31 ∉ g.ln.badOne) ∧
    (∀ x ∈ [(false, [4, 9]), (true, [4, 4])], let g := parkedAt x.1 x.2
      (inGroup g).group? 1 = some g ∧ g.ln.frozen = false ∧ (∀ f ∈ g.ln.frags, f.st ≠ .ready ∧ f.lanes ≠ 0) ∧
        (∃ f ∈ g.ln.frags, f.lpc = 4) ∧ (∀ f ∈ g.ln.frags, (4 : BitVec 32).toNat ≤ f.lpc.toNat) ∧
        ((∀ f ∈ g.ln.frags, f.lpc = 4) ∨ ∀ f ∈ g.ln.frags, f.st ≠ .regang true)) ∧
    (let g := parkedAt true [4, 9]
     (∃ f ∈ g.ln.frags, f.lpc = 4 ∧ f.st = .regang true) ∧ g.ln.regangOk = false ∧ (∃ f ∈ g.ln.frags, f.lpc ≠ 4) ∧
       TrapReady (inGroup g) g 0x03) := by
  refine ⟨?_, ⟨⟨half 0, grp.sc.s, grp.dm, 0⟩, ?_⟩, ?_⟩
  all_goals repeat' first | decide +kernel | apply And.intro

theorem test_witness_SystemWaitsEnd :
    Waits (inGroup (waiting (.sleep 0))) (waiting (.sleep 0)) (.sleep 0) ∧
    (∀ scope ∈ [0, 5], let g := waiting (.fence true scope none)
      Waits (inGroup g) g (.fence true scope none) ∧ (inGroup g).readBefore g false g.seq g.sc.laneSeq = false ∧
        (inGroup g).releasedOpt none = true) ∧
    (let g : Group := { laneGrp with ln := { laneGrp.ln with wait := .fence laneCur true 2 (some 77) } }
     (inGroup g).group? 1 = some g ∧ g.life = .resident ∧ g.ln.frozen = false ∧ (inGroup g).readBefore g true g.seq g.blockSeq = false ∧
       (inGroup g).releasedOpt (some 77) = true) ∧
    (∀ w ∈ [ScalarWait.halt, .idemb, .ideme], let g := waiting w
      Waits (inGroup g) g w ∧ g.sc.outst = [] ∧ g.blocksOut = 0) ∧
    (∀ ms ∈ [[1], [1, 9]], let g := waiting .exit
      let tm : Team := { teamOf 0 with members := ms }
      let s : State := { inGroup g with teams := [tm] }
      s.group? 1 = some g ∧ g.life = .resident ∧ g.sc.entry = none ∧ g.sc.wait = .exit ∧ g.blocksOut = 0 ∧ g.sc.outst = [] ∧
        g.sc.async = [] ∧ (∀ l ∈ s.tramir.seals, l.g ≠ g.uid) ∧ (∀ k ∈ g.tokens, k.fault = none) ∧ s.team? 1 = some tm) := by
  repeat' first | decide +kernel | apply And.intro

/-- A request of the group for 8 bytes at `addr`, and the state in which it is the one in its core's order. -/
def requestOf (scratch : Bool) (addr : Nat) (op : MemOp) : MemReq := ⟨30, grp.origin 0 false 0, 0, 0, 0, 1, scratch, addr, 0, false, none, 0, op⟩
def inOrder (r : MemReq) : State := (inGroup grp).setCore 0 { (inGroup grp).core 0 with reqs := [r] }

theorem test_witness_RequestsActAtTheirHome :
    (∀ op ∈ [MemOp.marker 1 true, .marker 5 false, .store [1], .rmw 0 8 1], let r := requestOf false 0x10100 op
      let g : Group := { grp with sq := [r] }
      (inGroup g).group? 1 = some g ∧ g.sq = r :: [] ∧ (inGroup g).readBefore g r.who.lane r.seq r.after = false ∧
        (inGroup g).plumbBefore r = false) ∧
    (ActsNow (inOrder (requestOf false 0 (.marker 4 false))) 0 0 (requestOf false 0 (.marker 4 false))) ∧
    (∀ scratch ∈ [true, false], ∀ op ∈ [MemOp.load 8 true 5, .store (List.replicate 8 255), .rmw 9 4 (2 ^ 32 - 1), .cas 8 [(0, 1), (1, 2 ^ 64 - 1)]],
      let r := requestOf scratch 0x101F8 op
      let s := inOrder r
      ActsNow s 0 0 r ∧ r.isMarker = false ∧ memWf (s.core 0).scratch = true ∧ (s.core 0).poisonS = [] ∧ s.group? r.who.g = some grp ∧
        r.addr % 128 + r.bytes ≤ 128 ∧ s.portRefuses 0 r.who.world r.addr = false ∧ s.tramir.ranges = [] ∧
        r.addr / 128 ∉ s.mem.poison ∧ (s.core 0).near = []) ∧
    (OperandsFit (.rmw 9 4 (2 ^ 32 - 1)) ∧ OperandsFit (.cas 8 [(0, 1), (1, 2 ^ 64 - 1)])) ∧
    (∀ a ∈ [0x4000000000000, 0x7FFFFFFFFFFF8], let r := requestOf false a (.store [1])
      ActsNow (inOrder r) 0 0 r ∧ 0x4000000000000 ≤ r.addr ∧ r.addr < 0x8000000000000) ∧
    (let g : Group := { waiting (.scAccess 30) with ln := { laneGrp.ln with wait := .scAccess [31, 32] } }
     (inGroup g).group? 1 = some g ∧ g.unhindered ∧ (inGroup g).allReqs = [] ∧ (inGroup g).outb = []) := by
  repeat' first | decide +kernel | apply And.intro
/-- Group 1 in a walk for the page of 0x4000000000, whose level-0 entry is `e`, with frames in the pools of die 0. -/
def walkGrp (st : WalkStage) (stale : Bool) : Group := waiting (.walk ⟨0x4000000100, st, stale⟩)
def walkState (e clock : Nat) (st : WalkStage) (small : List Nat) : State :=
  let s := tabled (inGroup (walkGrp st false)) e
  { s.setDie 0 { s.die 0 with ft := ⟨small, [], [], 0⟩ } with clk := { s.clk with clock := clock } }
/-- The state with a held engine operation, and with the hart's privilege. -/
def heldOp : EngOp := { copyOp with held := some ⟨0x4000000100, 0, 0, true⟩ }

theorem test_witness_WalksAndRemovalsEnd :
    (∀ e ∈ [0x1007B, 0x1047B, 2, 0, 5, 4, 1], let s := walkState e 0 .walking []
      s.ctx? ctx1.spec.number = some ctx1 ∧ canonical 0x4000000100 = true ∧
        s.levelZero 0x4000000100 3 ctx1.spec.root.toNat = some (0x106000, e) ∧ s.reduced = false) ∧
    (tierOf 0x10000 = some 0 ∧ tierOf (0x10000 + 8191) = some 0 ∧ 0x1047B / 2 ^ 10 % 8 = 1 ∧ tierOf (0x10000 + (2 ^ 18 - 1)) = some 0) ∧
    ((walkState 2 0 .walking []).tablesAsleep 1 0x4000000100 = false ∧
      (let s := walkState 2 0 .walking []
       (s.setDie 0 { s.die 0 with awake := false }).tablesAsleep 1 0x4000000100 = true)) ∧
    (∀ st ∈ [WalkStage.walking, .held 0 0], ∀ stale ∈ [false, true], let g := walkGrp st stale
      WalkAt ((walkState 2 (2 ^ 26) st []).setGroup g) (.scalar 1) g ⟨0x4000000100, st, stale⟩) ∧
    ((walkState 2 (2 ^ 26) (.held 0 0) []).walk 1 0x4000000100 = .held ∧ (walkState 0 0 .walking []).walk 1 0x4000000100 = .bad ∧
      (walkState 5 0 .walking []).walk 1 0x4000000100 = .untouched 0x106000 5 false ∧
      (walkState 0x1007B 0 .walking []).walk 1 0x4000000100 = .leaf page ∧ 0 + 2048 ≤ (walkState 2 2048 (.held 0 0) []).clk.clock) ∧
    (∀ x ∈ [(5, []), (5, [0x200000]), (0x1007B, [])], let st : WalkStage := .touching 0x106000 5 false
      let s := walkState x.1 0 st x.2
      WalkAt s (.scalar 1) (walkGrp st false) ⟨0x4000000100, st, false⟩ ∧ (s.die 0).ft.small = x.2 ∧ s.tramir.ranges = [] ∧
        leNat ((List.range 8).map fun i => s.physByte (s.keyOf (0x106000 / 128)).world (0x106000 + i)) = x.1) ∧
    (let s : State := { inEngine grp [heldOp] with clk := { State.reset.clk with clock := 2 ^ 26 } }
     s.engs.find? (fun q => q.uid == 40) = some heldOp ∧ heldOp.held = some ⟨0x4000000100, 0, 0, true⟩) ∧
    ((inGroup grp).hart.priv ≠ 0 ∧ (inGroup grp).allReqs = [] ∧ { (inGroup grp).hart with priv := 0 }.priv = 0) := by
  repeat' first | decide +kernel | apply And.intro

/-- A word of GCTL for the group in slot 0 of core 0 of context 1, and for slot 1. -/
def gctlWord (op slot : Nat) : Word := word (2 ^ 32 + 2 ^ 28 * op + slot)
/-- The group at a point of its life, in a team and a preemptible grid, with the stop area at 0x4000000000. -/
def lived (life : Life) : Group := { grp with life := life }
def stopCtx : Context := { ctx1 with spec := { ctx1.spec with stopBase := 0x4000000000, logBase := 0x4000000400, logSize := 16 } }
def preGrid (flags : BitVec 4) : Grid := { grid1 with lrec := { launchRec (launchBytes 0) with flags := flags } }
def supervised (g : Group) (flags : BitVec 4) : State :=
  { tabled (inGroup g) 0x1007B with ctxs := [stopCtx], grids := [preGrid flags], teams := [teamOf 0] }

/-- The halted group with a sibling that issues, in a team of both. -/
def sibling : Group := { grp with uid := 2, place := { grp.place with slot := 1 } }
def paired (h : Group) : State :=
  { supervised (lived .halted) 8 with groups := [lived .halted, h], teams := [{ teamOf 0 with members := [1, 2] }] }

theorem test_witness_GctlWritesAct :
    ({ (inGroup grp) with sched := { (inGroup grp).sched with turn := .land 1 } }.clk.fenced = false) ∧
    (∀ l ∈ [Life.resident, .halted], ∀ b ∈ [false, true], (inGroup (coming l b)).group? 1 = some (coming l b) ∧
      (coming l b).coming = some ⟨⟨b, .clock 0, false⟩, 24⟩) ∧
    (let g : Group := { coming .resident false with sc := { grp.sc with entry := some ⟨1, false, 0, 0, 0, false⟩ } }
     (inGroup g).group? 1 = some g ∧ g.sc.entry ≠ none ∧ g.coming.isSome = true) ∧
    (StopPlace (supervised (coming .resident false) 8) (coming .resident false) stopCtx 0x10000 ∧ grp.sc.entry = none ∧
      grp.sc.wait.binding = false) ∧
    (∀ h ∈ [sibling, { sibling with coming := some ⟨⟨false, .stamp 0, true⟩, 40⟩ }], let s := paired h
      Named s 0 (gctlWord 3 0) (lived .halted) ∧ s.team? 1 = some { teamOf 0 with members := [1, 2] } ∧ s.group? 2 = some h ∧
        h.life = .resident ∧ h.stop = none ∧ h.sc.entry = none ∧ h.sc.wait.binding = false) ∧
    ([1, 2].Nodup ∧ sibling.coming = none) ∧
    (let s := supervised grp 8
     ((s.setDie 0 { s.die 0 with busy := some 7 }).die 0).busy ≠ none) ∧
    (let s := supervised grp 8
     (s.die 0).busy = none ∧ (∀ g ∈ s.groups, ¬ Named s 0 (gctlWord 1 1) g) ∧ s.groups = [grp] ∧ s.group? 1 = some grp) ∧
    (∀ l ∈ [Life.resident, .halted, .stopped, .teamHalted], let s := supervised (lived l) 8
      Named s 0 (gctlWord 1 0) (lived l) ∧ s.ctx? 1 = some stopCtx ∧ stopCtx.ending = false ∧ (lived l).stop = none ∧
        (∀ l ∈ s.tramir.seals, l.g ≠ 1) ∧ s.team? 1 = some (teamOf 0) ∧ 1 ∈ (teamOf 0).members ∧ s.grid? 1 = some (preGrid 8)) ∧
    (∀ op ∈ [1, 2, 3, 4, 5], (gctlWord op 15).toNat / 2 ^ 28 % 2 ^ 4 = op) ∧
    ((preGrid 8).lrec.flags.getLsbD 3 = true ∧ (preGrid 0).lrec.flags.getLsbD 3 = false ∧ (supervised grp 0).grid? 1 = some (preGrid 0)) ∧
    (let g : Group := { grp with sc := { grp.sc with entry := some ⟨1, false, 0, 0, 0, false⟩ } }
     Named (supervised g 8) 0 (gctlWord 4 0) g ∧ g.sc.entry ≠ none) ∧
    (let s : State := { supervised grp 8 with teams := [{ teamOf 0 with halted := some 1 }] }
     Named s 0 (gctlWord 2 0) grp ∧ grp.life = .resident ∧ s.team? 1 = some { teamOf 0 with halted := some 1 }) ∧
    (let s := supervised (coming .resident false) 8
     Named s 0 (gctlWord 4 0) (coming .resident false) ∧ s.team? 1 = some (teamOf 0) ∧ (teamOf 0).halted = none) := by
  refine ⟨?_, ?_, ?_, ⟨⟨?_, ?_, ?_, ?_, pageAt_page _ _ _ _ _ _ _ _ ?_⟩, ?_⟩, ?_, ?_, ?_, ?_, ?_, ?_, ?_, ?_, ?_, ?_⟩
  all_goals repeat' first | decide +kernel | apply And.intro

/-- A second context with a waiting grid of 16 groups, which needs the slot of group 1; core 0 has the partition word of both. -/
def ctx2 : Context := { ctx1 with spec := { ctx1.spec with number := 2 } }
def bigGrid : Grid :=
  { waitingGrid (some 0) with
    uid := 2
    ctx := 2
    lrec := { launchRec (launchBytes 0) with roles := [⟨0, 16, 8, 0, false⟩] } }
def sharing (g : Group) (slice : Nat) : State :=
  let s := inGroup g
  { s.setCore 0 { s.core 0 with part := 1, slices := [(1, slice)] } with
    ctxs := [ctx1, ctx2], grids := [{ preGrid 8 with placed := 1 }, bigGrid], teams := [teamOf 0] }
/-- The group evicted, or about to be, with a team whose windows are saved or not. -/
def away : Group := { grp with life := .evicted, evict := some 5, role := ⟨0, 64, 0⟩ }
def restoring (saved : Option (List Byte × List Byte)) (halted : Option (BitVec 8)) (g : Group) : State :=
  { sharing g 0 with grids := [{ preGrid 8 with placed := 1 }], teams := [{ teamOf 0 with saved := saved, halted := halted }] }

theorem test_witness_ContextsAreSwitched :
    ((sharing { grp with role := ⟨0, 64, 0⟩ } 7).ctx? 1 = some ctx1 ∧
      (sharing { grp with role := ⟨0, 64, 0⟩ } 7).expiryPlan 0 1 = some (bigGrid, [1]) ∧
      ctx1.spec.slice ≤ look 0 ((sharing grp 7).core 0).slices 1) ∧
    (∀ g ∈ [{ grp with evicting := some false, used := true },
        { grp with evicting := some false, idem := true, snap := some ⟨grp.sc.s, 0, grp.dm, grp.k, 0x4000000010, false⟩ }],
      (inGroup g).groups.filter Group.drained = [g] ∧ (inGroup g).group? 1 = some g ∧ (g.idem = false → g.used = true) ∧
        (g.idem = true → g.snap.isSome = true)) ∧
    (∀ flags ∈ [8, 9], let g : Group := { grp with evicting := some false }
      let s := supervised g flags
      s.groups.filter Group.drained = [g] ∧ s.group? 1 = some g ∧ g.idem = false ∧ g.used = false ∧ s.grid? 1 = some (preGrid flags) ∧
        s.ctx? 1 = some stopCtx ∧ (preGrid flags).lrec.flags.getLsbD 0 = (flags == 9)) ∧
    (∀ saved ∈ [none, some (List.replicate 8 1, List.replicate 8 2)], ∀ halted ∈ [none, some 1], let s := restoring saved halted away
      s.group? 1 = some away ∧ s.team? 1 = some { teamOf 0 with saved := saved, halted := halted } ∧
        s.restorable away { teamOf 0 with saved := saved, halted := halted } { preGrid 8 with placed := 1 } = true ∧
        (∀ h ∈ s.groups, h.place.core = 0 → (h.isResident = true → h.place.slot ≠ 0) ∧
          (h.isResident = false → away.evict.getD 0 ≤ h.evict.getD 0)) ∧ (s.core 0).wf = true) ∧
    (let y : Grid := { preGrid 10 with placed := 1 }
     let s : State := { restoring none none away with grids := [y] }
     y.lrec.flags.getLsbD 1 = true ∧ s.group? 1 = some away ∧ s.team? 1 = some (teamOf 0) ∧ s.grid? 1 = some y ∧
       s.restorable away (teamOf 0) y = true ∧ away.latchAway = none) ∧
    (let g : Group := { away with latchAway := some 2 }
     (preGrid 8).lrec.flags.getLsbD 1 = false ∧ (restoring none none g).restorable g (teamOf 0) { preGrid 8 with placed := 1 } = true ∧ g.stop = none ∧ g.sc.outst = [] ∧
       g.ln.outst = [] ∧ g.sc.wait.binding = false ∧ g.ln.wait.binding = false) ∧
    (let s := sharing grp 0
     s.clk.ctxend.toNat / 2 ^ 18 % 4 ≠ 1 ∧ s.ctx? 3 = none ∧ s.ctx? 2 = some ctx2 ∧ s.group? 1 = some grp ∧ s.groups = [grp] ∧
       (0x10002 : Word).getLsbD 16 = true ∧ (0x2 : Word).getLsbD 16 = false ∧
       { s.clk with ctxend := 0x40002 }.ctxend.toNat / 2 ^ 18 % 4 = 1) ∧
    (let x : Context := { ctx1 with ending := true }
     let s : State := { sharing (lived .stopped) 0 with ctxs := [x, ctx2] }
     s.ctxs.find? (fun c => c.ending) = some x ∧ s.endQuiet x.spec.number = true) := by
  repeat' first | decide +kernel | apply And.intro
/-- A late fault of the group, and the state with it, the context's log being at 0x4000000400. -/
def report1 : Report := ⟨grp.origin 0 false 0, false, 0x4000000100, 0x18⟩
def reporting (gs : List Group) : State := { supervised grp 8 with groups := gs, reports := [report1] }

theorem test_witness_ErrorsAndRegistersAct :
    (Sector 0 ∧ Sector (2 ^ 33 - 1) ∧ Sector (2 ^ 34) ∧ 0 ∉ (inGroup grp).mem.poison) ∧
    (let s := (inGroup grp).setCore 2047 { Core.empty with part := 5 }
     8 * 37887 + 8 ≤ scratchBytes (s.core 2047).part ∧ 37887 ∉ (s.core 2047).poisonS ∧ 8 * 4095 + 8 = accBytes (s.core 2047).part ∧
       4095 ∉ (s.core 2047).poisonA) ∧
    ((inGroup grp).group? 1 = some grp ∧ ((inGroup grp).team? 1).isSome = true ∧ 8447 ∉ grp.ln.bad ∧ 8447 ∉ grp.ln.badOne) ∧
    (let g : Group := { grp with ln := { grp.ln with badOne := [8447] } }
     let s : State := { inGroup g with teams := [{ teamOf 0 with mirror := true }] }
     s.group? 1 = some g ∧ s.team? 1 = some { teamOf 0 with mirror := true } ∧ 8447 ∉ g.ln.bad ∧ 8447 ∈ g.ln.badOne) ∧
    (let s : State := { inGroup grp with mem := { (inGroup grp).mem with visits := [(9, 16, true)] } }
     s.mem.visits.find? (fun v => v.1 == 9) = some (9, 16, true)) ∧
    (let s : State := { inGroup grp with mem := { (inGroup grp).mem with poison := [7], retry := [(9, 15, 0)] },
                                          clk := { State.reset.clk with clock := 4096 } }
     7 ∈ s.mem.poison ∧ s.mem.retry.find? (fun r => r.1 == 9) = some (9, 15, 0) ∧ 0 + 4096 ≤ s.clk.clock) ∧
    ((reporting [grp]).reports[0]? = some report1 ∧ (reporting [grp]).group? 1 = some grp ∧ grp.sc.sup = false ∧
      ∀ q ∈ (reporting [grp]).reports.take 0, q.who.g ≠ 1) ∧
    ((reporting []).group? 1 = none ∧ (reporting []).grid? 1 = some (preGrid 8) ∧
      LogPlace (reporting []) report1.who stopCtx 0x10400) ∧
    ((2 ^ 40 - 2 ^ 13) % 2 ^ 13 = 0 ∧ 2 ^ 36 * 15 ≤ 2 ^ 40 - 2 ^ 13 ∧ 2 ^ 40 - 2 ^ 13 < 2 ^ 36 * 16 ∧
      ((inGroup grp).die 15).ft.small.length < 1024) := by
  refine ⟨?_, ?_, ?_, ?_, ?_, ?_, ?_, ⟨?_, ?_, ?_, ?_, ?_, ?_, ?_, pageAt_page _ _ _ _ _ _ _ _ ?_, fun _ _ => List.not_mem_nil,
    fun _ h => absurd h List.not_mem_nil⟩, ?_⟩
  all_goals repeat' first | decide +kernel | apply And.intro

/-- The host's witnesses: context 1 with its page, holding a launch record at 0x4000000100. -/
def hosting (c : Context) : State :=
  { tabled (withRecord (inGroup grp) (launchBytes 0)) 0x1007B with ctxs := [c], clk := { State.reset.clk with phase := 3 } }

theorem test_witness_HostRequestsAct :
    (let k : ContextSpec := { ctx1.spec with number := 2 ^ 16 - 1, logSize := 2 ^ 20 }
     2 ≤ (hosting ctx1).clk.phase ∧ k.number < 2 ^ 16 ∧ (hosting ctx1).ctx? k.number = none ∧ k.logBase.toNat % 64 = 0 ∧
       k.slice = 0 ∧ (281250 ≤ 4500000 ∧ 4500000 ≤ 72000000) ∧ ∃ j, 4 ≤ j ∧ j ≤ 20 ∧ k.logSize = 2 ^ j) ∧
    ((hosting ctx1).ctx? 1 = some ctx1 ∧ ctx1.start = none ∧ ctx1.ending = false ∧ (∀ y ∈ (hosting ctx1).grids, y.uid ≠ 1) ∧
      ∃ b, DeviceRecord (hosting ctx1) 1 0 0x4000000100 b []) ∧
    ((hosting { ctx1 with start := some 0 }).ctx? 1 = some { ctx1 with start := some 0 } ∧
      (hosting ctx1).walk 1 0x7000000000 = .bad ∧ (hosting ctx1).tablesAsleep 1 0x7000000000 = false) ∧
    PageAt (hosting ctx1) 16 1 0 .store (word 0x4000001FF8) 8 0x11FF8 ∧ PageAt (hosting ctx1) 16 1 0 .load (word 0x4000000070) 32 0x10070 ∧
    ((∀ n, (some 9 : Option Nat) = some n → (hosting ctx1).ctx? n = none) ∧ 2 ^ 28 < 2 ^ 28 - 7 + min 8 8) ∧
    ((hosting ctx1).walk 1 (word 0x7000000000) = .bad ∧ HostTurn (hosting ctx1)) ∧
    (let s := tabled (inGroup grp) 2
     HostTurn s ∧ s.ctx? 1 = some ctx1 ∧ s.tablesAsleep 1 (word 0x4000000000) = false ∧ s.walk 1 (word 0x4000000000) = .held) ∧
    (let s : State := { hosting ctx1 with jobs := [⟨70, .hostAcks [3], none⟩] }
     ∃ j ∈ s.jobs, j.act.isHost = true) := by
  refine ⟨⟨?_, ?_, ?_, ?_, ?_, ?_, 20, ?_⟩, ⟨?_, ?_, ?_, ?_, _, ⟨0x10100, ?_, pageAt_page _ _ _ _ _ _ _ _ ?_, fun _ _ => List.not_mem_nil, rfl⟩,
    .inl ?_⟩, ?_, pageAt_page _ _ _ _ _ _ _ _ ?_, pageAt_page _ _ _ _ _ _ _ _ ?_,
    ⟨fun n hn => by rw [← Option.some.inj hn]; decide +kernel, ?_⟩, ?_, ?_, ⟨⟨70, .hostAcks [3], none⟩, ?_⟩⟩
  all_goals repeat' first | decide +kernel | apply And.intro

/-- A grant entry at 0x4000000100 for 64 bytes at 0x4000000400 with every right, and a token that its MAC makes good. -/
def grantBytes : List Byte := leBytes 8 0x4000000400 ++ leBytes 4 64 ++ leBytes 2 1 ++ [3, 1]
def goodToken : Word := Config.grantMac 0 0x3000 1 2 ++ (0x3000 : BitVec 32)
def ingress (token : Word) (offset : BitVec 30) (op : FabricOp) : FabricRequest := ⟨1, 2, 7, token, false, 1, 0, offset, op⟩
def grantCtx : Context := { ctx1 with spec := { ctx1.spec with gtBase := 0x4000000100 } }
def granting : State := { tabled (withRecord (inGroup grp) grantBytes) 0x1007B with ctxs := [grantCtx] }

theorem append_toNat (m l : BitVec 32) : (m ++ l).toNat = 2 ^ 32 * m.toNat + l.toNat := by
  rw [BitVec.toNat_append, ← Nat.shiftLeft_add_eq_or_of_lt l.isLt, Nat.shiftLeft_eq, Nat.mul_comm]

theorem goodToken_good (offset : BitVec 30) (op : FabricOp) : TokenGood granting (ingress goodToken offset op) := by
  have h : (ingress goodToken offset op).token.toNat = 2 ^ 32 * (Config.grantMac 0 0x3000 1 2).toNat + 0x3000 :=
    append_toNat _ _
  have hk : (BitVec.ofNat 4 ((ingress goodToken offset op).token.toNat / 2 ^ 28)) = 0 := by
    apply BitVec.eq_of_toNat_eq
    rw [h, BitVec.toNat_ofNat]
    show _ = 0
    omega
  have hl : BitVec.ofNat 32 (ingress goodToken offset op).token.toNat = 0x3000 := by
    apply BitVec.eq_of_toNat_eq
    rw [h, BitVec.toNat_ofNat]
    show _ = 0x3000
    omega
  refine ⟨.inl (hk.trans (by decide +kernel)), ?_, ?_⟩
  · rw [hk, hl, h]
    show (Config.grantMac 0 0x3000 1 2).toNat = _
    omega
  · rw [h]
    show _ % 2 ^ 14 < 2 ^ 13
    have : granting.clk.tick = 0 := by decide +kernel
    rw [this]
    omega

/-- An outbound access of the group, to the host or to a peer. -/
def outbound (pa : Nat) (dead : Bool) (kind : OutKind) : Outbound :=
  ⟨30, some (grp.origin 0 false 0), none, 0x4000000100, pa, 5, 0, dead, 0, kind⟩
def sending (o : Outbound) : State := { inGroup (scalarOut 4 { loaded with src := 30, value := none }) with outb := [o] }

theorem test_witness_FabricRequestsAct :
    (∀ op ∈ [FabricOp.load 8, .store [1, 2], .atomic 9 false 1, .compareSwap true 0 1, .reduction 0 true 1],
      let r := ingress goodToken 56 op
      r.op ≠ .fenceSequence ∧ Unanswered granting r ∧ granting.ctx? 1 = some grantCtx ∧ 0 < requestBytes op ∧
        EntryAdmits { r with token := 0x3000 } (granting.physRead 0 0x10100 16) ∧
        PageAt granting 16 1 0 (requestAcc op) 0x4000000438 (requestBytes op) 0x10438) ∧
    (∀ op, TokenGood granting (ingress goodToken 56 op)) ∧ goodToken.toNat % 2 ^ 32 = 0x3000 ∧
    (PageAt granting 16 1 0 .load 0x4000000100 16 0x10100 ∧ goodData granting 0x10100 16 ∧ goodData granting 0x10438 8) ∧
    -- R442: a peer in compatibility mode, which the unit has given the translation, or not
    (∀ l ∈ [[], [(1, 1, 0x2000000)]], let r : FabricRequest := { ingress 0 56 (.load 8) with compat := true }
      let s : State := { granting with fabric := { granting.fabric with given := l } }
      Unanswered s r ∧ r.compat = true ∧ EntryAdmits r (granting.physRead 0 0x10100 16) ∧ s.tablesAsleep 1 0x4000000438 = false ∧
        s.walk 1 0x4000000438 = .leaf page ∧ s.asleepAt 0x10438 = false ∧ page.phys 0x4000000438 < 2 ^ 51 ∧ s.jobs = []) ∧
    (let r := ingress goodToken 64 (.load 8)
     ¬ EntryAdmits { r with token := 0x3000 } (granting.physRead 0 0x10100 16)) ∧
    (let s : State := { granting with fabric := { granting.fabric with fenced := [1], answered := [(1, 2, 8, .done)] } }
     ¬ Unanswered s (ingress goodToken 0 (.load 8))) ∧
    (let s : State := { granting with clk := { granting.clk with tick := 1125000 } }
     s.fabric.rotated + 1125000 ≤ s.clk.tick) ∧
    (let o := outbound (2 ^ 51) false (.store [1])
     let s : State := { sending o with fabric := { State.reset.fabric with keyGen := 3 } }
     s.outb[0]? = some o ∧ o.who = some (grp.origin 0 false 0) ∧ 2 ^ 51 ≤ o.pa ∧ o.dead = false ∧ o.gen + 3 ≤ s.fabric.keyGen) ∧
    (∀ x ∈ [(outbound (2 ^ 50) false (.store [1]), false), (outbound (2 ^ 51) true (.store [1]), false),
        (outbound (2 ^ 51) false (.atomic 0 8 1), true)], let s := sending x.1
      s.outb[0]? = some x.1 ∧ (s.group? 1).isSome = true ∧ s.engs = [] ∧ (x.2 = true → s.awaits 1 30 = true)) ∧
    (let o := outbound (2 ^ 50) false (.store [1])
     ({ inGroup grp with outb := [o] } : State).awaits 1 30 = false) ∧
    (let r := requestOf false (2 ^ 51) (.load 8 true 5)
     let o : Outbound := { outbound (2 ^ 51) false (.load 8) with req := some r }
     let s := sending o
     s.outb[0]? = some o ∧ r.id = o.id ∧ r.who = grp.origin 0 false 0 ∧ (∀ d, o.kind ≠ .store d) ∧ s.awaits 1 30 = true) ∧
    (let s : State := { inGroup grp with fabric := { State.reset.fabric with recalled := [(3, 1, 9, 0)] },
                                          clk := { State.reset.clk with tick := 2 ^ 24 } }
     3 ∉ s.fabric.fenced ∧ ∃ x ∈ s.fabric.recalled, x.1 = 3 ∧ x.2.2.2 + 2 ^ 24 ≤ s.clk.tick) ∧
    (let o : Outbound := { outbound (2 ^ 50) false (.store [1]) with who := none }
     (sending o).outb[0]? = some o) ∧
    (let r := requestOf false (2 ^ 51) (.store [1])
     let s : State := { inOrder r with ctxs := [{ ctx1 with spec := { ctx1.spec with xcompat := true } }] }
     s.unfetched[0]? = some (1, 2 ^ 38) ∧ 1 ∉ s.fabric.fenced) := by
  refine ⟨?_, fun op => goodToken_good 56 op, ?_, ⟨pageAt_page _ _ _ _ _ _ _ _ ?_, fun _ _ => List.not_mem_nil, fun _ _ => List.not_mem_nil⟩,
    ?_, ?_, ?_, ?_, ?_, ?_, ?_, ⟨?_, ?_, ?_, nofun, ?_⟩, ?_, ?_, ?_⟩
  · intro op hop
    simp only [List.mem_cons, List.not_mem_nil, or_false] at hop
    rcases hop with rfl | rfl | rfl | rfl | rfl <;>
      exact ⟨by decide, by decide +kernel, by decide +kernel, by decide, by decide +kernel, pageAt_page _ _ _ _ _ _ _ _ (by decide +kernel)⟩
  · have h : goodToken.toNat = 2 ^ 32 * (Config.grantMac 0 0x3000 1 2).toNat + 0x3000 := append_toNat _ _
    generalize (Config.grantMac 0 0x3000 1 2).toNat = m at h
    rw [h]; omega
  all_goals repeat' first | decide +kernel | apply And.intro

theorem test_witness_TimeAndPowerAct :
    (let s : State := { inGroup grp with clk := { State.reset.clk with half := true } }
     s.clk.half = true ∧ s.clk.phase ≠ 2) ∧
    (let s := (State.reset.setStack 0 { Stack.empty with slot := 1 }).setStack 1 { Stack.empty with slot := 1 }
     s.slotDue = false ∧ ({ s with clk := { s.clk with half := true } } : State).slotDue = false ∧ s.disciplineDue = false ∧
       s.stepDue = false) ∧
    (let s := State.reset.setDie 3 { Die.empty with offset := 5 }
     ({ s with clk := { s.clk with half := true, tick := 1125000, back := some 0 } } : State).disciplineDue = true) ∧
    (let s := inTrigger grp (trigUnit (some (armed 0 none)) [evt150])
     ({ s with clk := { s.clk with half := true, tick := 10000 } } : State).stepDue = true) ∧
    (State.reset.clk.half = false ∧ State.reset.clk.phase ≠ 2 ∧ State.reset.stopDue = false ∧
      (inGroup (coming .resident false)).stopDue = false) ∧
    (let s : State := { inGroup (coming .resident false) with clk := { State.reset.clk with clock := 24 } }
     s.clk.fenced = false ∧ s.stopDue = true) ∧
    ((State.reset.die 15).corr = 0 ∧ (State.reset.die 15).lastCorr = 0 ∧ ((State.reset.die 15).offset + 1 - 0).toNat ≤ 2 ∧
      ∀ e < 16, e ≠ 15 → ((State.reset.die 15).offset + 1 - (State.reset.die e).offset).toNat ≤ 2) ∧
    (let s := State.reset.setDie 3 { Die.empty with offset := 5 }
     s.clk.lost = none ∧ min (5 - 1 : Word).toNat (-(5 - 1) : Word).toNat < min (s.die 3).offset.toNat (-(s.die 3).offset).toNat) ∧
    (let s : State := { State.reset with clk := { State.reset.clk with lost := some 0, tick := 112500000 } }
     s.clk.lost = some 0 ∧ s.clk.tick ≤ 0 + 112500000) ∧
    (State.reset.clk.lost = none ∧ State.reset.clk.fenced = false ∧ State.reset.clk.phase < 2) ∧
    (let s : State := { State.reset with clk := { State.reset.clk with lost := some 0, tick := 112500001, fenced := true, phase := 2 } }
     s.clk.lost = some 0 ∧ 0 + 112500000 < s.clk.tick ∧ s.clk.fenced = true ∧ s.clk.phase = 2) ∧
    (let s : State := { State.reset with sched := { State.reset.sched with turn := .scalar 0 0 } }
     s.sched.turn ≠ .hart ∧ s.sched.turn ≠ .tick ∧ (∀ i, s.sched.turn ≠ .event i) ∧ (∀ core k, s.sched.turn ≠ .replace core k) ∧
       ∀ die big k, s.sched.turn ≠ .replaceDie die big k) ∧
    ((State.reset.die 15).awake = true ∧ (∀ g ∈ (inGroup grp).groups, g.place.core / 128 ≠ 15) ∧
      (∃ g ∈ (inGroup grp).groups, g.isResident = true ∧ g.place.core / 128 = 0)) ∧
    (let s := State.reset.setDie 15 { Die.empty with awake := false }
     (s.die 15).awake = false ∧ (s.stack 1).pg.all (fun e => !e.getLsbD 63) = true) := by
  refine ⟨?_, ?_, ?_, ?_, ?_, ?_, ?_, ?_, ?_, ?_, ?_, ⟨nofun, nofun, nofun, nofun, nofun⟩, ?_, ?_⟩
  all_goals repeat' first | decide +kernel | apply And.intro

theorem test_witness_TramirActs :
    ((∀ g ∈ (inGroup grp).groups, g.isResident = true → g.place.core / 128 ≠ 15) ∧ (∀ t ∈ (inGroup grp).teams, t.core / 128 ≠ 15) ∧
      ((inGroup grp).die 15).port = [] ∧ ((inGroup grp).die 15).portWait = []) ∧
    (∃ g ∈ (inGroup grp).groups, g.isResident = true ∧ g.place.core / 128 = 0) ∧
    ((hosting ctx1).ctx? 1 = some ctx1 ∧ (hosting ctx1).ctx? 9 = none) ∧
    (let s := supervised (lived .halted) 8
     s.clk.fenced = false ∧ ∃ t, exec (.resume 0 (gctlWord 1 0)) s = .next t) ∧
    (let s := inTrigger grp TrigUnit.empty
     s.clk.fenced = false ∧ (s.unit 16).autos.getD 3 none = none ∧ tableReason (table 2 0) = none ∧ s.compsTaken 16 (table 2 0) = false ∧
       tableReason (0 :: (table 2 0).drop 1) = some 1) ∧
    (let s := inTrigger grp (trigUnit (some { armed 0 none with table := table 0 1 }) [])
     (s.unit 0).autos.getD 0 none ≠ none ∧ (s.unit 0).autos.getD 1 none = none ∧ s.compsTaken 0 (table 2 1) = true) ∧
    (∀ x ∈ [(200, none), (20, none), (200, some 100)],
      let s := inTrigger grp { trigUnit (some (armed 0 x.2)) [] with marks := [(0, x.1)] }
      let s : State := { s with clk := { s.clk with tick := 150 } }
      (s.unit 0).autos.getD 0 none = some (armed 0 x.2) ∧ (armed 0 x.2).owner = some 1 ∧ s.firstEvent 0 = none ∧
        (s.meridian 0).toNat = 150 ∧ s.markedPast 0 150 = (x.1 == 200)) ∧
    UnitCalm (trigUnit (some (armed 0 none)) []) ∧
    (State.reset.tramir.dump = none ∧
      ({ State.reset with tramir := { State.reset.tramir with dump := some ⟨1, 0, 0, [], [], [], []⟩ } } : State).tramir.dump =
        some ⟨1, 0, 0, [], [], [], []⟩) ∧
    (let c : Context := { ctx1 with spec := { ctx1.spec with prot := true, world := 3 } }
     let s := hosting c
     s.ctx? 1 = some c ∧ c.spec.prot = true ∧ c.ending = false ∧ s.tramir.moving = [] ∧
       let t : State := { s with groups := [], tramir := { s.tramir with moving := [⟨1, 5, false⟩] } }
       t.tramir.moving.find? (fun m => m.ctx == 1) = some ⟨1, 5, false⟩ ∧ t.engs = [] ∧ t.mats = [] ∧ t.allReqs = [] ∧ t.outb = [] ∧
         { (⟨1, 5, false⟩ : MigrationState) with sent := true }.sent = true) := by
  refine ⟨?_, ?_, ?_, ⟨?_, ⟨_, rfl⟩⟩, ?_, ?_, ?_, calm _ _ (by decide), ?_, ?_⟩
  all_goals repeat' first | decide +kernel | apply And.intro
end Sys2Proof.Tests
end

section
/-! SUPPORT. Proofs about the sequential machine: a trap entry that nothing delays, the checks that every scalar word meets
before its effect, and the jumps, returns and traps of the scalar stream. -/

namespace Sys2Proof.Machine

open Sys2Proof

-- States and groups that differ where no check of a trap entry looks.

/-- An event of a group changes the trigger units alone. -/
theorem State.emitG_eq (s : State) (g : Group) (cls tag payload : Nat) :
    s.emitG g cls tag payload = { s with units := (s.emitG g cls tag payload).units } := by
  unfold State.emitG State.emitBy
  dsimp only
  split <;> rfl

/-- The second of two writes of a group is the one that stays. -/
theorem State.setGroup_setGroup (s : State) {g h : Group} (hu : h.uid = g.uid) :
    (s.setGroup h).setGroup g = s.setGroup g := by
  have hx : ∀ x ∈ s.groups, ((fun x => if x.uid == g.uid then g else x) ∘ fun x => if x.uid == h.uid then h else x) x
      = if x.uid == g.uid then g else x := by
    intro x _
    by_cases hx : x.uid = g.uid <;> simp [hu, hx]
  unfold State.setGroup
  dsimp only
  rw [List.map_map, List.map_congr_left hx]

/-- Translations do not depend on the groups of the state. -/
theorem State.fetchFails_setGroup (s : State) (k g : Group) (va : Word) :
    (s.setGroup k).fetchFails g va = s.fetchFails g va := rfl

/-- Of a group, the fetch of an address depends on its place alone. -/
theorem State.fetchFails_place (s : State) {g h : Group} (hp : h.place = g.place) (va : Word) :
    s.fetchFails h va = s.fetchFails g va := by
  unfold State.fetchFails State.worldOf Group.die
  rw [hp]

-- Words by the model's reading and by the claims'.

/-- A natural number as a word. -/
theorem word_eq_wordOf (n : Nat) : word n = wordOf n := (BitVec.ofInt_natCast ..).symm

/-- A cause has eight bits. -/
theorem toNat_ofNat_cause {cause : Nat} (hc : cause < 256) : (BitVec.ofNat 8 cause).toNat = cause := by
  rw [BitVec.toNat_ofNat]
  exact Nat.mod_eq_of_lt hc

/-- TVB.BASE as a number: TVB without its low 12 bits. -/
theorem tvb_base_toNat (tvb : Word) : (tvb &&& ~~~0xFFF#64).toNat = tvb.toNat / 4096 * 4096 := by
  rw [show ~~~0xFFF#64 = BitVec.allOnes 64 <<< 12 by decide, ← BitVec.shiftLeft_ushiftRight, BitVec.toNat_shiftLeft,
    BitVec.toNat_ushiftRight, Nat.shiftLeft_eq, Nat.shiftRight_eq_div_pow]
  omega

/-- The vector address of a cause (R26). -/
theorem vectorOf_eq_handlerOf (tvb : Word) {cause : Nat} (hc : cause < 256) :
    vectorOf tvb (BitVec.ofNat 8 cause) = handlerOf tvb cause := by
  have hb : tvb &&& ~~~0xFFF#64 = word (tvb.toNat / 4096 * 4096) := by
    rw [← tvb_base_toNat]
    exact ((BitVec.ofNat_toNat ..).trans (BitVec.setWidth_eq _)).symm
  unfold vectorOf handlerOf
  rw [hb, toNat_ofNat_cause hc]
  exact (BitVec.ofNat_add ..).symm.trans (word_eq_wordOf _)

/-- Traps of a group whose TVB.BASE is not 0 vector (R358). -/
theorem Group.noVector_of_base {g : Group} (h : 4096 ≤ g.sr.tvb.toNat) : g.noVector = false := by
  have hb := tvb_base_toNat g.sr.tvb
  unfold Group.noVector
  rw [beq_eq_false_iff_ne]
  intro h0
  rw [h0, show (0 : Word).toNat = 0 from rfl] at hb
  omega

/-- Whether an address is no multiple of 4, by its bits [1:0] (R16). -/
theorem bits_low_two {w : Nat} (x : BitVec w) : (bits x 1 0 != 0) = decide (x.toNat % 4 ≠ 0) := by
  simp [bits, bne, Bool.beq_eq_decide_eq]

/-- The address some words from another (R85 to R87). -/
theorem wordsFrom_eq_wordOf {w : Nat} (x : Word) (n : BitVec w) : wordsFrom x n = wordOf (x.toNat + 4 * n.toInt) := by
  unfold wordsFrom wordOf
  rw [BitVec.ofInt_add, BitVec.ofInt_mul, BitVec.ofInt_natCast, BitVec.ofNat_toNat, BitVec.setWidth_eq,
    BitVec.shiftLeft_eq_mul_twoPow, BitVec.mul_comm]
  rfl

/-- An address whole words from another has its low two bits (R16). -/
theorem wordsFrom_mod_four {w : Nat} (x : Word) (n : BitVec w) : (wordsFrom x n).toNat % 4 = x.toNat % 4 := by
  unfold wordsFrom
  rw [BitVec.toNat_add, BitVec.toNat_shiftLeft, Nat.shiftLeft_eq]
  omega

-- Trap entry (R26, R351).

/-- What `TrapReady` asks of a group, said of one that the state need not hold as it is. -/
structure ReadyToVector (s : State) (g : Group) (cause : Nat) : Prop where
  found : (s.group? g.uid).isSome
  resident : g.life = .resident
  unstopped : g.stop = none
  unparked : g.sc.wait = .ready
  scalarDone : g.sc.outst = []
  laneDone : g.ln.outst = []
  laneFree : g.ln.wait.binding = false
  based : 4096 ≤ g.sr.tvb.toNat
  named : cause < 256
  fetched : s.fetchFails g (handlerOf g.sr.tvb cause) = some false

/-- A group of which `TrapReady` holds is one. -/
theorem readyToVector_of_trapReady {s : State} {g : Group} {cause : Nat} (h : TrapReady s g cause) :
    ReadyToVector s g cause := by
  obtain ⟨hg, hlife, hstop, hwait, hsc, hln, hlw, htvb, hcause, hfetch⟩ := h
  exact ⟨by rw [hg]; rfl, hlife, hstop, hwait, hsc, hln, hlw, htvb, hcause, hfetch⟩

/-- Where SPC stands does not matter to a trap entry. -/
theorem ReadyToVector.withSpc {s : State} {g : Group} {cause : Nat} (h : ReadyToVector s g cause) (pc : Word) :
    ReadyToVector s { g with sc := { g.sc with spc := pc } } cause :=
  { h with }

/-- A stream that is not parked leaves nothing for a trap to interrupt (R111). -/
theorem State.interrupt_of_ready (s : State) {g : Group} (h : g.sc.wait = .ready) : s.interrupt g = (s, g) := by
  have hg : { g with sc := { g.sc with wait := .ready } } = g := by rw [← h]
  simp [State.interrupt, h, ScalarWait.binding, hg]

/-- The group whose cause has been raised, its lane unit frozen and its entry to come (R26, R351). -/
def Group.raised (g : Group) (r : TrapRecord) : Group :=
  { g with
    ln := { g.ln with frozen := true, wait := g.ln.wait.frozen }
    evicting := g.evicting.map fun _ => true
    sc := { g.sc with entry := some r, walked := [] } }

/-- The trap registers of an entry are those of the claims' handler (R11, R26). -/
theorem Group.trapRegs_eq_inHandler {g k : Group} {cause : Nat} (hc : cause < 256) (hsr : k.sr = g.sr) (hpc : k.sc.spc = g.sc.spc)
    (hsup : k.sc.sup = g.sc.sup) (now : Nat) (lane told : Bool) (tval : Word) (lanes lpc : BitVec 32) :
    k.trapRegs ⟨BitVec.ofNat 8 cause, lane, tval, lanes, lpc, told⟩ =
      (g.inHandler now cause told lane g.sc.spc tval lanes lpc).sr := by
  have hx : ∀ x : BitVec 32, x.setWidth 64 = wordOf x.toNat := fun x =>
    (BitVec.ofNat_toNat ..).symm.trans (word_eq_wordOf x.toNat)
  unfold Group.trapRegs Group.inHandler tcauseWord
  rw [hsr, hpc, hsup, toNat_ofNat_cause hc, word_eq_wordOf, hx, hx]
  cases lane <;> cases g.sc.sup <;> rfl

/-- A lane unit that no operation binds issues its waiting word again after the thaw (R351). -/
theorem LaneWait.frozen_of_free {w : LaneWait} (h : w.binding = false) : w.frozen = .ready := by
  simp [LaneWait.frozen, h]

/-- An entry whose vector can be fetched puts the group into the handler and emits TRAP (R26, R358). -/
theorem State.enter_raised (s : State) {g : Group} {cause : Nat} (h : ReadyToVector s g cause) (lane told : Bool) (tval : Word)
    (lanes lpc : BitVec 32) :
    let r : TrapRecord := ⟨BitVec.ofNat 8 cause, lane, tval, lanes, lpc, told⟩
    s.enter (g.raised r) r =
      (s.setGroup (g.inHandler s.clk.clock cause told lane g.sc.spc tval lanes lpc)).emitG g 0x0A
        (cause + if lane then 256 else 0) (g.sc.spc.toNat % 2 ^ 32) := by
  have hv : ∀ k : Group, k.place = g.place → s.fetchFails k (vectorOf g.sr.tvb (BitVec.ofNat 8 cause)) = some false := by
    intro k hk
    rw [State.fetchFails_place s hk, vectorOf_eq_handlerOf _ h.named, h.fetched]
  intro r
  unfold State.enter
  dsimp only [Group.raised, r]
  rw [hv _, Group.trapRegs_eq_inHandler (g := g) (now := s.clk.clock) h.named, LaneWait.frozen_of_free h.laneFree,
    vectorOf_eq_handlerOf _ h.named]
  unfold State.emitTrap
  rw [toNat_ofNat_cause h.named]
  all_goals rfl

/-- A trap entry with nothing left to wait for takes effect (R26, R351). -/
theorem State.settle_enters {s : State} {g : Group} {r : TrapRecord} {cause : Nat} (hg : s.group? g.uid = some g)
    (h : ReadyToVector s g cause) (hr : g.sc.entry = some r) : s.settle g.uid = s.enter g r := by
  have hb : g.sc.wait.binding = false := by rw [h.unparked]; rfl
  simp [State.settle, hg, h.resident, hb, hr, Group.noVector_of_base h.based, h.scalarDone, h.laneDone, h.laneFree, h.unstopped]

/-- Whether a cause emits FAULT when it is raised: SWTRAP and BKPT do not (R380). -/
def emitsFault (cause : Nat) : Bool := decide (cause ≠ 9 ∧ cause ≠ 10)

/-- The state once a cause has emitted its FAULT event, if it emits one (R380). -/
def State.faultSaid (s : State) (g : Group) (cause : Nat) (lane : Bool) (tval : Word) : State :=
  if emitsFault cause then s.emitG g 0x09 (cause + if lane then 256 else 0) (tval.toNat % 2 ^ 32) else s

/-- The event changes the trigger units alone. -/
theorem State.faultSaid_eq (s : State) (g : Group) (cause : Nat) (lane : Bool) (tval : Word) :
    s.faultSaid g cause lane tval = { s with units := (s.faultSaid g cause lane tval).units } := by
  unfold State.faultSaid
  split
  · exact State.emitG_eq ..
  · rfl

/-- The model's test for that event, by the bits of the cause. -/
theorem emitsFault_eq {cause : Nat} (hc : cause < 256) :
    (false || !(BitVec.ofNat 8 cause == 0x09 || BitVec.ofNat 8 cause == 0x0A)) = emitsFault cause := by
  have hb : ∀ n : BitVec 8, (BitVec.ofNat 8 cause == n) = decide (cause = n.toNat) := fun n => by
    rw [Bool.eq_iff_iff, beq_iff_eq, decide_eq_true_iff, ← BitVec.toNat_inj, toNat_ofNat_cause hc]
  rw [hb, hb]
  simp [emitsFault]

/-- A raised cause waits for nothing but its own entry (R26, R351). -/
theorem State.raise_eq_settle {s : State} {g : Group} {cause : Nat} (h : ReadyToVector s g cause) (lane : Bool) (tval : Word)
    (lanes lpc : BitVec 32) :
    s.raise g ⟨BitVec.ofNat 8 cause, lane, tval, lanes, lpc, false⟩ =
      ((s.faultSaid g cause lane tval).setGroup
        (g.raised ⟨BitVec.ofNat 8 cause, lane, tval, lanes, lpc, emitsFault cause⟩)).settle g.uid := by
  unfold State.raise State.tellFault State.faultSaid
  dsimp only
  rw [emitsFault_eq h.named, if_neg Bool.false_ne_true, toNat_ofNat_cause h.named, State.interrupt_of_ready _ h.unparked]
  rfl

/-- What raising a cause changes leaves the group ready for the entry. -/
theorem ReadyToVector.raised {s : State} {g : Group} {cause : Nat} (h : ReadyToVector s g cause) (r : TrapRecord) :
    ReadyToVector (s.setGroup (g.raised r)) (g.raised r) cause where
  found := by
    rw [State.group?_setGroup_same, Option.isSome_map]
    exact h.found
  laneFree := by
    show g.ln.wait.frozen.binding = false
    rw [LaneWait.frozen_of_free h.laneFree]
    rfl
  resident := h.resident
  unstopped := h.unstopped
  unparked := h.unparked
  scalarDone := h.scalarDone
  laneDone := h.laneDone
  based := h.based
  named := h.named
  fetched := by
    rw [State.fetchFails_setGroup, State.fetchFails_place s (show (g.raised r).place = g.place from rfl)]
    exact h.fetched

/-- The entry of a raised cause is the claims' (R26, R351). -/
theorem State.settle_raised {s : State} {g : Group} {cause : Nat} (h : ReadyToVector s g cause) (lane told : Bool) (tval : Word)
    (lanes lpc : BitVec 32) :
    (s.setGroup (g.raised ⟨BitVec.ofNat 8 cause, lane, tval, lanes, lpc, told⟩)).settle g.uid =
      (s.setGroup (g.inHandler s.clk.clock cause told lane g.sc.spc tval lanes lpc)).emitG g 0x0A
        (cause + if lane then 256 else 0) (g.sc.spc.toNat % 2 ^ 32) := by
  let k := g.raised ⟨BitVec.ofNat 8 cause, lane, tval, lanes, lpc, told⟩
  have hk : (s.setGroup k).group? k.uid = some k := by
    obtain ⟨x, hx⟩ := Option.isSome_iff_exists.1 h.found
    rw [State.group?_setGroup_same, show k.uid = g.uid from rfl, hx]
    rfl
  have hs : ReadyToVector (s.setGroup k) g cause :=
    { h with found := (h.raised _).found }
  calc (s.setGroup k).settle k.uid
      = (s.setGroup k).enter k ⟨BitVec.ofNat 8 cause, lane, tval, lanes, lpc, told⟩ := State.settle_enters hk (h.raised _) rfl
    _ = ((s.setGroup k).setGroup (g.inHandler s.clk.clock cause told lane g.sc.spc tval lanes lpc)).emitG g 0x0A
          (cause + if lane then 256 else 0) (g.sc.spc.toNat % 2 ^ 32) := State.enter_raised _ hs ..
    _ = _ := by rw [State.setGroup_setGroup]; rfl

/-- An event changes nothing that an entry asks for. -/
theorem ReadyToVector.faultSaid {s : State} {g : Group} {cause : Nat} (h : ReadyToVector s g cause) (lane : Bool) (tval : Word) :
    ReadyToVector (s.faultSaid g cause lane tval) g cause := by
  rw [State.faultSaid_eq]
  exact { h with }

/-- A cause that can vector takes its trap in the step that raises it (R26, R351, R380). -/
theorem State.raise_eq_trapped {s : State} {g : Group} {cause : Nat} (h : ReadyToVector s g cause) (lane : Bool) (tval : Word)
    (lanes lpc : BitVec 32) :
    s.raise g ⟨BitVec.ofNat 8 cause, lane, tval, lanes, lpc, false⟩ = s.trapped g cause lane g.sc.spc tval lanes lpc := by
  rw [State.raise_eq_settle h, State.settle_raised (h.faultSaid lane tval)]
  rfl

/-- The trap of a scalar word that names its own address in TPC (R26). -/
theorem State.trapScalar_eq_trapped {s : State} {g : Group} {cause : Nat} (h : TrapReady s g cause)
    (hc : emitsFault cause = true) (tval : Word) :
    s.trapScalar g cause tval = s.trapped g cause false g.sc.spc tval 0 0 := by
  have hn : (cause == 0x09 || cause == 0x0A) = false := by
    obtain ⟨h9, h10⟩ := of_decide_eq_true hc
    rw [Bool.or_eq_false_iff, beq_eq_false_iff_ne, beq_eq_false_iff_ne]
    exact ⟨h9, h10⟩
  unfold State.trapScalar
  rw [hn]
  exact State.raise_eq_trapped (readyToVector_of_trapReady h) ..

/-- The trap of `trap` and `bkpt`, which names the next instruction in TPC (R26, R114). -/
theorem State.trapScalar_eq_trapped_next {s : State} {g : Group} {cause : Nat} (h : TrapReady s g cause)
    (hc : emitsFault cause = false) (tval : Word) :
    s.trapScalar g cause tval = s.trapped g cause false (g.sc.spc + 4) tval 0 0 := by
  have hn : (cause == 0x09 || cause == 0x0A) = true := by
    rw [emitsFault, decide_eq_false_iff_not, Decidable.not_and_iff_not_or_not, Decidable.not_not, Decidable.not_not] at hc
    rw [Bool.or_eq_true, beq_iff_eq, beq_iff_eq]
    exact hc
  unfold State.trapScalar
  rw [hn]
  exact State.raise_eq_trapped ((readyToVector_of_trapReady h).withSpc _) ..

-- The checks of a scalar word (R20, R25, R62).

/-- The mode of the group admits the word: a special register that the mode may access, a supervisor-only word in
supervisor mode (R9, R104, R114). -/
def admits (i : Instr) (g : Group) : Bool :=
  match i with
  | .getsr _ n => g.mayReadSr n.toNat
  | .setsr _ n => g.mayWriteSr n.toNat
  | i => !supervisorOnly i || g.sc.sup

/-- The course of a scalar word, in the claims' terms: ILLEGAL where its fields, the service or the mode do not admit it,
HOLDV with the first pending register that it names, otherwise an effect of its own. -/
def scalarCourse (i : Instr) (effect : State → Cur → Group → State) (s : State) : Out :=
  match s.issuer with
  | none => .fault .noIssuer
  | some (c, g) =>
    if !s.legal i || !admits i g then .next (s.trapScalar g causeIllegal (illegalWord c.hold i))
    else
      match g.firstPending (namedRegs i) with
      | some r => .next (s.trapScalar g causeHoldv (word r))
      | none => .next (effect s c g)

/-- Every scalar word takes that course: the registers that its meaning checks are those that it names, in their order. -/
theorem exec_eq_scalarCourse {i : Instr} (hi : isScalarWord i = true) :
    ∃ effect : State → Cur → Group → State, ∀ s, exec i s = scalarCourse i effect s := by
  cases i with
  | add | sub | and | or | xor | andn | shl | shr | sar | rol | min | max | minn | maxn | mul | mulh | mulhn | div
  | divn | rem | remn | clz | ctz | popc | brev | cmp | addi | andi | ori | xori | shli | shri | sari | roli | cmpi
  | muli | lui | addpc | sel | cset | cand | cor | cxor | cnot | movc | br | jmp | jr | nop | exit | yield | bkpt
  | trap | tret | idemb | ideme | halt | sleep | ldb | ldh | ldw | ldd | ldbs | ldhs | ldws | stb | sth | stw | std
  | ldqRlx | ldqAcq | stqRlx | stqRel | amoAdd | amoAnd | amoOr | amoXor | amoMin | amoMax | amoMinn | amoMaxn
  | amoSwap | cas | fenceAcq | fenceRel | fenceAcqrel | fenceSc | ldspB | ldspH | ldspW | ldspD | ldspBs | ldspHs
  | ldspWs | stspB | stspH | stspW | stspD | datumSet | datumClear | datumQuery | getsr | setsr | lrun | lwait | lget
  | lset | lmaskRead | lmaskWrite | mma | mgang | mwait | accz | accv | cpyG2s | cpyS2g | cpyGth | cpySct | cpyG2g
  | cpyw | cpywPoll | yieldc | collSum | collMax | collMin | collGather | collBcast | barInit | barArvRlx | barArvRel
  | barWait | barArw | barArvx | barQuery | plst | plamoAdd | plamoMax | plamoCas | plfence | plwait | plsync | thnew
  | thcopy | thdrop | thbind | tver | thinfo | ckclr | ckrd | ckchk | ckadd | launch | gwait | gquery | rolesw
  | roleq | evt | tarm | tdisarm | sopen | sadd | sclose =>
    exact ⟨_, fun _ => rfl⟩
  | _ => exact Bool.noConfusion hi

/-- A word that names a pending register raises HOLDV with the first one. -/
theorem scalarCourse_holdv {i : Instr} {effect : State → Cur → Group → State} {s : State} {c : Cur} {g : Group} {r : Nat}
    (hs : s.issuer = some (c, g)) (hl : s.legal i = true) (ha : admits i g = true)
    (hp : (namedRegs i).find? (fun r => g.pending r) = some r) :
    scalarCourse i effect s = .next (s.trapScalar g causeHoldv (word r)) := by
  simp [scalarCourse, hs, hl, ha, Group.firstPending, hp]

/-- What the claims ask of the mode is what the word's check asks. -/
theorem admits_of {i : Instr} {g : Group} (hsup : supervisorOnly i = true → g.sc.sup = true)
    (hget : ∀ d n, i = .getsr d n → g.mayReadSr n.toNat = true)
    (hset : ∀ a n, i = .setsr a n → g.mayWriteSr n.toNat = true) :
    admits i g = true := by
  unfold admits
  split
  · exact hget _ _ rfl
  · exact hset _ _ rfl
  · cases h : supervisorOnly i with
    | false => rfl
    | true => exact hsup h

-- Jumps, returns and traps (R16, R28, R87, R114).

/-- R16, R87: `jr` goes to an aligned target with its link, and raises MISALIGN for any other. -/
theorem exec_jr {d a : BitVec 6} {i : BitVec 13} {s : State} {c : Cur} {g : Group} (h : Runs s c g (.jr d a i)) :
    exec (.jr d a i) s = .next (
      if (g.getS a).toNat % 4 ≠ 0 then s.trapScalar g causeMisalign (wordOf ((g.getS a).toNat + 4 * i.toInt))
      else s.setGroup ((g.withS d (g.sc.spc + 4)).completed c.hold (wordOf ((g.getS a).toNat + 4 * i.toInt)))) := by
  obtain ⟨hs, hl, -, hp⟩ := h
  have hrun : execJr d a i s = .next (
      if bits (wordsFrom (g.getS a) i) 1 0 != 0 then s.trapScalar g 0x05 (wordsFrom (g.getS a) i)
      else s.retire (g.setS d (g.sc.spc + 4)) c.hold (wordsFrom (g.getS a) i)) :=
    scalarWord_runs hs hl (fun h => by cases h) hp
  rw [bits_low_two, wordsFrom_mod_four, wordsFrom_eq_wordOf] at hrun
  simp only [decide_eq_true_eq] at hrun
  exact hrun

/-- The group that has returned from an exception, but for SPC: the mode is TCAUSE.PM in supervisor mode, and the lane unit has
thawed (R28). -/
def Group.afterReturn (g : Group) : Group :=
  { g with
    sc := { g.sc with sup := g.sc.sup && g.sr.tcause.toNat / 256 % 2 = 1 }
    ln := { g.ln with frozen := false } }

/-- The return of the model is that one. -/
theorem retire_trapReturn (s : State) (g : Group) (hold : Bool) :
    s.retire g.trapReturn hold g.sr.tpc = s.setGroup (g.afterReturn.completed hold g.sr.tpc) := by
  have hpm : g.sr.tcause.getLsbD 8 = decide (g.sr.tcause.toNat / 256 % 2 = 1) := by
    rw [BitVec.getLsbD, Nat.testBit_eq_decide_div_mod_eq]
  unfold State.retire Group.trapReturn Group.afterReturn Group.completed
  rw [hpm]
  cases g.sc.sup <;> rfl

/-- R16, R28: `tret` returns to an aligned TPC, and raises MISALIGN for any other. -/
theorem exec_tret {s : State} {c : Cur} {g : Group} (h : Runs s c g .tret) :
    exec .tret s = .next (
      if g.sr.tpc.toNat % 4 ≠ 0 then s.trapScalar g causeMisalign g.sr.tpc
      else s.setGroup (g.afterReturn.completed c.hold g.sr.tpc)) := by
  obtain ⟨hs, hl, -, hp⟩ := h
  have hrun : execTret s = .next (
      if bits g.sr.tpc 1 0 != 0 then s.trapScalar g 0x05 g.sr.tpc else s.retire g.trapReturn c.hold g.sr.tpc) :=
    scalarWord_runs hs hl (fun h => by cases h) hp
  rw [bits_low_two, retire_trapReturn] at hrun
  simp only [decide_eq_true_eq] at hrun
  exact hrun

/-- R114: `trap` raises SWTRAP with the value of its register. -/
theorem exec_trap {a : BitVec 6} {s : State} {c : Cur} {g : Group} (h : Runs s c g (.trap a)) :
    exec (.trap a) s = .next (s.trapScalar g causeSwtrap (g.getS a)) := by
  obtain ⟨hs, hl, -, hp⟩ := h
  exact show execTrap a s = _ from scalarWord_runs hs hl (fun h => by cases h) hp

/-- R114: `bkpt` raises BKPT. -/
theorem exec_bkpt {s : State} {c : Cur} {g : Group} (h : Runs s c g .bkpt) :
    exec .bkpt s = .next (s.trapScalar g causeBkpt 0) := by
  obtain ⟨hs, hl, -, hp⟩ := h
  exact show execBkpt s = _ from scalarWord_runs hs hl (fun h => by cases h) hp

-- The obligations.

/-- Settles O12: every scalar word checks the registers that it names before its effect, and HOLDV can vector. -/
theorem pendingRegisterRaisesHoldv : Obligations.PendingRegisterRaisesHoldv := by
  intro i s c g r hi hs hl hsup hget hset hp hready
  obtain ⟨effect, he⟩ := exec_eq_scalarCourse hi
  rw [he, scalarCourse_holdv hs hl (admits_of hsup hget hset) hp, State.trapScalar_eq_trapped hready rfl]

/-- Settles O10: the target of `jr` and of `tret` is checked before either has an effect. -/
theorem misalignedTargetTraps : Obligations.MisalignedTargetTraps := by
  refine ⟨fun d a i s c g hrun hmis hready => ?_, fun s c g hrun hmis hready => ?_⟩
  · rw [exec_jr hrun, if_pos hmis, State.trapScalar_eq_trapped hready rfl]
  · rw [exec_tret hrun, if_pos hmis, State.trapScalar_eq_trapped hready rfl]

/-- Settles O11: the return is the model's `trapReturn`, and SWTRAP and BKPT move SPC past the word before the entry. -/
theorem trapsEnterAndReturn : Obligations.TrapsEnterAndReturn := by
  refine ⟨fun s c g hrun hal => ?_, fun a s c g hrun hready => ?_, fun s c g hrun hready => ?_⟩
  · rw [exec_tret hrun, if_neg (Decidable.not_not.2 hal)]
    rfl
  · rw [exec_trap hrun, State.trapScalar_eq_trapped_next hready rfl]
  · rw [exec_bkpt hrun, State.trapScalar_eq_trapped_next hready rfl]

end Sys2Proof.Machine
end

section
/-! SUPPORT. Proofs about the instruction encoding: the fetch of the scalar word that a partition's choice issues, and the
words that raise ILLEGAL, decoded or not. -/

namespace Sys2Proof.Machine

open Sys2Proof

-- A scalar word that its fields, the service or the mode do not admit (R9, R62, R104, R114).

/-- The claims' reading of a word that the mode does not admit is the word's check. -/
theorem not_admits_of {i : Instr} {g : Group}
    (h : (supervisorOnly i = true ∧ g.sc.sup = false) ∨ (∃ d n, i = .getsr d n ∧ g.mayReadSr n.toNat = false) ∨
      ∃ a n, i = .setsr a n ∧ g.mayWriteSr n.toNat = false) :
    admits i g = false := by
  obtain ⟨hs, hu⟩ | ⟨d, n, rfl, hn⟩ | ⟨a, n, rfl, hn⟩ := h
  · unfold admits
    split
    · cases hs
    · cases hs
    · rw [hs, hu]
      rfl
  · exact hn
  · exact hn

/-- A word that fails the first check raises ILLEGAL, with the word in TVAL. -/
theorem scalarCourse_illegal {i : Instr} {effect : State → Cur → Group → State} {s : State} {c : Cur} {g : Group}
    (hs : s.issuer = some (c, g)) (h : s.legal i = false ∨ admits i g = false) :
    scalarCourse i effect s = .next (s.trapScalar g causeIllegal (illegalWord c.hold i)) := by
  obtain h | h := h <;> simp [scalarCourse, hs, h]

-- The fetch of a scalar word (R14, R15, R25 step 1).

/-- Where the claims' fetch at SPC gives a word, the model's does. -/
theorem State.fetchScalar_of_fetchesAt {s : State} {g : Group} {w : W32}
    (h : FetchesAt s g g.sc.walked g.sc.spc w.toNat) : s.fetchScalar g = .word w := by
  obtain ⟨l, hx, hc, ha, hp, hw⟩ := h
  have hh : half w.toNat = w := (BitVec.ofNat_toNat ..).trans (BitVec.setWidth_eq _)
  simp [State.fetchScalar, hx, hc, ha, hp, hw, hh]

/-- A word that has been fetched lets an open vector entry emit its TRAP event (R358, R380). -/
theorem State.vectorTold_word (s : State) (g : Group) (w : W32) : s.vectorTold g (.word w) = s.vectorSaid g := by
  have hopen : (g.sc.vector.any fun v => v.due && !(ScalarFetch.word w).failsVector) = g.sc.vector.any fun v => v.due := by
    simp [ScalarFetch.failsVector]
  have hcause : bits g.sr.tcause 7 0 = g.sr.tcause.toNat % 256 := by simp [bits]
  unfold State.vectorTold State.vectorSaid State.emitTrap
  rw [hopen, hcause]

/-- The group whose scalar stream issues, as the model writes it. -/
theorem Group.issuing_eq (g : Group) (n : Nat) :
    g.issuing n = { g with
      sc := { g.sc with wait := .ready, last := some n }
      evicting := if g.coming.isNone then g.evicting.map fun _ => false else g.evicting } := by
  unfold Group.issuing
  cases g.coming <;> rfl

/-- What comes of a fetched scalar word once the choice is noted (R14, R62). -/
def State.issueWord (s : State) (g : Group) (w : W32) : Issue :=
  match decodeScalar w with
  | .error _ => .idle (s.trapScalar g causeIllegal (w.setWidth 64))
  | .ok i =>
    .word i ((s.setGroup (g.noteWord false (s.meridian g.die).toNat s.now)).executing ⟨g.uid, fH w, 0, 0, false⟩)

/-- The step of the group that a partition's choice takes runs the word at its SPC (R14, R159). -/
theorem step_scalar_of_chosen {s : State} {core part : Nat} {g : Group} {w : W32} (hc : Chosen s core part false g)
    (hf : FetchesAt s.advance g g.sc.walked g.sc.spc w.toNat) :
    let h := g.issuing s.clk.clock
    step s = State.runIssue (((s.choiceMade core (2 * part) h).vectorSaid h).issueWord h w) := by
  obtain ⟨hturn, hfenced, hmay, hchosen⟩ := hc
  have hissues : s.advance.issues = true := congrArg Bool.not hfenced
  have hmayNow : s.advance.mayIssue core (2 * part) = true := hmay
  have hissue : s.advance.issueScalar exec core part =
      ((s.choiceMade core (2 * part) (g.issuing s.clk.clock)).vectorSaid (g.issuing s.clk.clock)).issueWord
        (g.issuing s.clk.clock) w := by
    unfold State.issueScalar
    rw [show s.advance.choose core part (s.advance.scalarReady exec) (fun g => g.sc.last) = some g from hchosen]
    simp only [hmayNow, Bool.not_true, Bool.false_eq_true, if_false, State.fetchScalar_of_fetchesAt hf,
      State.vectorTold_word, Group.issuing_eq]
    rfl
  unfold step
  simp only [hturn, hissues, hissue, Bool.false_eq_true, if_false, if_true]

/-- A fetched word that decodes to no instruction raises ILLEGAL, with the word in TVAL (R62). -/
theorem State.issueWord_illegal (s : State) (g : Group) {w : W32} {e : DecodeError} (he : decodeScalar w = .error e) :
    s.issueWord g w = .idle (s.trapScalar g causeIllegal (word w.toNat)) := by
  simp [State.issueWord, he, word]

-- The obligation.

/-- Settles O13: a decoded word is checked before any effect, a word that decodes to none has no meaning to run, and ILLEGAL
can vector. -/
theorem illegalScalarWordTraps : Obligations.IllegalScalarWordTraps := by
  refine ⟨fun i s c g hi hs hbad hready => ?_, fun s core part g w e hc hf he hready => ?_⟩
  · obtain ⟨effect, hcourse⟩ := exec_eq_scalarCourse hi
    have hword : illegalWord c.hold i = word (encodeWord c.hold i).toNat := (BitVec.ofNat_toNat ..).symm
    rw [hcourse, scalarCourse_illegal hs (hbad.imp_right not_admits_of), hword, State.trapScalar_eq_trapped hready rfl]
  · rw [step_scalar_of_chosen hc hf, State.issueWord_illegal _ _ he, State.trapScalar_eq_trapped hready rfl]
    rfl

end Sys2Proof.Machine
end

section
/-! SUPPORT. Proofs about the jumps of the scalar stream: the fields of a word in the SJ format, the decoding of `jmp`, and the
effects of `jmp` and `br`. -/

namespace Sys2Proof

-- The fields of a word in the SJ format (R55).

@[simp] theorem fImm19_slWord (h : Bool) (op d : BitVec 6) (i : BitVec 19) : fImm19 (slWord h op d i) = i :=
  BitVec.extractLsb'_append_eq_right

@[simp] theorem fD_slWord (h : Bool) (op d : BitVec 6) (i : BitVec 19) : fD (slWord h op d i) = d :=
  calc fD (slWord h op d i)
      = (BitVec.ofBool h ++ op ++ d).extractLsb' 0 6 := BitVec.extractLsb'_append_eq_of_le (by decide)
    _ = d := BitVec.extractLsb'_append_eq_right

@[simp] theorem fOp_slWord (h : Bool) (op d : BitVec 6) (i : BitVec 19) : fOp (slWord h op d i) = op :=
  calc fOp (slWord h op d i)
      = (BitVec.ofBool h ++ op ++ d).extractLsb' 6 6 := BitVec.extractLsb'_append_eq_of_le (by decide)
    _ = (BitVec.ofBool h ++ op).extractLsb' 0 6 := BitVec.extractLsb'_append_eq_of_le (by decide)
    _ = op := BitVec.extractLsb'_append_eq_right

/-- R86: opcode 0x11 in the SJ format is `jmp`, with either hold bit and any fields. -/
theorem decodeScalar_jmp (h : Bool) (d : BitVec 6) (o : BitVec 19) : decodeScalar (slWord h 0x11 d o) = .ok (.jmp d o) := by
  have hfamily : decodeFamily (slWord h 0x11 d o) = decodeJmp (slWord h 0x11 d o) := by
    unfold decodeFamily
    rw [fOp_slWord]
    rfl
  have hword : decodeJmp (slWord h 0x11 d o) = .ok (.jmp d o) := by
    rw [decodeJmp, fD_slWord, fImm19_slWord]
  rw [decodeScalar, hfamily, hword]
  rfl

end Sys2Proof

namespace Sys2Proof.Machine

open Sys2Proof

-- The effects of `jmp` and `br` (R85, R86).

/-- A scalar word that retires has completed in the claims' sense (R14, R19, R105). -/
theorem State.retire_eq_completed (s : State) (g : Group) (hold : Bool) (next : Word) :
    s.retire g hold next = s.setGroup (g.completed hold next) := rfl

/-- A write to an s register is the claims' one, which s0 discards (R8). -/
theorem Group.setS_eq_withS (g : Group) (d : BitVec 6) (x : Word) : g.setS d x = g.withS d x := rfl

/-- R86: `jmp` writes its link and goes to its target. -/
theorem exec_jmp {d : BitVec 6} {o : BitVec 19} {s : State} {c : Cur} {g : Group} (h : Runs s c g (.jmp d o)) :
    exec (.jmp d o) s = .next (
      s.setGroup ((g.withS d (g.sc.spc + 4)).completed c.hold (wordOf (g.sc.spc.toNat + 4 * o.toInt)))) := by
  obtain ⟨hs, hl, -, hp⟩ := h
  have hrun : exec (.jmp d o) s = .next (s.retire (g.setS d (g.sc.spc + 4)) c.hold (wordsFrom g.sc.spc o)) :=
    show execJmp d o s = _ from scalarWord_runs hs hl (fun h => by cases h) hp
  rw [hrun, wordsFrom_eq_wordOf, State.retire_eq_completed, Group.setS_eq_withS]

/-- R85: `br` goes to its target where its condition register differs from N, and to the next word otherwise. -/
theorem exec_br {b : BitVec 3} {n : Bool} {o : BitVec 19} {s : State} {c : Cur} {g : Group} (h : Runs s c g (.br b n o)) :
    exec (.br b n o) s = .next (s.setGroup (g.completed c.hold
      (if g.getC b ≠ n then wordOf (g.sc.spc.toNat + 4 * o.toInt) else g.sc.spc + 4))) := by
  obtain ⟨hs, hl, -, hp⟩ := h
  have hrun : exec (.br b n o) s =
      .next (s.retire g c.hold (if g.getC b != n then wordsFrom g.sc.spc o else g.sc.spc + 4)) :=
    show execBr b n o s = _ from scalarWord_runs hs hl (fun h => by cases h) hp
  simp only [hrun, bne_iff_ne, wordsFrom_eq_wordOf, State.retire_eq_completed]

/-- Settles O9: `jmp` and `br` have no check of their own before their effect, and `jr` only that of its target's alignment. -/
theorem jumpsGoToTheirTarget : Obligations.JumpsGoToTheirTarget := by
  refine ⟨fun d o h => ⟨decodeScalar_jmp h d o, fun s c g hrun => exec_jmp hrun⟩,
    fun b n o s c g hrun => exec_br hrun, fun d a i s c g hrun hal => ?_⟩
  rw [exec_jr hrun, if_neg (Decidable.not_not.2 hal)]

end Sys2Proof.Machine
end
